-- ==== Sys2Proof/Word.lean ====
section
/-!
DEFINITION. The word types of the Yarkan KY-1024: 64-bit scalar words, 32-bit instruction words and bytes (R7, R21, R98).
-/
namespace Sys2Proof

/-- A 64-bit scalar register, CSR or address word (R21, R27). -/
abbrev Word := BitVec 64

/-- A byte of memory. -/
abbrev Byte := BitVec 8

/-- An instruction word (R98). -/
abbrev IWord := BitVec 32

end Sys2Proof
end

