-- ==== Sys2Proof/Machine/Types.lean ====
section
/-!
DEFINITION. The small data types that name the machine's agents, lattice types, watches and messages. The rows of
the opcode table that are events of the part carry them as operands, and State holds them.
-/
namespace Sys2Proof

/-- A context: the physical index 32*py+px of its crew and its number 4*seat+context in the crew (R16, R18, R395). -/
structure CtxId where
  crew : Nat
  n : Nat
  deriving DecidableEq, Repr

/-- The eight lattice types with the codes 0 to 7 of R109. -/
inductive LatType where
  | maxu | minu | maxf | or | cnt | maxkv | fill1 | span
  deriving DecidableEq, Repr

/-- What a home asks of an agent that holds a line (R375 to R377). -/
inductive ProbeKind where
  /-- Keep a clean copy. -/
  | share
  /-- Supply the data and keep the line (R376, column read in M and O). -/
  | supply
  /-- Invalidate, supplying modified data. -/
  | invalidate
  /-- Drain a delta and become F (R225). -/
  | freeze
  deriving DecidableEq, Repr

/-- Where a join comes from (R326). -/
inductive JoinSource where
  | context (c : CtxId)
  | package (id : Nat)
  /-- A write of the host to a lattice page (R223). -/
  | host
  /-- A count of the stakeboat (R47, R311), or the drain of a delta. -/
  | slice
  deriving DecidableEq, Repr

/-- A join on its way to, or at, a line's home (R212 to R214). `countOnly` is a count notice without data. -/
structure JoinMsg where
  ltype : LatType
  width : Nat
  data : BitVec 1024
  elem : Nat
  countOnly : Bool
  src : JoinSource
  launch : Nat
  serial : Nat
  pc : Word
  va : Word
  deriving DecidableEq, Repr

/-- Whether the host made a join (R223). -/
def JoinMsg.fromHost (j : JoinMsg) : Bool := j.src == .host

/-- Who waits on a watch (R222, R378): a context in `TREAD` or a `TWAIT` of a handler, a parked record, or a held launch's
dependency (R308). -/
inductive Waiter where
  | context (c : CtxId)
  | parked (record : Word) (crew : Nat)
  | launch (slot dep : Nat)
  deriving DecidableEq, Repr

/-- A watch entry (R378). `trigs` holds the element values of up to four triggers; `spill` is its place in the slice's overflow region. -/
structure Watch where
  line : Nat
  elem : Nat
  ltype : LatType
  width : Nat
  trigs : List Word
  waiter : Waiter
  hostWait : Bool
  spill : Option Nat := none
  deriving DecidableEq, Repr

/-- A system atomic on its way to its word's home (R207, R208): the word's physical address, the operation, whether it is a double word,
and its operands. -/
structure AtomicMsg where
  pa : Nat
  op : BitVec 3
  dbl : Bool
  cmp : Word
  new : Word
  deriving DecidableEq, Repr

/-- A request for a line at its home (R373, R376, R377): a read, ownership, an uncached write of bits, a write-back, a system atomic on a
word, a lower-bound fill, a delta grant or drain, a watch, a freeze, a freeze notice, a join, or the instruction of a context. -/
inductive HomeRequest where
  | read (agent : Nat)
  | own (agent : Nat)
  | uncached (data mask : BitVec 1024)
  | writeBack (agent : Nat)
  | atomic (pa : Nat) (op : BitVec 3) (dbl : Bool) (cmp new : Word)
  | fill (agent : Nat)
  | grant (agent : Nat)
  | drain (agent : Nat)
  | watch (w : Watch)
  | freeze
  | notice (agent : Nat)
  | join (j : JoinMsg)
  | access (c : CtxId)
  deriving DecidableEq, Repr

/-- A control write: its value, and the bits of it that are written (R204, R422). -/
structure CtlWrite where
  value : Nat
  mask : Nat
  deriving DecidableEq, Repr

/-- A child partial of a reduction round (R274, R438): a crew's contribution, or another package's total; or the outcome of a round on its way
down the tree. A round that a node found bad is bad above and below it (R439). -/
structure Partial where
  fromPackage : Option Nat
  crew : Nat
  round : Nat
  op : Nat
  bc : Bool
  len : Nat
  data : Nat
  bad : Bool := false
  down : Bool := false
  deriving DecidableEq, Repr

/-- A network message for a crew (R400). Of a reduction it is the outcome of a round, with the result's length, 0 for none. -/
inductive Msg where
  | wake (record : Word) (code : Nat)
  | decrement (record epc : Word) (src : Nat)
  | enqueue (record : Word) (prio src : Nat)
  | reply (agent line tag : Nat)
  | partialSum (launch slot : Nat) (bad : Bool) (len data : Nat)
  | stealAsk (thief : Nat)
  deriving DecidableEq, Repr

/-- The SRAM arrays of R403, one per row of its table. -/
inductive SramArray where
  | registers | cleanLine | dirtyLine | scratchpad | crewState | sliceState | walkCache
  deriving DecidableEq, Repr

/-- The units that power up one after another (R429). -/
inductive RailUnit where
  | auxiliary
  | hbm (stack : Nat)
  | base (die : Nat)
  | mesh (die : Nat)
  | logic (die row : Nat)
  | hostPhy
  | selfTest
  | memoryInit
  deriving DecidableEq, Repr

/-- What a Nolras flit carries (R432): nothing, a part of the message that a later flit ends, a write, a join, a system atomic or a read
request with its sender's own number of it, a read reply, a reduction partial, a class 5 skip that names lost flow sequence numbers
(R437), or a class 5 confirmation of a flow of its class up to a number (R434). -/
inductive FlitMsg where
  | none
  | part
  | write (id pa n data mask : Nat)
  | join (id line : Nat) (join : JoinMsg)
  | atomic (id : Nat) (a : AtomicMsg)
  | read (id agent line : Nat)
  | reply (agent line tag : Nat)
  | partialSum (launch slot : Nat) (part : Partial)
  | skip (flow : Nat) (lost : List Nat)
  | confirm (cls last : Nat)
  deriving DecidableEq, Repr

/-- The flits of a message, at 236 bytes each (R432). [DESIGN CHOICE, log 97] -/
def FlitMsg.flits : FlitMsg → Nat
  | .partialSum _ _ p => (p.len + 16 + 235) / 236
  | _ => 1

/-- The number of a request of this package that a message carries. -/
def FlitMsg.request : FlitMsg → Option Nat
  | .write n _ _ _ _ | .join n _ _ | .atomic n _ | .read n _ _ => some n
  | _ => Option.none

/-- The join of a line that a request is. -/
def HomeRequest.joinOf? : HomeRequest → Option JoinMsg | .join j => some j | _ => none
/-- Whether a request is the instruction of a context. -/
def HomeRequest.isOf (c : CtxId) : HomeRequest → Bool | .access x => x == c | _ => false
/-- A Nolras flit (R432). `crcOk` says whether the CRC-64 holds. -/
structure Flit where
  lseq : Nat
  kind : Nat
  lack : Nat
  dst : Nat
  src : Nat
  cls : Nat
  hops : Nat
  fseq : Nat
  crcOk : Bool
  payload : FlitMsg
  deriving DecidableEq, Repr

end Sys2Proof
end

