-- ==== Sys2Proof/Syntax.lean ====
section
/-!
DEFINITION. The syntax: ONE inductive with one constructor per row of the opcode table (R98 to R114, and the events of the
part). The operands of an encoded instruction are the bit fields of its word, field by field, in the table's order; the
operands of an event say where it happens.
-/
namespace Sys2Proof

/-- The steps of the part: the instructions a context issues, and the events of its engines, homes, scheduler, host port,
boot port and links. Each encoded instruction carries the fields of its word; events follow them. [DESIGN CHOICE, log 101] -/
inductive Instr where
  /-- `ADD` (R136): Writes the 64-bit sum of x(a) and x(b) to x(d). -/
  | add (d a b : BitVec 6)
  /-- `SUB` (R136): Writes x(a) minus x(b) to x(d). -/
  | sub (d a b : BitVec 6)
  /-- `MUL` (R136): Writes the low 64 bits of the signed product to x(d). -/
  | mul (d a b : BitVec 6)
  /-- `MULH` (R136): Writes the high 64 bits of the signed product to x(d). -/
  | mulh (d a b : BitVec 6)
  /-- `MULHU` (R136): Writes the high 64 bits of the unsigned product to x(d). -/
  | mulhu (d a b : BitVec 6)
  /-- `DIV` (R137): Writes the signed quotient toward zero, with the fixed corner results. -/
  | div (d a b : BitVec 6)
  /-- `DIVU` (R137): Writes the unsigned quotient, all ones on division by zero. -/
  | divu (d a b : BitVec 6)
  /-- `REM` (R137): Writes the signed remainder, which takes the sign of the dividend. -/
  | rem (d a b : BitVec 6)
  /-- `REMU` (R137): Writes the unsigned remainder, the dividend on division by zero. -/
  | remu (d a b : BitVec 6)
  /-- `AND` (R136): Writes the bitwise AND of x(a) and x(b). -/
  | and (d a b : BitVec 6)
  /-- `OR` (R136): Writes the bitwise OR of x(a) and x(b). -/
  | or (d a b : BitVec 6)
  /-- `XOR` (R136): Writes the bitwise XOR of x(a) and x(b). -/
  | xor (d a b : BitVec 6)
  /-- `ANDN` (R136): Writes x(a) AND NOT x(b). -/
  | andn (d a b : BitVec 6)
  /-- `SLL` (R136): Shifts x(a) left by x(b)[5:0]. -/
  | sll (d a b : BitVec 6)
  /-- `SRL` (R136): Shifts x(a) right logically by x(b)[5:0]. -/
  | srl (d a b : BitVec 6)
  /-- `SRA` (R136): Shifts x(a) right arithmetically by x(b)[5:0]. -/
  | sra (d a b : BitVec 6)
  /-- `ROL` (R136): Rotates x(a) left by x(b)[5:0]. -/
  | rol (d a b : BitVec 6)
  /-- `ROR` (R136): Rotates x(a) right by x(b)[5:0]. -/
  | ror (d a b : BitVec 6)
  /-- `MIN` (R136): Writes the signed minimum of x(a) and x(b). -/
  | min (d a b : BitVec 6)
  /-- `MAX` (R136): Writes the signed maximum of x(a) and x(b). -/
  | max (d a b : BitVec 6)
  /-- `MINU` (R136): Writes the unsigned minimum of x(a) and x(b). -/
  | minu (d a b : BitVec 6)
  /-- `MAXU` (R136): Writes the unsigned maximum of x(a) and x(b). -/
  | maxu (d a b : BitVec 6)
  /-- `SLT` (R136): Writes 1 when x(a) is signed less than x(b), else 0. -/
  | slt (d a b : BitVec 6)
  /-- `SLTU` (R136): Writes 1 when x(a) is unsigned less than x(b), else 0. -/
  | sltu (d a b : BitVec 6)
  /-- `CLZ` (R136): Writes the count of leading zero bits of x(a). -/
  | clz (d a : BitVec 6)
  /-- `CTZ` (R136): Writes the count of trailing zero bits of x(a). -/
  | ctz (d a : BitVec 6)
  /-- `POPC` (R136): Writes the number of one bits of x(a). -/
  | popc (d a : BitVec 6)
  /-- `LEA` (R136): Writes x(a) plus x(b) shifted left by s. -/
  | lea (d a b : BitVec 6) (s : BitVec 2)
  /-- `SEXT` (R136): Sign-extends the low byte, half or word of x(a). -/
  | sext (d a : BitVec 6) (w : BitVec 2)
  /-- `ZEXT` (R136): Zero-extends the low byte, half or word of x(a). -/
  | zext (d a : BitVec 6) (w : BitVec 2)
  /-- `SEL` (R136): Writes x(a) when predicate pk is true, else x(b). -/
  | sel (d a b : BitVec 6) (k : BitVec 3)
  /-- `BFX` (R136): Extracts a signed bit field of x(a) at pos of length len. -/
  | bfx (d a p l : BitVec 6)
  /-- `BFXU` (R136): Extracts an unsigned bit field of x(a). -/
  | bfxu (d a p l : BitVec 6)
  /-- `BFI` (R136): Inserts the low len bits of x(a) into x(d) at pos. -/
  | bfi (d a p l : BitVec 6)
  /-- `ADDI` (R138): Writes x(a) plus the sign-extended immediate. -/
  | addi (d a : BitVec 6) (i : BitVec 14)
  /-- `ANDI` (R138): Writes x(a) AND the sign-extended immediate. -/
  | andi (d a : BitVec 6) (i : BitVec 14)
  /-- `ORI` (R138): Writes x(a) OR the sign-extended immediate. -/
  | ori (d a : BitVec 6) (i : BitVec 14)
  /-- `XORI` (R138): Writes x(a) XOR the sign-extended immediate. -/
  | xori (d a : BitVec 6) (i : BitVec 14)
  /-- `SLLI` (R138): Shifts x(a) left by an immediate amount. -/
  | slli (d a s : BitVec 6)
  /-- `SRLI` (R138): Shifts x(a) right logically by an immediate amount. -/
  | srli (d a s : BitVec 6)
  /-- `SRAI` (R138): Shifts x(a) right arithmetically by an immediate amount. -/
  | srai (d a s : BitVec 6)
  /-- `ROLI` (R138): Rotates x(a) left by an immediate amount. -/
  | roli (d a s : BitVec 6)
  /-- `SLTI` (R138): Writes 1 when x(a) is signed less than the 13-bit immediate. -/
  | slti (d a : BitVec 6) (i : BitVec 13)
  /-- `SLTIU` (R138): Writes 1 when x(a) is unsigned less than the sign-extended immediate. -/
  | sltiu (d a : BitVec 6) (i : BitVec 13)
  /-- `MOVI` (R139): Writes the sign-extended 20-bit immediate to x(d). -/
  | movi (d : BitVec 6) (i : BitVec 20)
  /-- `ADDHI` (R139): Adds the immediate shifted left by 20 to x(d). -/
  | addhi (d : BitVec 6) (i : BitVec 20)
  /-- `ADDTOP` (R139): Adds the immediate shifted left by 40 to x(d). -/
  | addtop (d : BitVec 6) (i : BitVec 20)
  /-- `PCADD` (R139): Writes PC plus the immediate shifted left by 12. -/
  | pcadd (d : BitVec 6) (i : BitVec 20)
  /-- `CMP` (R140): Sets predicate pd to the condition cc on x(a) and x(b). -/
  | cmp (p : BitVec 3) (a b : BitVec 6) (c : BitVec 3)
  /-- `CMPI` (R140): Sets predicate pd to the condition cc on x(a) and an immediate. -/
  | cmpi (c p : BitVec 3) (a : BitVec 6) (i : BitVec 14)
  /-- `PAND` (R141): Sets pd to pa AND pb. -/
  | pand (d a b : BitVec 3)
  /-- `POR` (R141): Sets pd to pa OR pb. -/
  | por (d a b : BitVec 3)
  /-- `PXOR` (R141): Sets pd to pa XOR pb. -/
  | pxor (d a b : BitVec 3)
  /-- `PANDN` (R141): Sets pd to pa AND NOT pb. -/
  | pandn (d a b : BitVec 3)
  /-- `PNOT` (R141): Sets pd to NOT pa. -/
  | pnot (d a : BitVec 3)
  /-- `PMOV` (R141): Copies pa to pd. -/
  | pmov (d a : BitVec 3)
  /-- `BRC` (R142): Branches PC-relative when predicate pk differs from n. -/
  | brc (p : BitVec 3) (n : BitVec 1) (o : BitVec 22)
  /-- `BZ` (R142): Branches PC-relative when x(a) is zero. -/
  | bz (a : BitVec 6) (o : BitVec 19)
  /-- `BNZ` (R142): Branches PC-relative when x(a) is not zero. -/
  | bnz (a : BitVec 6) (o : BitVec 19)
  /-- `J` (R142): Jumps PC-relative. -/
  | j (o : BitVec 26)
  /-- `JAL` (R142): Jumps PC-relative and writes the link address to ln. -/
  | jal (o : BitVec 26)
  /-- `JALR` (R142): Jumps to x(a) plus an offset and writes the link address to x(d). -/
  | jalr (d a : BitVec 6) (i : BitVec 14)
  /-- `LOOP` (R147): Sets up hardware loop n with the count in x(a). -/
  | loop (n : BitVec 1) (a : BitVec 6) (l : BitVec 14)
  /-- `LOOPI` (R147): Sets up hardware loop n with an immediate count. -/
  | loopi (n : BitVec 1) (c : BitVec 8) (l : BitVec 6)
  /-- `LBRK` (R148): Ends active loop n and continues at its end address. -/
  | lbrk (n : BitVec 1)
  /-- `CSRR` (R153): Reads a CSR into x(d). -/
  | csrr (d : BitVec 6) (c : BitVec 12)
  /-- `CSRW` (R153): Writes x(a) to a CSR. -/
  | csrw (a : BitVec 6) (c : BitVec 12)
  /-- `CSRS` (R153): Sets the bits of x(a) in a CSR as one read-modify-write. -/
  | csrs (a : BitVec 6) (c : BitVec 12)
  /-- `CSRC` (R153): Clears the bits of x(a) in a CSR as one read-modify-write. -/
  | csrc (a : BitVec 6) (c : BitVec 12)
  /-- `SPAWN` (R278): Creates a task record from a spawn descriptor with the given join count. -/
  | spawn (d a b : BitVec 6)
  /-- `SPAWNR` (R279): Creates a range record standing for every coordinate from COORD to CEND. -/
  | spawnr (d a b : BitVec 6)
  /-- `YIELD` (R282): Parks the task with LIVE from x(a) until its JOIN is 0. -/
  | yield (a : BitVec 6)
  /-- `SIGNAL` (R283): Decrements the JOIN of the record at x(a) as a PKG release. -/
  | signal (a : BitVec 6)
  /-- `ARM` (R284): Adds x(b) to the JOIN of the record at x(a) at its home. -/
  | arm (a b : BitVec 6)
  /-- `CANCEL_LAUNCH` (R285): Requests cancellation of a launch of the task's job. -/
  | cancelLaunch (a : BitVec 6)
  /-- `CANCEL_GRAPH` (R285): Requests cancellation of a graph of the task's job and phase. -/
  | cancelGraph (a : BitVec 6)
  /-- `CANCEL_PHASE` (R285): Requests cancellation of a phase of the task's job. -/
  | cancelPhase (a : BitVec 6)
  /-- `CANCEL_JOB` (R285): Requests cancellation of the task's own job. -/
  | cancelJob (a : BitVec 6)
  /-- `LD` (R201): Loads 1, 2, 4 or 8 bytes zero-extended into x(d). -/
  | ld (d a : BitVec 6) (i : BitVec 11) (s : BitVec 3)
  /-- `LDS` (R201): Loads 1, 2 or 4 bytes sign-extended into x(d). -/
  | lds (d a : BitVec 6) (i : BitVec 11) (s : BitVec 3)
  /-- `ST` (R201): Stores 1, 2, 4 or 8 bytes of x(d). -/
  | st (d a : BitVec 6) (i : BitVec 11) (s : BitVec 3)
  /-- `STN_BIT` (R204): Writes the bits of x(b) enabled by the bit mask x(d) into one 8-byte word. -/
  | stnBit (d a b : BitVec 6)
  /-- `STN_NIB` (R204): Writes the nibbles of x(b) enabled by x(d)[15:0] into one 8-byte word. -/
  | stnNib (d a b : BitVec 6)
  /-- `LDP` (R205): Loads 16 bytes into the register pair x(d), x(d+1). -/
  | ldp (d a : BitVec 6) (i : BitVec 11)
  /-- `STP` (R205): Stores the register pair x(d), x(d+1) as 16 bytes. -/
  | stp (d a : BitVec 6) (i : BitVec 11)
  /-- `AMOSWAP` (R207): Atomically swaps a system-memory word with x(b), returning the old value. -/
  | amoswap (d a b : BitVec 6) (w : BitVec 1)
  /-- `AMOCAS` (R207): Atomically compares a system-memory word with x(d) and writes x(b) on a match. -/
  | amocas (d a b : BitVec 6) (w : BitVec 1)
  /-- `AMOADD` (R207): Atomically adds x(b) to a system-memory word, returning the old value. -/
  | amoadd (d a b : BitVec 6) (w : BitVec 1)
  /-- `JOIN` (R213): Joins x(b) into a lattice element as a release at its scope. -/
  | join (a b : BitVec 6) (s : BitVec 3) (w : BitVec 2) (t : BitVec 3)
  /-- `TREAD` (R220): Stalls until a lattice element passes one of its triggers, then writes the code. -/
  | tread (d a b : BitVec 6) (c w : BitVec 2) (t : BitVec 3)
  /-- `TWAIT` (R221): Answers at once or parks the task with a watch on the lattice element. -/
  | twait (d a b : BitVec 6) (c w : BitVec 2) (t : BitVec 3)
  /-- `XREAD` (R224): Reads frozen or filled FILL1 data exactly. -/
  | xread (d a : BitVec 6) (i : BitVec 11) (s : BitVec 3)
  /-- `LTYPE` (R216): Declares the type and width of a lattice line at bottom. -/
  | ltype (a : BitVec 6) (w : BitVec 2) (t : BitVec 4)
  /-- `FREEZE` (R225): Ends the growth of a range of lattice lines, draining deltas and firing watches. -/
  | freeze (a b : BitVec 6) (s : BitVec 3)
  /-- `LRESET` (R227): Requests reset of an owned arena at the next phase boundary. -/
  | lreset (a : BitVec 6)
  /-- `LQUERY` (R228): Returns the home's metadata view of a line in system mode. -/
  | lquery (d a : BitVec 6)
  /-- `FENCE` (R229): Waits for earlier accesses at its scope and writes the failure status word. -/
  | fence (d : BitVec 6) (s : BitVec 3)
  /-- `PREFX_L2` (R234): Hints that the line be brought to the crew's L2 slice. -/
  | prefxL2 (a : BitVec 6)
  /-- `PREFX_L1` (R234): Hints that the line be brought to the L2 slice and the L1. -/
  | prefxL1 (a : BitVec 6)
  /-- `WAITC` (R233): Stalls until the outstanding-operation counters fall to the given limits. -/
  | waitc (t c s l : BitVec 4)
  /-- `LCLAIM` (R164): Requests n lanes and writes the computed grant to x(d). -/
  | lclaim (d : BitVec 6) (n : BitVec 3)
  /-- `VBCAST` (R177): Broadcasts x(a) into every element of vd. -/
  | vbcast (d : BitVec 5) (a : BitVec 6) (e : BitVec 2)
  /-- `VEXT` (R177): Extracts element i of va into x(d), zero-extended. -/
  | vext (d : BitVec 6) (a : BitVec 5) (i : BitVec 6) (j e : BitVec 2)
  /-- `VINS` (R177): Inserts x(a) into element i of vd. -/
  | vins (d : BitVec 5) (a i : BitVec 6) (j e : BitVec 2)
  /-- `VADD` (R178): Adds active elements, wrapping or rounding by FPCTL. -/
  | vadd (d a b : BitVec 5) (m t : BitVec 3)
  /-- `VSUB` (R178): Subtracts active elements. -/
  | vsub (d a b : BitVec 5) (m t : BitVec 3)
  /-- `VMUL` (R178): Multiplies active elements. -/
  | vmul (d a b : BitVec 5) (m t : BitVec 3)
  /-- `VMULH` (R178): Writes the high half of integer element products. -/
  | vmulh (d a b : BitVec 5) (m t : BitVec 3)
  /-- `VMIN` (R179): Writes the element minimum, canonical NaN for a NaN operand. -/
  | vmin (d a b : BitVec 5) (m t : BitVec 3)
  /-- `VMAX` (R179): Writes the element maximum, canonical NaN for a NaN operand. -/
  | vmax (d a b : BitVec 5) (m t : BitVec 3)
  /-- `VABS` (R178): Writes element absolute values. -/
  | vabs (d a : BitVec 5) (m t : BitVec 3)
  /-- `VNEG` (R178): Writes element negations. -/
  | vneg (d a : BitVec 5) (m t : BitVec 3)
  /-- `VSAT` (R180): Clamps 32-bit elements to the range of a narrower type. -/
  | vsat (d a : BitVec 5) (m t : BitVec 3)
  /-- `VAND` (R178): Bitwise AND of active 32-bit elements. -/
  | vand (d a b : BitVec 5) (m t : BitVec 3)
  /-- `VOR` (R178): Bitwise OR of active 32-bit elements. -/
  | vor (d a b : BitVec 5) (m t : BitVec 3)
  /-- `VXOR` (R178): Bitwise XOR of active 32-bit elements. -/
  | vxor (d a b : BitVec 5) (m t : BitVec 3)
  /-- `VSHL` (R178): Shifts elements left by b mod w. -/
  | vshl (d a b : BitVec 5) (m t : BitVec 3)
  /-- `VSHR` (R178): Shifts elements right logically. -/
  | vshr (d a b : BitVec 5) (m t : BitVec 3)
  /-- `VSRA` (R178): Shifts elements right arithmetically. -/
  | vsra (d a b : BitVec 5) (m t : BitVec 3)
  /-- `VFMA` (R181): Computes a × b + c with one rounding. -/
  | vfma (d a b c : BitVec 5) (m : BitVec 3)
  /-- `VFMS` (R181): Computes a × b − c with one rounding. -/
  | vfms (d a b c : BitVec 5) (m : BitVec 3)
  /-- `VFNMA` (R181): Computes −(a × b) + c with one rounding. -/
  | vfnma (d a b c : BitVec 5) (m : BitVec 3)
  /-- `VCMP` (R183): Writes a mask of the elements that satisfy the condition. -/
  | vcmp (d a b : BitVec 5) (m c : BitVec 3) (t : BitVec 2)
  /-- `VSEL` (R184): Selects each element from va or vb by the mask. -/
  | vsel (d a b : BitVec 5) (m : BitVec 3)
  /-- `VMOV` (R184): Copies active elements unchanged. -/
  | vmov (d a : BitVec 5) (m : BitVec 3)
  /-- `VIOTA` (R184): Writes each active element's index. -/
  | viota (d : BitVec 5) (m : BitVec 3)
  /-- `VPERM` (R184): Permutes elements of va by the indices in vb. -/
  | vperm (d a b : BitVec 5) (m : BitVec 3)
  /-- `VSLIDE_UP` (R184): Slides elements up by k, filling with zero. -/
  | vslideUp (d a : BitVec 5) (k : BitVec 6) (m : BitVec 3)
  /-- `VSLIDE_DN` (R184): Slides elements down by k, filling with zero. -/
  | vslideDn (d a : BitVec 5) (k : BitVec 6) (m : BitVec 3)
  /-- `VREDSUM` (R186): Sums the elements by the fixed tree into element 0. -/
  | vredsum (d a : BitVec 5) (m : BitVec 3) (t : BitVec 2)
  /-- `VREDMIN` (R186): Reduces the elements by minimum into element 0. -/
  | vredmin (d a : BitVec 5) (m : BitVec 3) (t : BitVec 2)
  /-- `VREDMAX` (R186): Reduces the elements by maximum into element 0. -/
  | vredmax (d a : BitVec 5) (m : BitVec 3) (t : BitVec 2)
  /-- `VSCAN_ADD` (R186): Inclusive additive scan over 64 elements. -/
  | vscanAdd (d a : BitVec 5) (m : BitVec 3) (t : BitVec 2)
  /-- `VSCAN_MIN` (R186): Inclusive minimum scan over 64 elements. -/
  | vscanMin (d a : BitVec 5) (m : BitVec 3) (t : BitVec 2)
  /-- `VSCAN_MAX` (R186): Inclusive maximum scan over 64 elements. -/
  | vscanMax (d a : BitVec 5) (m : BitVec 3) (t : BitVec 2)
  /-- `VEXP2` (R187): Computes 2^x per element, correctly rounded. -/
  | vexp2 (d a : BitVec 5) (m : BitVec 3)
  /-- `VLOG2` (R187): Computes log2 x per element. -/
  | vlog2 (d a : BitVec 5) (m : BitVec 3)
  /-- `VRCP` (R187): Computes 1/x per element. -/
  | vrcp (d a : BitVec 5) (m : BitVec 3)
  /-- `VRSQ` (R187): Computes 1/sqrt x per element. -/
  | vrsq (d a : BitVec 5) (m : BitVec 3)
  /-- `VSQRT` (R187): Computes sqrt x per element. -/
  | vsqrt (d a : BitVec 5) (m : BitVec 3)
  /-- `VTANH` (R187): Computes tanh x per element. -/
  | vtanh (d a : BitVec 5) (m : BitVec 3)
  /-- `VSIGM` (R187): Computes the logistic sigmoid per element. -/
  | vsigm (d a : BitVec 5) (m : BitVec 3)
  /-- `VCVT` (R188): Converts 64 elements between formats. -/
  | vcvt (d a : BitVec 5) (m : BitVec 3) (f s : BitVec 4)
  /-- `VPACK` (R189): Packs one group of codes into a packed register. -/
  | vpack (d a b : BitVec 5) (m : BitVec 3) (f : BitVec 4)
  /-- `VUNPACK` (R189): Unpacks one group of codes into 32-bit containers. -/
  | vunpack (d a b : BitVec 5) (m : BitVec 3) (f : BitVec 4)
  /-- `VQNT` (R191): Quantises 64 FP32 elements with BX32 or NQ4 scales. -/
  | vqnt (d a b : BitVec 5) (m : BitVec 3) (c : BitVec 2) (f : BitVec 4)
  /-- `VDQNT` (R190): Decodes 64 scaled codes to FP32. -/
  | vdqnt (d a b : BitVec 5) (m : BitVec 3) (c : BitVec 2) (f : BitVec 4)
  /-- `VLD` (R192): Loads 64 contiguous 4-byte elements. -/
  | vld (d a : BitVec 5) (m : BitVec 3)
  /-- `VST` (R192): Stores 64 contiguous 4-byte elements. -/
  | vst (d a : BitVec 5) (m : BitVec 3)
  /-- `VLDX` (R192): Loads elements at offsets given by vb. -/
  | vldx (d a b : BitVec 5) (m : BitVec 3)
  /-- `VSTX` (R192): Stores elements at offsets given by vb. -/
  | vstx (d a b : BitVec 5) (m : BitVec 3)
  /-- `JOINV` (R194): Joins 256 bytes of vd into two lattice lines. -/
  | joinv (d a : BitVec 5) (s m : BitVec 3) (w : BitVec 2) (t : BitVec 3)
  /-- `XREADV` (R195): Reads two frozen or filled lines exactly into vd. -/
  | xreadv (d a : BitVec 5) (m : BitVec 3)
  /-- `TSHAPE` (R242): Writes x(a) to shape register TSHk. -/
  | tshape (a : BitVec 6) (k : BitVec 3)
  /-- `TMAP_ID` (R247): Copies a handle with the identity map, or imports a handle value from x(b). -/
  | tmapId (e a : BitVec 4) (b : BitVec 6)
  /-- `TMAP_TRANS` (R247): Gives te a transposed view of ta. -/
  | tmapTrans (e a : BitVec 4) (b : BitVec 6)
  /-- `TMAP_SLICE` (R247): Gives te an offset view of ta. -/
  | tmapSlice (e a : BitVec 4) (b : BitVec 6)
  /-- `TMAP_STRIDE` (R247): Gives te a strided view of ta. -/
  | tmapStride (e a : BitVec 4) (b : BitVec 6)
  /-- `TMAP_BCAST` (R247): Gives te a broadcast view of one row or column of ta. -/
  | tmapBcast (e a : BitVec 4) (b : BitVec 6)
  /-- `TMAP_GATHER` (R247): Gives te a view of ta gathered through an index tile. -/
  | tmapGather (e a : BitVec 4) (b : BitVec 6)
  /-- `TALLOC` (R239): Allocates a tile slot in a bank and writes its handle. -/
  | talloc (e k : BitVec 4)
  /-- `TREL` (R240): Forces local readers, discards the producer and releases the slot to DRAINING. -/
  | trel (e : BitVec 4)
  /-- `TSTAT` (R241): Writes the state word of te's slot to x(a). -/
  | tstat (e : BitVec 4) (a : BitVec 6)
  /-- `BANKFMT` (R265): Writes a bank's format register. -/
  | bankfmt (b : BitVec 6) (k : BitVec 4)
  /-- `SHPLD` (R245): Loads shape record k and sets TSH0, TSH1, TSH2 and TSH4 for the task's slice. -/
  | shpld (k : BitVec 3)
  /-- `TLOAD` (R253): Records a node that fills te from a memory window. -/
  | tload (e : BitVec 4) (a : BitVec 6)
  /-- `TSTORE` (R254): Demands te's window, forces aliases and starts the background write-out. -/
  | tstore (e : BitVec 4) (a : BitVec 6)
  /-- `TFORCE` (R255): Demands a region of te and waits until it is computed. -/
  | tforce (e : BitVec 4) (a b : BitVec 6)
  /-- `TMM` (R259): Records a matrix-multiply node, with accumulation under .ACC. -/
  | tmm (e a b : BitVec 4) (c : BitVec 1)
  /-- `TMMX` (R260): Records a microprogrammed matrix node. -/
  | tmmx (e a b : BitVec 4) (c : BitVec 1)
  /-- `TMPROG` (R258): Checks and writes the context's microprogram word. -/
  | tmprog (a : BitVec 6)
  /-- `TEW` (R262): Records an element-wise tile operation node. -/
  | tew (e a b : BitVec 4) (o : BitVec 5)
  /-- `TRED` (R263): Records a row or column reduction node. -/
  | tred (e a : BitVec 4) (x : BitVec 1) (o : BitVec 2)
  /-- `TCVT` (R264): Records a conversion node into te's bank. -/
  | tcvt (e a : BitVec 4)
  /-- `TTRANS` (R264): Records a transpose node. -/
  | ttrans (e a : BitVec 4)
  /-- `TGATH` (R264): Records a row-gather node through an index tile. -/
  | tgath (e a b : BitVec 4)
  /-- `TQNT` (R264): Records a node that quantises with fresh scales. -/
  | tqnt (e a : BitVec 4) (s : BitVec 2)
  /-- `CPY` (R268): Places a copy entry, or a restart or abandon control, in copy queue n. -/
  | cpy (n : BitVec 2) (a b : BitVec 6)
  /-- `CPYMM` (R269): Places a copy entry whose landing issues a follow-on matrix multiply. -/
  | cpymm (n : BitVec 2) (a b : BitVec 6)
  /-- `CQFENCE` (R271): Places a fence entry joining the named copy queues. -/
  | cqfence (m : BitVec 4)
  /-- `CSTAT` (R272): Writes the state of copy queue n to x(a). -/
  | cstat (n : BitVec 2) (a : BitVec 6)
  /-- `COLL` (R273): Contributes to a reduction round of a collective slot. -/
  | coll (s : BitVec 4) (a b : BitVec 6) (c : BitVec 1) (o : BitVec 4)
  /-- `COLLW` (R275): Stalls until the context's last round on the slot completes. -/
  | collw (s : BitVec 4)
  /-- `CODE_SHADOW_FULL_RETIRE` (R361): A task whose write found its shadow full is retired as faulted at its next boundary. -/
  | codeShadowFullRetire (record va pc : Word)
  /-- `RECORD_ENQUEUE` (R316): An entry arriving at a crew is placed in the ready queue in its ordered position. -/
  | recordEnqueue (crew : Nat) (record : Word) (prio src : Nat)
  /-- `JOIN_COUNT_DECREMENT` (R40): A decrement of a record's JOIN is applied at its home and enqueues the record on reaching 0. -/
  | joinCountDecrement (record epc : Word) (src : Nat)
  /-- `CANCEL_DELIVERY` (R48): A cancellation reaches a task or record and retires it as cancelled at a permitted point. -/
  | cancelDelivery (record : Word)
  /-- `INTERRUPT_ENTRY` (R388): A pending interrupt is taken at an instruction boundary or by a FREE context. -/
  | interruptEntry (c : CtxId)
  /-- `ASYNC_FAULT_DELIVERY` (R394): A pending vector-poison or halted-queue fault is delivered as a precise trap before the next instruction. -/
  | asyncFaultDelivery (c : CtxId)
  /-- `BLOCK_TIMER_EXPIRY` (R389): The fault-block timer expires and the BLOCKED context returns to ACTIVE. -/
  | blockTimerExpiry (c : CtxId)
  /-- `CONTEXT_TAKES_RECORD` (R41): A FREE context takes the first ready entry, loads its registers and starts or resumes the task. -/
  | contextTakesRecord (crew : Nat)
  /-- `PARK_AFTER_STORE_ENTRY` (R44): A park stalled for a pinned-continuation entry retakes its answer and parks or continues when an entry frees. -/
  | parkAfterStoreEntry (c : CtxId)
  /-- `VECTOR_COMMAND_COMPLETE` (R170): A vector command completes, writing its results and ORing its flags. -/
  | vectorCommandComplete (c : CtxId)
  /-- `ARRIVAL_BATCH` (R379): Homes return arrival counts to a source in batches. -/
  | arrivalBatch (c : CtxId)
  /-- `ARRIVAL_BATCH_TIMER` (R379): A home sends a count batch after 8 c without an arrival. -/
  | arrivalBatchTimer (c : CtxId)
  /-- `TAG_CLOSE` (R380): A home answers a fence close with its final count and failure kinds. -/
  | tagClose (c : CtxId) (tag : Nat)
  /-- `FENCE_COMPLETE` (R380): The close answers equal the count sent and the fence writes its status word. -/
  | fenceComplete (c : CtxId)
  /-- `HASHCTL_WRITE` (R365): A checked HASHCTL write starts a domain change with a slice walk. -/
  | hashctlWrite (die : Nat) (value : Word)
  /-- `DOMAIN_SWITCH` (R365): After every walk, affected crews switch mapping and resend held requests. -/
  | domainSwitch (die : Nat)
  /-- `SPLITCTL_WRITE` (R325): A write to SPLITCTL changes logging and frees splits records before TAIL. -/
  | splitctlWrite (crew : Nat) (value : Word)
  /-- `SPLITS_FULL` (R327): A cox or slice event that does not fit waits and raises a splits-full interrupt. -/
  | splitsFull (crew : Nat)
  /-- `TLOAD_BEAT` (R336): One 128-byte source line of a TLOAD group is read, converted and written. -/
  | tloadBeat (crew node : Nat)
  /-- `SWEEP_PASS` (R340): The sweep array computes one 16 × 16 output sub-tile over K = 64. -/
  | sweepPass (crew node : Nat)
  /-- `LANE_PASS` (R336): The lane pool computes 64 elements of a tile node. -/
  | lanePass (crew node : Nat)
  /-- `CONVERSION_STEP` (R339): A widened group's staging values are converted and written with scales. -/
  | conversionStep (crew node : Nat)
  /-- `COPY_BEAT` (R268): The copy engine moves one 128-byte beat of a queue entry. -/
  | copyBeat (c : CtxId) (q : Nat)
  /-- `CPYMM_FOLLOW_ON` (R344): The sweep array runs a follow-on pass of a landed CPYMM copy. -/
  | cpymmFollowOn (c : CtxId) (q : Nat)
  /-- `WRITE_OUT_LINE` (R254): One line of a TSTORE write-out is written using step-2 translations. -/
  | writeOutLine (crew : Nat)
  /-- `REDUCTION_PARTIAL` (R438): A reduction node receives a child partial and combines it in fixed order. -/
  | reductionPartial (launch slot : Nat) (part : Partial)
  /-- `LAUNCH_RELEASE` (R314): A held launch whose dependencies and phase are met is started and assigned. -/
  | launchRelease (slot : Nat)
  /-- `PHASE_BOUNDARY` (R308): The current phase completes, recorded LRESETs run and the next phase becomes current. -/
  | phaseBoundary (job : Nat)
  /-- `LAUNCH_COMPLETE` (R311): The live count reaches 0; reports drain, counters are joined and STATE set. -/
  | launchComplete (slot : Nat)
  /-- `STEAL_REQUEST` (R322): A victim answers a steal request with a half range, an entry or empty. -/
  | stealRequest (thief victim : Nat)
  /-- `STEAL_REPLY` (R322): A thief enqueues what it received with SRC 33. -/
  | stealReply (thief : Nat) (record : Word) (prio : Nat)
  /-- `STEAL_ROUND_TIMER` (R322): After a failed round the crew waits 64 c before stealing again. -/
  | stealRoundTimer (thief : Nat)
  /-- `MESSAGE_SPILL` (R400): A message for a swapped crew is written to its spill buffer. -/
  | messageSpill (crew : Nat) (msg : Msg)
  /-- `ROLLBACK_RESTART` (R410): After the replay the phase's launches restart and a rollback report is posted. -/
  | rollbackRestart (job : Nat)
  /-- `REGISTER_WRITE` (R422): A control write to a register without its own row, discarded unless from the owner. -/
  | registerWrite (master off n : Nat) (value : CtlWrite)
  /-- `RAIL_SETTLED` (R429): A unit's rail settles and the next unit in sequence starts. -/
  | railSettled (unit : RailUnit)
  /-- `JOIN_AT_HOME` (R377): A join or count notice is merged or counted at the line's home. -/
  | joinAtHome (line : Nat) (join : JoinMsg)
  /-- `DISCOVERY_ANSWER` (R458): A crew's answer reaches the boot port and sets its ANSWER bit. -/
  | discoveryAnswer (crew : Nat)
  /-- `PHYS_ASSIGN` (R459): A PHYS entry write assigns the next logical index to a crew. -/
  | physAssign (index : Nat) (value : BitVec 16)
  /-- `MULTICAST_ACK` (R460): A crew installs the image, loads its boot registers and acknowledges. -/
  | multicastAck (crew : Nat)
  /-- `INTERLEAVE_SET_WRITE` (R368): A write setting EN enables an interleave set or fails with status. -/
  | interleaveSetWrite (set : Nat) (value : Word)
  /-- `PREEMPT_WRITE` (R396): Setting a PREEMPT bit raises pre-emption interrupts on the seat's tasks. -/
  | preemptWrite (crew : Nat) (value : BitVec 8)
  /-- `RELEASE_WRITE` (R389): Writing a RELEASE bit returns a BLOCKED context to ACTIVE or STALLED. -/
  | releaseWrite (crew : Nat) (value : BitVec 32)
  /-- `DEBUG_WRITE` (R395): Writing a DEBUG bit raises a debug interrupt on a context. -/
  | debugWrite (crew : Nat) (value : BitVec 32)
  /-- `DEBUG_FREEZE` (R402): The FROZEN bit freezes or unfreezes the crew's engines. -/
  | debugFreeze (crew : Nat) (on : Bool)
  /-- `DEBUG_RESUME` (R424): Writing a RESUME bit resumes a context stopped by HALT. -/
  | debugResume (crew : Nat) (value : BitVec 32)
  /-- `CRESET` (R424): A crew reset discards every context and the crew's tile and copy state. -/
  | creset (crew : Nat)
  /-- `FROZEN_ABORT_TIMEOUT` (R402): After 10 µs a shoot-down aborts frozen engine work translated in its range. -/
  | frozenAbortTimeout (crew : Nat)
  /-- `CLAIM` (R427): A CLAIM while no owner exists makes the claimant owner. -/
  | claim (master : Nat)
  /-- `HANDOVER` (R427): The owner offers ownership to a target master. -/
  | handover (master target : Nat)
  /-- `ACCEPT` (R427): The target accepts a pending handover and becomes owner. -/
  | accept (master : Nat)
  /-- `LINK_DEAD` (R437): A link is declared dead; its flits are discarded and writes resolved as lost. -/
  | linkDead (link : Nat)
  /-- `RETRAIN` (R436): Writing RETRAIN trains a down or dead link. -/
  | retrain (link : Nat)
  /-- `FLOW_SKIP` (R437): A class 5 skip makes the destination pass over lost FSEQ values. -/
  | flowSkip (flow : Nat) (lost : List Nat)
  /-- `FLIT_RECEIVE` (R433): A Nolras flit is accepted in order, acknowledged and delivered in FSEQ order. -/
  | flitReceive (link : Nat) (flit : Flit)
  /-- `UMPIRE_WINDOW_EXPIRY` (R324): The progress window expires and a quiescent-dead launch is stalled. -/
  | umpireWindowExpiry (slot : Nat)
  /-- `BUSY_RETRY_TIMER` (R374): A request refused by a full busy list is retried after 16 c. -/
  | busyRetryTimer (slice : Nat)
  /-- `LINK_REPLAY_TIMER` (R433): LACK not advancing for 2 µs starts a replay from LACK + 1. -/
  | linkReplayTimer (link : Nat)
  /-- `STORE_TIMEOUT` (R232): A store not counted at its home within the timeout is resolved as timed out. -/
  | storeTimeout (c : CtxId) (tag : Nat)
  /-- `PROBE` (R375): An agent answers a probe, holding it until the named reply has landed. -/
  | probe (agent line tag : Nat) (kind : ProbeKind)
  /-- `HOME_READ` (R376): The home serves a read fill of an ordinary or system line. -/
  | fillReply (agent line tag : Nat)
  /-- `HOME_WRITE_OWN` (R376): The home grants ownership of an ordinary or system line. -/
  | homeWriteOwn (agent line : Nat)
  /-- `HOME_UNCACHED_WRITE` (R376): The home merges an uncached write into memory after invalidating copies. -/
  | homeUncachedWrite (pa n data mask : Nat)
  /-- `HOME_UNCACHED_READ` (R376): The home serves a read that leaves no copy, probing a modified holder. -/
  | homeUncachedRead (line : Nat)
  /-- `HOME_WRITE_BACK` (R376): The home takes a write-back from the holder. -/
  | homeWriteBack (agent line : Nat)
  /-- `SYSTEM_ATOMIC_AT_HOME` (R208): The home performs a system atomic as one indivisible read and write. -/
  | systemAtomicAtHome (pa : Nat) (op : BitVec 3) (dbl : Bool) (cmp new : Word)
  /-- `LOWER_BOUND_FILL` (R377): The home serves a lattice lower-bound or frozen fill. -/
  | lowerBoundFill (agent line : Nat)
  /-- `DELTA_GRANT` (R377): The home grants a delta of a lattice line to an agent. -/
  | deltaGrant (agent line : Nat)
  /-- `DELTA_DRAIN` (R377): A cached delta is merged into the home value. -/
  | deltaDrain (agent line : Nat)
  /-- `WATCH_REGISTRATION` (R222): The home recalls deltas, sets WATCH and evaluates the watch. -/
  | watchRegistration (watch : Watch)
  /-- `FREEZE_LINE` (R225): The home freezes one line, drains its deltas, posts reports and fires watches. -/
  | freezeLine (line : Nat)
  /-- `FREEZE_NOTICE` (R225): A cached copy receiving a freeze notice drains its delta and becomes F. -/
  | freezeNotice (agent line : Nat)
  /-- `FILL_REPLY` (R375): A fill reply lands at the requesting agent and is used. -/
  | homeRead (agent line : Nat)
  /-- `PAGE_WALK` (R382): The slice walker walks the page table for a missed translation. -/
  | pageWalk (slice : Nat) (va : Word)
  /-- `SEQ_CHUNK_WRITE` (R303): A host write landing a new SEQ makes the stakeboat read and check the slot. -/
  | seqChunkWrite (slot : Nat) (chunk : BitVec 512)
  /-- `CONTROL_CANCEL` (R306): Control value 1 cancels the slot's launch. -/
  | controlCancel (slot : Nat)
  /-- `CONTROL_RELEASE` (R306): Control value 2 releases a stalled launch. -/
  | controlRelease (slot : Nat)
  /-- `CONTROL_CANCEL_JOB` (R306): Control value 3 cancels the job of the slot's launch. -/
  | controlCancelJob (slot : Nat)
  /-- `CONTROL_NO_ACTION` (R306): Any other control value is written back to 0 with no action. -/
  | controlNoAction (slot : Nat)
  /-- `UNCORRECTABLE_ERROR` (R403): An uncorrectable SRAM error invalidates, poisons, stops a context or faults the crew. -/
  | uncorrectableError (array : SramArray) (unit item : Nat)
  /-- `SCRUB` (R404): The controller scrubs a line, correcting or poisoning it. -/
  | scrub (line badBytes : Nat)
  /-- `HOST_JOIN` (R223): A host CXL.mem write to a host-bias lattice page is joined at the home. -/
  | hostJoin (off : Nat) (n data enables : Nat)
  /-- `HOST_WRITE` (R299): A host CXL.mem write to a host-bias page is counted and acknowledged. -/
  | hostWrite (off : Nat) (n data enables : Nat)
  /-- `HOST_READ` (R299): A host CXL.mem read returns the home value of a device-bias line. -/
  | hostRead (off n : Nat)
  /-- `HOST_SNOOP` (R414): A host snoop invalidates a device line, writing back dirty halves. -/
  | hostSnoop (half : Nat)
  /-- `HOST_WRITE_ACK` (R229): The host acknowledges a device write to host memory. -/
  | hostWriteAck (c : CtxId)
  /-- `OWNER_LOSS` (R427): A port link going down or a controller reset clears ownership. -/
  | ownerLoss (master : Nat)
  /-- `HOST_LINK_TRAINED` (R413): The host link finishes training and CXL becomes active or not. -/
  | hostLinkTrained (fast : Bool)
  /-- `LANE_LOCK_LOSS` (R432): A lane loss retrains the link to 4 lanes, or to dead beyond four lanes. -/
  | laneLockLoss (link lost : Nat)
  /-- `LINK_TRAINED` (R436): Link training completes and the link comes up with its peer. -/
  | linkTrained (link peer lanes : Nat)
  /-- `THERMAL_THROTTLE` (R440): A junction above 105 °C gates issue on the hot die. -/
  | thermalThrottle (die temp : Nat)
  /-- `NOT_AN_INSTRUCTION` (R115): A fetched word that is not a defined instruction, or that breaks a field rule, takes a precise class 0 trap with TVAL holding the word. -/
  | notAnInstruction (word : BitVec 32)
  /-- `INSTRUCTION_FETCH_FAULT` (R144): An instruction fetch that is non-canonical, unmapped, not executable or reads poison takes a precise trap under access kind fetch. -/
  | instructionFetchFault (reason : Nat)
  /-- `CREW_POWER_GATING` (R402): A crew drains its engines, writes back its L1 and enters power gating, setting GATED, and later leaves it. -/
  | crewPowerGating (crew : Nat) (on : Bool)
  /-- `ECALL` (R158): Traps with cause ecall. -/
  | ecall
  /-- `EBREAK` (R158): Traps with cause ebreak. -/
  | ebreak
  /-- `TRET` (R159): Returns from the handler, to task mode, to the outer handler, or into BLOCKED. -/
  | tret
  /-- `HALT` (R161): Drains the context and stops it in HANDLER state until a debug resume. -/
  | halt
  /-- `DONE` (R45): Drains, releases tiles and nodes, retires the task and decrements PARENT and SUCC. -/
  | done
  /-- `LFREE` (R164): Gives up the context's lane claim. -/
  | lfree
  /-- `VSYNC` (R171): Stalls until every earlier vector instruction of the context has completed. -/
  | vsync
  /-- `SWAP_OUT` (R399): Recovery command 1 stops and images a job's partition. -/
  | swapOut
  /-- `SWAP_OUT_COMPLETE` (R399): Drains end, bank 15 is copied to the shadow ways and OUTSIDE is set. -/
  | swapOutComplete
  /-- `SWAP_IN` (R401): Recovery command 2 restores and restarts a swapped-out partition. -/
  | swapIn
  /-- `SHOOTDOWN_GO` (R385): GO starts a shoot-down of a translation range. -/
  | shootdownGo
  /-- `SHOOTDOWN_COMPLETE` (R385): Every die has dropped entries and copies and the shoot-down clears BUSY. -/
  | shootdownComplete
  /-- `BIAS_FLIP_GO` (R418): GO checks a page and begins flipping its bias. -/
  | biasFlipGo
  /-- `BIAS_FLIP_POINT` (R418): After in-flight accesses drain, the bias changes and a shoot-down runs. -/
  | biasFlipPoint
  /-- `HANDOVER_TIMEOUT` (R427): A handover not accepted within 100 ms lapses. -/
  | handoverTimeout
  /-- `STORE_COMMIT` (R428): Writing byte 0x3F_FFFF commits the configuration store. -/
  | storeCommit
  /-- `POWER_ON_RESET` (R429): The module controller releases reset and begins power sequencing. -/
  | powerOnReset
  /-- `BOOT_START` (R454): The boot crew starts seat 0 context 0 in system mode at the boot ROM. -/
  | bootStart
  /-- `FLOOD` (R458): Writing FLOOD starts mesh discovery. -/
  | flood
  /-- `DISCOVERY_WINDOW_CLOSE` (R458): 35,000 c after the last answer the window closes and results are written. -/
  | discoveryWindowClose
  /-- `MGO` (R460): Writing MGO applies HASH values and multicasts the handler image. -/
  | mgo
  /-- `MULTICAST_TIMEOUT` (R460): 20 µs after the last line without all acknowledgements, MERR is set. -/
  | multicastTimeout
  /-- `FINISH` (R461): Writing FINISH sets BOOTED or BOOTFAIL. -/
  | finish
  /-- `THERMAL_SHUTDOWN` (R440): Above 115 °C the module controller resets the package. -/
  | thermalShutdown
  deriving DecidableEq, Repr

end Sys2Proof
end

