-- ==== Sys2Proof/WellFormed.lean ====
section
/-!
DEFINITION. Which terms of `Instr` are instructions of the manual: the values of R103–R114 that are
reserved for a function, an operand or a scope are shut out here, check by check, in the order in which R116
reports them. A row without an encoding of its own (an event of the machine) has no field to check.
-/
namespace Sys2Proof

/-- A function field holds an assigned value (R103–R114; TCAUSE 0x002 when it does not). -/
def Instr.functionOk : Instr → Bool
  | .sext _ _ w | .zext _ _ w => decide (w.toNat < 3)
  | .cmp _ _ _ c | .cmpi c _ _ _ => decide (c.toNat < 6)
  | .ld _ _ _ s | .st _ _ _ s | .xread _ _ _ s => decide (s.toNat < 4)
  | .lds _ _ _ s => decide (s.toNat < 3)
  | .vcmp _ _ _ _ c _ => decide (c.toNat < 6)
  | .tew _ _ _ o => decide (o.toNat < 14)
  | .tred _ _ _ o => decide (o.toNat ≠ 3)
  | .coll _ _ _ _ o => decide (o.toNat < 7)
  | _ => true

/-- A field the other fields turn into a reserved one is zero: the second source of a unary `TEW` (R114; 0x003). -/
def Instr.reservedOk : Instr → Bool
  | .tew _ _ b o => decide (o.toNat < 5) || decide (b = 0)
  | _ => true

/-- The lattice type code is assigned and its width is one R55 allows it. -/
def latTypeOk (t w : Nat) : Bool :=
  match t with
  | 0 | 1 | 3 | 4 => true
  | 2 => w == 2
  | 5 | 7 => w == 3
  | 6 => w == 0
  | _ => false

/-- The formats that R62 lets carry a BX32 block scale. -/
def bx32Format (f : Nat) : Bool := [4, 5, 6, 7, 8, 10, 12].contains f

/-- The scaling field and the format of `VQNT` and `VDQNT` go together (R113): 1 is BX32, 2 is NQ4. -/
def quantOk (c f : Nat) : Bool := (c == 1 && bx32Format f) || (c == 2 && f == 9)

/-- A bit field of `l + 1` bits at `p` lies in the register (R103). -/
def bitFieldOk (p l : BitVec 6) : Bool := decide (p.toNat + l.toNat + 1 ≤ 64)

/-- A packed element index lies in a vector register (R110): 64, 128 or 256 elements. -/
def elementOk (e : BitVec 2) (j : BitVec 2) (i : BitVec 6) : Bool :=
  decide (e.toNat ≠ 3) && decide (j.toNat * 64 + i.toNat < 64 <<< e.toNat)

/-- An operand field holds a value that is not reserved (R103–R114; TCAUSE 0x004 when it does not). -/
def Instr.operandOk : Instr → Bool
  | .bfx _ _ p l | .bfxu _ _ p l | .bfi _ _ p l => bitFieldOk p l
  | .loop _ _ l => decide (l ≠ 0)
  | .loopi _ _ l => decide (l ≠ 0)
  | .ldp d _ _ | .stp d _ _ => decide (d.toNat % 2 = 0)
  | .ltype _ w t => latTypeOk t.toNat w.toNat
  | .tread _ _ b c _ _ | .twait _ _ b c _ _ => decide (b.toNat + c.toNat ≤ 63)
  | .vbcast _ _ e => decide (e.toNat ≠ 3)
  | .vext _ _ i h e | .vins _ _ i h e => elementOk e h i
  | .vadd _ _ _ _ t | .vsub _ _ _ _ t | .vmul _ _ _ _ t | .vabs _ _ _ t | .vneg _ _ _ t =>
    [0, 1, 2, 6].contains t.toNat
  | .vmulh _ _ _ _ t => decide (t.toNat < 6)
  | .vmin _ _ _ _ t | .vmax _ _ _ _ t => decide (t.toNat < 7)
  | .vsat _ _ _ t => [1, 2, 4, 5].contains t.toNat
  | .vand _ _ _ _ t | .vor _ _ _ _ t | .vxor _ _ _ _ t => decide (t = 0)
  | .vshl _ _ _ _ t | .vshr _ _ _ _ t | .vsra _ _ _ _ t => decide (t.toNat < 3)
  | .vcmp _ _ _ _ c t => !(decide (4 ≤ c.toNat) && decide (t.toNat = 3))
  | .vsel _ _ _ m => decide (m ≠ 0)
  | .vredsum _ _ _ t => decide (t.toNat ≠ 3) && decide (t.toNat ≠ 1)
  | .vredmin _ _ _ t | .vredmax _ _ _ t => decide (t.toNat ≠ 3)
  | .vscanAdd _ _ _ t => decide (t.toNat ≠ 3) && decide (t.toNat ≠ 1)
  | .vscanMin _ _ _ t | .vscanMax _ _ _ t => decide (t.toNat ≠ 3)
  | .vcvt _ _ _ f s => decide (f ≠ s) && decide (f.toNat ≠ 9) && decide (s.toNat ≠ 9)
  | .vpack _ _ _ _ f | .vunpack _ _ _ _ f => decide (2 ≤ f.toNat)
  | .vqnt _ _ _ _ c f | .vdqnt _ _ _ _ c f => quantOk c.toNat f.toNat
  | .talloc _ k => decide (k.toNat ≠ 15)
  | .tqnt _ _ s => decide (s.toNat = 1) || decide (s.toNat = 2)
  | .cqfence m => decide (m ≠ 0)
  | _ => true

/-- A scope field names a scope of R56 (TCAUSE 0x005 when it does not). -/
def Instr.scopeOk : Instr → Bool
  | .join _ _ s _ _ | .freeze _ _ s | .fence _ s | .joinv _ _ s _ _ _ => decide (s.toNat < 6)
  | _ => true

/-- The instruction is one the manual defines: it passes every check of R115. -/
def Instr.wellFormed (i : Instr) : Bool := i.functionOk && i.reservedOk && i.operandOk && i.scopeOk

end Sys2Proof
end

