-- ==== Sys2Proof/Decode.lean ====
section
/-!
DEFINITION. The decoder, total on any word: a word gives its instruction, or the subcode of the class 0
trap of R115 that refuses it, the first that applies in the order of R116. After it the encoder, from the same
tables R103–R114.
-/
namespace Sys2Proof

/-- The `n` bits of the word that start at bit `lo`. -/
def fld (w : IWord) (lo n : Nat) : BitVec n := w.extractLsb' lo n

/-- The instruction major 0x01 selects (R102–R114), its other bits not yet checked. -/
def select01 (w : IWord) : Option Instr :=
  match (fld w 0 8).toNat with
  | 0x00 => some (.add (fld w 20 6) (fld w 14 6) (fld w 8 6))
  | 0x01 => some (.sub (fld w 20 6) (fld w 14 6) (fld w 8 6))
  | 0x02 => some (.mul (fld w 20 6) (fld w 14 6) (fld w 8 6))
  | 0x03 => some (.mulh (fld w 20 6) (fld w 14 6) (fld w 8 6))
  | 0x04 => some (.mulhu (fld w 20 6) (fld w 14 6) (fld w 8 6))
  | 0x05 => some (.div (fld w 20 6) (fld w 14 6) (fld w 8 6))
  | 0x06 => some (.divu (fld w 20 6) (fld w 14 6) (fld w 8 6))
  | 0x07 => some (.rem (fld w 20 6) (fld w 14 6) (fld w 8 6))
  | 0x08 => some (.remu (fld w 20 6) (fld w 14 6) (fld w 8 6))
  | 0x10 => some (.and (fld w 20 6) (fld w 14 6) (fld w 8 6))
  | 0x11 => some (.or (fld w 20 6) (fld w 14 6) (fld w 8 6))
  | 0x12 => some (.xor (fld w 20 6) (fld w 14 6) (fld w 8 6))
  | 0x13 => some (.andn (fld w 20 6) (fld w 14 6) (fld w 8 6))
  | 0x18 => some (.sll (fld w 20 6) (fld w 14 6) (fld w 8 6))
  | 0x19 => some (.srl (fld w 20 6) (fld w 14 6) (fld w 8 6))
  | 0x1A => some (.sra (fld w 20 6) (fld w 14 6) (fld w 8 6))
  | 0x1B => some (.rol (fld w 20 6) (fld w 14 6) (fld w 8 6))
  | 0x1C => some (.ror (fld w 20 6) (fld w 14 6) (fld w 8 6))
  | 0x20 => some (.min (fld w 20 6) (fld w 14 6) (fld w 8 6))
  | 0x21 => some (.max (fld w 20 6) (fld w 14 6) (fld w 8 6))
  | 0x22 => some (.minu (fld w 20 6) (fld w 14 6) (fld w 8 6))
  | 0x23 => some (.maxu (fld w 20 6) (fld w 14 6) (fld w 8 6))
  | 0x24 => some (.slt (fld w 20 6) (fld w 14 6) (fld w 8 6))
  | 0x25 => some (.sltu (fld w 20 6) (fld w 14 6) (fld w 8 6))
  | 0x28 => some (.clz (fld w 20 6) (fld w 14 6))
  | 0x29 => some (.ctz (fld w 20 6) (fld w 14 6))
  | 0x2A => some (.popc (fld w 20 6) (fld w 14 6))
  | 0x2C | 0x2D | 0x2E | 0x2F => some (.lea (fld w 20 6) (fld w 14 6) (fld w 8 6) (fld w 0 2))
  | 0x30 | 0x31 | 0x32 => some (.sext (fld w 20 6) (fld w 14 6) (fld w 0 2))
  | 0x34 | 0x35 | 0x36 => some (.zext (fld w 20 6) (fld w 14 6) (fld w 0 2))
  | 0x38 | 0x39 | 0x3A | 0x3B | 0x3C | 0x3D | 0x3E | 0x3F => some (.sel (fld w 20 6) (fld w 14 6) (fld w 8 6) (fld w 0 3))
  | n =>
    match n / 64 with
    | 1 => some (.bfx (fld w 20 6) (fld w 14 6) (fld w 8 6) (fld w 0 6))
    | 2 => some (.bfxu (fld w 20 6) (fld w 14 6) (fld w 8 6) (fld w 0 6))
    | 3 => some (.bfi (fld w 20 6) (fld w 14 6) (fld w 8 6) (fld w 0 6))
    | _ => none

/-- The instruction major 0x02 selects (R102–R114), its other bits not yet checked. -/
def select02 (w : IWord) : Option Instr :=
  some (.addi (fld w 20 6) (fld w 14 6) (fld w 0 14))

/-- The instruction major 0x03 selects (R102–R114), its other bits not yet checked. -/
def select03 (w : IWord) : Option Instr :=
  some (.andi (fld w 20 6) (fld w 14 6) (fld w 0 14))

/-- The instruction major 0x04 selects (R102–R114), its other bits not yet checked. -/
def select04 (w : IWord) : Option Instr :=
  some (.ori (fld w 20 6) (fld w 14 6) (fld w 0 14))

/-- The instruction major 0x05 selects (R102–R114), its other bits not yet checked. -/
def select05 (w : IWord) : Option Instr :=
  some (.xori (fld w 20 6) (fld w 14 6) (fld w 0 14))

/-- The instruction major 0x06 selects (R102–R114), its other bits not yet checked. -/
def select06 (w : IWord) : Option Instr :=
  match (fld w 12 2).toNat with
  | 0 => some (.slli (fld w 20 6) (fld w 14 6) (fld w 0 6))
  | 1 => some (.srli (fld w 20 6) (fld w 14 6) (fld w 0 6))
  | 2 => some (.srai (fld w 20 6) (fld w 14 6) (fld w 0 6))
  | 3 => some (.roli (fld w 20 6) (fld w 14 6) (fld w 0 6))
  | _ => none

/-- The instruction major 0x07 selects (R102–R114), its other bits not yet checked. -/
def select07 (w : IWord) : Option Instr :=
  match (fld w 13 1).toNat with
  | 0 => some (.slti (fld w 20 6) (fld w 14 6) (fld w 0 13))
  | 1 => some (.sltiu (fld w 20 6) (fld w 14 6) (fld w 0 13))
  | _ => none

/-- The instruction major 0x08 selects (R102–R114), its other bits not yet checked. -/
def select08 (w : IWord) : Option Instr :=
  some (.movi (fld w 20 6) (fld w 0 20))

/-- The instruction major 0x09 selects (R102–R114), its other bits not yet checked. -/
def select09 (w : IWord) : Option Instr :=
  some (.addhi (fld w 20 6) (fld w 0 20))

/-- The instruction major 0x0A selects (R102–R114), its other bits not yet checked. -/
def select0A (w : IWord) : Option Instr :=
  some (.addtop (fld w 20 6) (fld w 0 20))

/-- The instruction major 0x0B selects (R102–R114), its other bits not yet checked. -/
def select0B (w : IWord) : Option Instr :=
  some (.pcadd (fld w 20 6) (fld w 0 20))

/-- The instruction major 0x0C selects (R102–R114), its other bits not yet checked. -/
def select0C (w : IWord) : Option Instr :=
  match (fld w 0 3).toNat with
  | 0 | 1 | 2 | 3 | 4 | 5 => some (.cmp (fld w 20 3) (fld w 14 6) (fld w 8 6) (fld w 0 3))
  | _ => none

/-- The instruction major 0x0D selects (R102–R114), its other bits not yet checked. -/
def select0D (w : IWord) : Option Instr :=
  match (fld w 23 3).toNat with
  | 0 | 1 | 2 | 3 | 4 | 5 => some (.cmpi (fld w 23 3) (fld w 20 3) (fld w 14 6) (fld w 0 14))
  | _ => none

/-- The instruction major 0x0E selects (R102–R114), its other bits not yet checked. -/
def select0E (w : IWord) : Option Instr :=
  match (fld w 0 8).toNat with
  | 0x00 => some (.pand (fld w 20 3) (fld w 14 3) (fld w 8 3))
  | 0x01 => some (.por (fld w 20 3) (fld w 14 3) (fld w 8 3))
  | 0x02 => some (.pxor (fld w 20 3) (fld w 14 3) (fld w 8 3))
  | 0x03 => some (.pandn (fld w 20 3) (fld w 14 3) (fld w 8 3))
  | 0x04 => some (.pnot (fld w 20 3) (fld w 14 3))
  | 0x05 => some (.pmov (fld w 20 3) (fld w 14 3))
  | _ => none

/-- The instruction major 0x10 selects (R102–R114), its other bits not yet checked. -/
def select10 (w : IWord) : Option Instr :=
  some (.brc (fld w 23 3) (fld w 22 1) (fld w 0 22))

/-- The instruction major 0x11 selects (R102–R114), its other bits not yet checked. -/
def select11 (w : IWord) : Option Instr :=
  match (fld w 19 1).toNat with
  | 0 => some (.bz (fld w 20 6) (fld w 0 19))
  | 1 => some (.bnz (fld w 20 6) (fld w 0 19))
  | _ => none

/-- The instruction major 0x12 selects (R102–R114), its other bits not yet checked. -/
def select12 (w : IWord) : Option Instr :=
  some (.j (fld w 0 26))

/-- The instruction major 0x13 selects (R102–R114), its other bits not yet checked. -/
def select13 (w : IWord) : Option Instr :=
  some (.jal (fld w 0 26))

/-- The instruction major 0x14 selects (R102–R114), its other bits not yet checked. -/
def select14 (w : IWord) : Option Instr :=
  some (.jalr (fld w 20 6) (fld w 14 6) (fld w 0 14))

/-- The instruction major 0x16 selects (R102–R114), its other bits not yet checked. -/
def select16 (w : IWord) : Option Instr :=
  match (fld w 24 2).toNat with
  | 0 => some (.loop (fld w 20 1) (fld w 14 6) (fld w 0 14))
  | 1 => some (.loopi (fld w 20 1) (fld w 6 8) (fld w 0 6))
  | 2 => some (.lbrk (fld w 20 1))
  | _ => none

/-- The instruction major 0x17 selects (R102–R114), its other bits not yet checked. -/
def select17 (w : IWord) : Option Instr :=
  match (fld w 0 8).toNat with
  | 0x00 => some .ecall
  | 0x01 => some .ebreak
  | 0x02 => some .tret
  | 0x03 => some .halt
  | _ => none

/-- The instruction major 0x18 selects (R102–R114), its other bits not yet checked. -/
def select18 (w : IWord) : Option Instr :=
  match (fld w 12 2).toNat with
  | 0 => some (.csrr (fld w 20 6) (fld w 0 12))
  | 1 => some (.csrw (fld w 14 6) (fld w 0 12))
  | 2 => some (.csrs (fld w 14 6) (fld w 0 12))
  | 3 => some (.csrc (fld w 14 6) (fld w 0 12))
  | _ => none

/-- The instruction major 0x19 selects (R102–R114), its other bits not yet checked. -/
def select19 (w : IWord) : Option Instr :=
  match (fld w 0 8).toNat with
  | 0x00 => some (.spawn (fld w 20 6) (fld w 14 6) (fld w 8 6))
  | 0x01 => some (.spawnr (fld w 20 6) (fld w 14 6) (fld w 8 6))
  | 0x02 => some .done
  | 0x03 => some (.yield (fld w 14 6))
  | 0x04 => some (.signal (fld w 14 6))
  | 0x05 => some (.arm (fld w 14 6) (fld w 8 6))
  | 0x08 => some (.cancelLaunch (fld w 14 6))
  | 0x09 => some (.cancelGraph (fld w 14 6))
  | 0x0A => some (.cancelPhase (fld w 14 6))
  | 0x0B => some (.cancelJob (fld w 14 6))
  | _ => none

/-- The instruction major 0x1A selects (R102–R114), its other bits not yet checked. -/
def select1A (w : IWord) : Option Instr :=
  match (fld w 0 3).toNat with
  | 0 | 1 | 2 | 3 => some (.ld (fld w 20 6) (fld w 14 6) (fld w 3 11) (fld w 0 3))
  | _ => none

/-- The instruction major 0x1B selects (R102–R114), its other bits not yet checked. -/
def select1B (w : IWord) : Option Instr :=
  match (fld w 0 3).toNat with
  | 0 | 1 | 2 => some (.lds (fld w 20 6) (fld w 14 6) (fld w 3 11) (fld w 0 3))
  | _ => none

/-- The instruction major 0x1C selects (R102–R114), its other bits not yet checked. -/
def select1C (w : IWord) : Option Instr :=
  match (fld w 0 3).toNat with
  | 0 | 1 | 2 | 3 => some (.st (fld w 20 6) (fld w 14 6) (fld w 3 11) (fld w 0 3))
  | _ => none

/-- The instruction major 0x1D selects (R102–R114), its other bits not yet checked. -/
def select1D (w : IWord) : Option Instr :=
  match (fld w 0 8).toNat with
  | 0x00 => some (.stnBit (fld w 20 6) (fld w 14 6) (fld w 8 6))
  | 0x01 => some (.stnNib (fld w 20 6) (fld w 14 6) (fld w 8 6))
  | _ => none

/-- The instruction major 0x1E selects (R102–R114), its other bits not yet checked. -/
def select1E (w : IWord) : Option Instr :=
  match (fld w 0 3).toNat with
  | 0 => some (.ldp (fld w 20 6) (fld w 14 6) (fld w 3 11))
  | 1 => some (.stp (fld w 20 6) (fld w 14 6) (fld w 3 11))
  | _ => none

/-- The instruction major 0x1F selects (R102–R114), its other bits not yet checked. -/
def select1F (w : IWord) : Option Instr :=
  match (fld w 0 3).toNat with
  | 0 => some (.amoswap (fld w 20 6) (fld w 14 6) (fld w 8 6) (fld w 3 1))
  | 1 => some (.amocas (fld w 20 6) (fld w 14 6) (fld w 8 6) (fld w 3 1))
  | 2 => some (.amoadd (fld w 20 6) (fld w 14 6) (fld w 8 6) (fld w 3 1))
  | _ => none

/-- The instruction major 0x20 selects (R102–R114), its other bits not yet checked. -/
def select20 (w : IWord) : Option Instr :=
  some (.join (fld w 14 6) (fld w 8 6) (fld w 5 3) (fld w 3 2) (fld w 0 3))

/-- The instruction major 0x21 selects (R102–R114), its other bits not yet checked. -/
def select21 (w : IWord) : Option Instr :=
  match (fld w 7 1).toNat with
  | 0 => some (.tread (fld w 20 6) (fld w 14 6) (fld w 8 6) (fld w 5 2) (fld w 3 2) (fld w 0 3))
  | 1 => some (.twait (fld w 20 6) (fld w 14 6) (fld w 8 6) (fld w 5 2) (fld w 3 2) (fld w 0 3))
  | _ => none

/-- The instruction major 0x22 selects (R102–R114), its other bits not yet checked. -/
def select22 (w : IWord) : Option Instr :=
  match (fld w 0 3).toNat with
  | 0 | 1 | 2 | 3 => some (.xread (fld w 20 6) (fld w 14 6) (fld w 3 11) (fld w 0 3))
  | _ => none

/-- The instruction major 0x23 selects (R102–R114), its other bits not yet checked. -/
def select23 (w : IWord) : Option Instr :=
  match (fld w 6 2).toNat with
  | 0 => some (.ltype (fld w 14 6) (fld w 4 2) (fld w 0 4))
  | 1 => some (.freeze (fld w 14 6) (fld w 8 6) (fld w 0 3))
  | 2 => some (.lreset (fld w 14 6))
  | 3 => some (.lquery (fld w 20 6) (fld w 14 6))
  | _ => none

/-- The instruction major 0x24 selects (R102–R114), its other bits not yet checked. -/
def select24 (w : IWord) : Option Instr :=
  match (fld w 6 2).toNat with
  | 0 => some (.fence (fld w 20 6) (fld w 0 3))
  | 1 => match (fld w 0 1).toNat with
    | 0 => some (.prefxL2 (fld w 14 6))
    | _ => some (.prefxL1 (fld w 14 6))
  | _ => none

/-- The instruction major 0x25 selects (R102–R114), its other bits not yet checked. -/
def select25 (w : IWord) : Option Instr :=
  some (.waitc (fld w 12 4) (fld w 8 4) (fld w 4 4) (fld w 0 4))

/-- The instruction major 0x26 selects (R102–R114), its other bits not yet checked. -/
def select26 (w : IWord) : Option Instr :=
  match (fld w 4 4).toNat with
  | 0 => some (.lclaim (fld w 20 6) (fld w 8 3))
  | 1 => some .lfree
  | 2 => some .vsync
  | 3 => some (.vbcast (fld w 20 5) (fld w 14 6) (fld w 0 2))
  | 4 => some (.vext (fld w 20 6) (fld w 14 5) (fld w 8 6) (fld w 2 2) (fld w 0 2))
  | 5 => some (.vins (fld w 20 5) (fld w 14 6) (fld w 8 6) (fld w 2 2) (fld w 0 2))
  | _ => none

/-- The instruction major 0x27 selects (R102–R114), its other bits not yet checked. -/
def select27 (w : IWord) : Option Instr :=
  match (fld w 3 5).toNat with
  | 0x00 => some (.vadd (fld w 21 5) (fld w 16 5) (fld w 11 5) (fld w 8 3) (fld w 0 3))
  | 0x01 => some (.vsub (fld w 21 5) (fld w 16 5) (fld w 11 5) (fld w 8 3) (fld w 0 3))
  | 0x02 => some (.vmul (fld w 21 5) (fld w 16 5) (fld w 11 5) (fld w 8 3) (fld w 0 3))
  | 0x03 => some (.vmulh (fld w 21 5) (fld w 16 5) (fld w 11 5) (fld w 8 3) (fld w 0 3))
  | 0x04 => some (.vmin (fld w 21 5) (fld w 16 5) (fld w 11 5) (fld w 8 3) (fld w 0 3))
  | 0x05 => some (.vmax (fld w 21 5) (fld w 16 5) (fld w 11 5) (fld w 8 3) (fld w 0 3))
  | 0x06 => some (.vabs (fld w 21 5) (fld w 16 5) (fld w 8 3) (fld w 0 3))
  | 0x07 => some (.vneg (fld w 21 5) (fld w 16 5) (fld w 8 3) (fld w 0 3))
  | 0x08 => some (.vsat (fld w 21 5) (fld w 16 5) (fld w 8 3) (fld w 0 3))
  | 0x09 => some (.vand (fld w 21 5) (fld w 16 5) (fld w 11 5) (fld w 8 3) (fld w 0 3))
  | 0x0A => some (.vor (fld w 21 5) (fld w 16 5) (fld w 11 5) (fld w 8 3) (fld w 0 3))
  | 0x0B => some (.vxor (fld w 21 5) (fld w 16 5) (fld w 11 5) (fld w 8 3) (fld w 0 3))
  | 0x0C => some (.vshl (fld w 21 5) (fld w 16 5) (fld w 11 5) (fld w 8 3) (fld w 0 3))
  | 0x0D => some (.vshr (fld w 21 5) (fld w 16 5) (fld w 11 5) (fld w 8 3) (fld w 0 3))
  | 0x0E => some (.vsra (fld w 21 5) (fld w 16 5) (fld w 11 5) (fld w 8 3) (fld w 0 3))
  | _ => none

/-- The instruction major 0x28 selects (R102–R114), its other bits not yet checked. -/
def select28 (w : IWord) : Option Instr :=
  match (fld w 0 3).toNat with
  | 0 => some (.vfma (fld w 21 5) (fld w 16 5) (fld w 11 5) (fld w 6 5) (fld w 3 3))
  | 1 => some (.vfms (fld w 21 5) (fld w 16 5) (fld w 11 5) (fld w 6 5) (fld w 3 3))
  | 2 => some (.vfnma (fld w 21 5) (fld w 16 5) (fld w 11 5) (fld w 6 5) (fld w 3 3))
  | _ => none

/-- The instruction major 0x29 selects (R102–R114), its other bits not yet checked. -/
def select29 (w : IWord) : Option Instr :=
  match (fld w 5 3).toNat with
  | 0 => if (fld w 2 3).toNat < 6 then some (.vcmp (fld w 21 5) (fld w 16 5) (fld w 11 5) (fld w 8 3) (fld w 2 3) (fld w 0 2)) else none
  | 1 => some (.vsel (fld w 21 5) (fld w 16 5) (fld w 11 5) (fld w 8 3))
  | 2 => some (.vmov (fld w 21 5) (fld w 16 5) (fld w 8 3))
  | 3 => some (.viota (fld w 21 5) (fld w 8 3))
  | 4 => some (.vperm (fld w 21 5) (fld w 16 5) (fld w 11 5) (fld w 8 3))
  | 5 => match (fld w 0 1).toNat with
    | 0 => some (.vslideUp (fld w 21 5) (fld w 16 5) (fld w 1 1 ++ fld w 11 5) (fld w 8 3))
    | _ => some (.vslideDn (fld w 21 5) (fld w 16 5) (fld w 1 1 ++ fld w 11 5) (fld w 8 3))
  | _ => none

/-- The instruction major 0x2A selects (R102–R114), its other bits not yet checked. -/
def select2A (w : IWord) : Option Instr :=
  match (fld w 4 4).toNat with
  | 0 => some (.vredsum (fld w 21 5) (fld w 16 5) (fld w 8 3) (fld w 0 2))
  | 1 => some (.vredmin (fld w 21 5) (fld w 16 5) (fld w 8 3) (fld w 0 2))
  | 2 => some (.vredmax (fld w 21 5) (fld w 16 5) (fld w 8 3) (fld w 0 2))
  | 3 => match (fld w 2 2).toNat with
    | 0 => some (.vscanAdd (fld w 21 5) (fld w 16 5) (fld w 8 3) (fld w 0 2))
    | 1 => some (.vscanMin (fld w 21 5) (fld w 16 5) (fld w 8 3) (fld w 0 2))
    | 2 => some (.vscanMax (fld w 21 5) (fld w 16 5) (fld w 8 3) (fld w 0 2))
    | _ => none
  | 8 => some (.vexp2 (fld w 21 5) (fld w 16 5) (fld w 8 3))
  | 9 => some (.vlog2 (fld w 21 5) (fld w 16 5) (fld w 8 3))
  | 10 => some (.vrcp (fld w 21 5) (fld w 16 5) (fld w 8 3))
  | 11 => some (.vrsq (fld w 21 5) (fld w 16 5) (fld w 8 3))
  | 12 => some (.vsqrt (fld w 21 5) (fld w 16 5) (fld w 8 3))
  | 13 => some (.vtanh (fld w 21 5) (fld w 16 5) (fld w 8 3))
  | 14 => some (.vsigm (fld w 21 5) (fld w 16 5) (fld w 8 3))
  | _ => none

/-- The instruction major 0x2B selects (R102–R114), its other bits not yet checked. -/
def select2B (w : IWord) : Option Instr :=
  some (.vcvt (fld w 21 5) (fld w 16 5) (fld w 8 3) (fld w 4 4) (fld w 0 4))

/-- The instruction major 0x2C selects (R102–R114), its other bits not yet checked. -/
def select2C (w : IWord) : Option Instr :=
  match (fld w 6 2).toNat with
  | 0 => some (.vpack (fld w 21 5) (fld w 16 5) (fld w 11 5) (fld w 8 3) (fld w 0 4))
  | 1 => some (.vunpack (fld w 21 5) (fld w 16 5) (fld w 11 5) (fld w 8 3) (fld w 0 4))
  | 2 => some (.vqnt (fld w 21 5) (fld w 16 5) (fld w 11 5) (fld w 8 3) (fld w 4 2) (fld w 0 4))
  | 3 => some (.vdqnt (fld w 21 5) (fld w 16 5) (fld w 11 5) (fld w 8 3) (fld w 4 2) (fld w 0 4))
  | _ => none

/-- The instruction major 0x2D selects (R102–R114), its other bits not yet checked. -/
def select2D (w : IWord) : Option Instr :=
  match (fld w 6 2).toNat with
  | 0 => some (.vld (fld w 21 5) (fld w 16 5) (fld w 8 3))
  | 1 => some (.vst (fld w 21 5) (fld w 16 5) (fld w 8 3))
  | 2 => some (.vldx (fld w 21 5) (fld w 16 5) (fld w 11 5) (fld w 8 3))
  | 3 => some (.vstx (fld w 21 5) (fld w 16 5) (fld w 11 5) (fld w 8 3))
  | _ => none

/-- The instruction major 0x2E selects (R102–R114), its other bits not yet checked. -/
def select2E (w : IWord) : Option Instr :=
  match (fld w 7 1).toNat with
  | 0 => some (.joinv (fld w 21 5) (fld w 16 5) (fld w 11 3) (fld w 8 3) (fld w 3 2) (fld w 0 3))
  | 1 => some (.xreadv (fld w 21 5) (fld w 16 5) (fld w 8 3))
  | _ => none

/-- The instruction major 0x30 selects (R102–R114), its other bits not yet checked. -/
def select30 (w : IWord) : Option Instr :=
  match (fld w 6 4).toNat with
  | 0 => some (.tshape (fld w 16 6) (fld w 0 3))
  | 1 => match (fld w 0 4).toNat with
    | 0 => some (.tmapId (fld w 22 4) (fld w 16 4) (fld w 10 6))
    | 1 => some (.tmapTrans (fld w 22 4) (fld w 16 4) (fld w 10 6))
    | 2 => some (.tmapSlice (fld w 22 4) (fld w 16 4) (fld w 10 6))
    | 3 => some (.tmapStride (fld w 22 4) (fld w 16 4) (fld w 10 6))
    | 4 => some (.tmapBcast (fld w 22 4) (fld w 16 4) (fld w 10 6))
    | 5 => some (.tmapGather (fld w 22 4) (fld w 16 4) (fld w 10 6))
    | _ => none
  | 2 => some (.talloc (fld w 22 4) (fld w 0 4))
  | 3 => some (.trel (fld w 22 4))
  | 4 => some (.tstat (fld w 22 4) (fld w 16 6))
  | 5 => some (.bankfmt (fld w 10 6) (fld w 0 4))
  | 6 => some (.shpld (fld w 0 3))
  | _ => none

/-- The instruction major 0x31 selects (R102–R114), its other bits not yet checked. -/
def select31 (w : IWord) : Option Instr :=
  match (fld w 7 3).toNat with
  | 0 => some (.tload (fld w 22 4) (fld w 16 6))
  | 1 => some (.tstore (fld w 22 4) (fld w 16 6))
  | 2 => some (.tforce (fld w 22 4) (fld w 16 6) (fld w 10 6))
  | _ => none

/-- The instruction major 0x32 selects (R102–R114), its other bits not yet checked. -/
def select32 (w : IWord) : Option Instr :=
  match (fld w 8 2).toNat with
  | 0 => some (.tmm (fld w 22 4) (fld w 16 4) (fld w 10 4) (fld w 0 1))
  | 1 => some (.tmmx (fld w 22 4) (fld w 16 4) (fld w 10 4) (fld w 0 1))
  | 2 => some (.tmprog (fld w 16 6))
  | _ => none

/-- The instruction major 0x33 selects (R102–R114), its other bits not yet checked. -/
def select33 (w : IWord) : Option Instr :=
  match (fld w 7 3).toNat with
  | 0 => if (fld w 0 5).toNat < 14 then some (.tew (fld w 22 4) (fld w 16 4) (fld w 10 4) (fld w 0 5)) else none
  | 1 => if (fld w 0 2).toNat ≠ 3 then some (.tred (fld w 22 4) (fld w 16 4) (fld w 2 1) (fld w 0 2)) else none
  | 2 => some (.tcvt (fld w 22 4) (fld w 16 4))
  | 3 => some (.ttrans (fld w 22 4) (fld w 16 4))
  | 4 => some (.tgath (fld w 22 4) (fld w 16 4) (fld w 10 4))
  | 5 => some (.tqnt (fld w 22 4) (fld w 16 4) (fld w 0 2))
  | _ => none

/-- The instruction major 0x34 selects (R102–R114), its other bits not yet checked. -/
def select34 (w : IWord) : Option Instr :=
  match (fld w 8 2).toNat with
  | 0 => some (.cpy (fld w 22 2) (fld w 16 6) (fld w 10 6))
  | 1 => some (.cpymm (fld w 22 2) (fld w 16 6) (fld w 10 6))
  | _ => none

/-- The instruction major 0x35 selects (R102–R114), its other bits not yet checked. -/
def select35 (w : IWord) : Option Instr :=
  match (fld w 8 2).toNat with
  | 0 => some (.cqfence (fld w 22 4))
  | 1 => some (.cstat (fld w 22 2) (fld w 16 6))
  | _ => none

/-- The instruction major 0x36 selects (R102–R114), its other bits not yet checked. -/
def select36 (w : IWord) : Option Instr :=
  match (fld w 8 2).toNat with
  | 0 => if (fld w 0 4).toNat < 7 then some (.coll (fld w 22 4) (fld w 16 6) (fld w 10 6) (fld w 4 1) (fld w 0 4)) else none
  | 1 => some (.collw (fld w 22 4))
  | _ => none
/-- A major whose function field holds a reserved value is refused as reserved-function. -/
def ofFunction : Option Instr → Except Nat Instr
  | some i => .ok i
  | none => .error 2

/-- Major 0x30: as `ofFunction`, but a `TMAP` kind of 6–15 is reserved-operand, after the reserved bits (R114, R116). -/
def ofGeometry (w : IWord) : Except Nat Instr :=
  match select30 w with
  | some i => .ok i
  | none => .error (if fld w 6 4 = 1 then (if fld w 20 2 = 0 ∧ fld w 4 2 = 0 then 4 else 3) else 2)

/-- The instruction that the major opcode and the function fields select (R102, R115). -/
def select (w : IWord) : Except Nat Instr :=
  match (fld w 26 6).toNat with
  | 0x00 | 0x3F => .error 0
  | 0x01 => ofFunction (select01 w)
  | 0x02 => ofFunction (select02 w)
  | 0x03 => ofFunction (select03 w)
  | 0x04 => ofFunction (select04 w)
  | 0x05 => ofFunction (select05 w)
  | 0x06 => ofFunction (select06 w)
  | 0x07 => ofFunction (select07 w)
  | 0x08 => ofFunction (select08 w)
  | 0x09 => ofFunction (select09 w)
  | 0x0A => ofFunction (select0A w)
  | 0x0B => ofFunction (select0B w)
  | 0x0C => ofFunction (select0C w)
  | 0x0D => ofFunction (select0D w)
  | 0x0E => ofFunction (select0E w)
  | 0x10 => ofFunction (select10 w)
  | 0x11 => ofFunction (select11 w)
  | 0x12 => ofFunction (select12 w)
  | 0x13 => ofFunction (select13 w)
  | 0x14 => ofFunction (select14 w)
  | 0x16 => ofFunction (select16 w)
  | 0x17 => ofFunction (select17 w)
  | 0x18 => ofFunction (select18 w)
  | 0x19 => ofFunction (select19 w)
  | 0x1A => ofFunction (select1A w)
  | 0x1B => ofFunction (select1B w)
  | 0x1C => ofFunction (select1C w)
  | 0x1D => ofFunction (select1D w)
  | 0x1E => ofFunction (select1E w)
  | 0x1F => ofFunction (select1F w)
  | 0x20 => ofFunction (select20 w)
  | 0x21 => ofFunction (select21 w)
  | 0x22 => ofFunction (select22 w)
  | 0x23 => ofFunction (select23 w)
  | 0x24 => ofFunction (select24 w)
  | 0x25 => ofFunction (select25 w)
  | 0x26 => ofFunction (select26 w)
  | 0x27 => ofFunction (select27 w)
  | 0x28 => ofFunction (select28 w)
  | 0x29 => ofFunction (select29 w)
  | 0x2A => ofFunction (select2A w)
  | 0x2B => ofFunction (select2B w)
  | 0x2C => ofFunction (select2C w)
  | 0x2D => ofFunction (select2D w)
  | 0x2E => ofFunction (select2E w)
  | 0x30 => ofGeometry w
  | 0x31 => ofFunction (select31 w)
  | 0x32 => ofFunction (select32 w)
  | 0x33 => ofFunction (select33 w)
  | 0x34 => ofFunction (select34 w)
  | 0x35 => ofFunction (select35 w)
  | 0x36 => ofFunction (select36 w)  | _ => .error 1

/-- The word of a well-formed instruction (R99, R103–R114); an event of the machine has none. -/
def encode : Instr → Option IWord
  | .add d a b => some (0x1#6 ++ d ++ a ++ b ++ 0x0#8)
  | .sub d a b => some (0x1#6 ++ d ++ a ++ b ++ 0x1#8)
  | .mul d a b => some (0x1#6 ++ d ++ a ++ b ++ 0x2#8)
  | .mulh d a b => some (0x1#6 ++ d ++ a ++ b ++ 0x3#8)
  | .mulhu d a b => some (0x1#6 ++ d ++ a ++ b ++ 0x4#8)
  | .div d a b => some (0x1#6 ++ d ++ a ++ b ++ 0x5#8)
  | .divu d a b => some (0x1#6 ++ d ++ a ++ b ++ 0x6#8)
  | .rem d a b => some (0x1#6 ++ d ++ a ++ b ++ 0x7#8)
  | .remu d a b => some (0x1#6 ++ d ++ a ++ b ++ 0x8#8)
  | .and d a b => some (0x1#6 ++ d ++ a ++ b ++ 0x10#8)
  | .or d a b => some (0x1#6 ++ d ++ a ++ b ++ 0x11#8)
  | .xor d a b => some (0x1#6 ++ d ++ a ++ b ++ 0x12#8)
  | .andn d a b => some (0x1#6 ++ d ++ a ++ b ++ 0x13#8)
  | .sll d a b => some (0x1#6 ++ d ++ a ++ b ++ 0x18#8)
  | .srl d a b => some (0x1#6 ++ d ++ a ++ b ++ 0x19#8)
  | .sra d a b => some (0x1#6 ++ d ++ a ++ b ++ 0x1A#8)
  | .rol d a b => some (0x1#6 ++ d ++ a ++ b ++ 0x1B#8)
  | .ror d a b => some (0x1#6 ++ d ++ a ++ b ++ 0x1C#8)
  | .min d a b => some (0x1#6 ++ d ++ a ++ b ++ 0x20#8)
  | .max d a b => some (0x1#6 ++ d ++ a ++ b ++ 0x21#8)
  | .minu d a b => some (0x1#6 ++ d ++ a ++ b ++ 0x22#8)
  | .maxu d a b => some (0x1#6 ++ d ++ a ++ b ++ 0x23#8)
  | .slt d a b => some (0x1#6 ++ d ++ a ++ b ++ 0x24#8)
  | .sltu d a b => some (0x1#6 ++ d ++ a ++ b ++ 0x25#8)
  | .clz d a => some (0x1#6 ++ d ++ a ++ 0x28#14)
  | .ctz d a => some (0x1#6 ++ d ++ a ++ 0x29#14)
  | .popc d a => some (0x1#6 ++ d ++ a ++ 0x2A#14)
  | .lea d a b s => some (0x1#6 ++ d ++ a ++ b ++ 0xB#6 ++ s)
  | .sext d a w => some (0x1#6 ++ d ++ a ++ 0xC#12 ++ w)
  | .zext d a w => some (0x1#6 ++ d ++ a ++ 0xD#12 ++ w)
  | .sel d a b k => some (0x1#6 ++ d ++ a ++ b ++ 0x7#5 ++ k)
  | .bfx d a p l => some (0x1#6 ++ d ++ a ++ p ++ 0x1#2 ++ l)
  | .bfxu d a p l => some (0x1#6 ++ d ++ a ++ p ++ 0x2#2 ++ l)
  | .bfi d a p l => some (0x1#6 ++ d ++ a ++ p ++ 0x3#2 ++ l)
  | .addi d a i => some (0x2#6 ++ d ++ a ++ i)
  | .andi d a i => some (0x3#6 ++ d ++ a ++ i)
  | .ori d a i => some (0x4#6 ++ d ++ a ++ i)
  | .xori d a i => some (0x5#6 ++ d ++ a ++ i)
  | .slli d a s => some (0x6#6 ++ d ++ a ++ 0x0#8 ++ s)
  | .srli d a s => some (0x6#6 ++ d ++ a ++ 0x40#8 ++ s)
  | .srai d a s => some (0x6#6 ++ d ++ a ++ 0x80#8 ++ s)
  | .roli d a s => some (0x6#6 ++ d ++ a ++ 0xC0#8 ++ s)
  | .slti d a i => some (0x7#6 ++ d ++ a ++ 0x0#1 ++ i)
  | .sltiu d a i => some (0x7#6 ++ d ++ a ++ 0x1#1 ++ i)
  | .movi d i => some (0x8#6 ++ d ++ i)
  | .addhi d i => some (0x9#6 ++ d ++ i)
  | .addtop d i => some (0xA#6 ++ d ++ i)
  | .pcadd d i => some (0xB#6 ++ d ++ i)
  | .cmp p a b c => some (0xC#6 ++ 0x0#3 ++ p ++ a ++ b ++ 0x0#5 ++ c)
  | .cmpi c p a i => some (0xD#6 ++ c ++ p ++ a ++ i)
  | .pand d a b => some (0xE#6 ++ 0x0#3 ++ d ++ 0x0#3 ++ a ++ 0x0#3 ++ b ++ 0x0#8)
  | .por d a b => some (0xE#6 ++ 0x0#3 ++ d ++ 0x0#3 ++ a ++ 0x0#3 ++ b ++ 0x1#8)
  | .pxor d a b => some (0xE#6 ++ 0x0#3 ++ d ++ 0x0#3 ++ a ++ 0x0#3 ++ b ++ 0x2#8)
  | .pandn d a b => some (0xE#6 ++ 0x0#3 ++ d ++ 0x0#3 ++ a ++ 0x0#3 ++ b ++ 0x3#8)
  | .pnot d a => some (0xE#6 ++ 0x0#3 ++ d ++ 0x0#3 ++ a ++ 0x4#14)
  | .pmov d a => some (0xE#6 ++ 0x0#3 ++ d ++ 0x0#3 ++ a ++ 0x5#14)
  | .brc p n o => some (0x10#6 ++ p ++ n ++ o)
  | .bz a o => some (0x11#6 ++ a ++ 0x0#1 ++ o)
  | .bnz a o => some (0x11#6 ++ a ++ 0x1#1 ++ o)
  | .j o => some (0x12#6 ++ o)
  | .jal o => some (0x13#6 ++ o)
  | .jalr d a i => some (0x14#6 ++ d ++ a ++ i)
  | .loop n a l => some (0x16#6 ++ 0x0#5 ++ n ++ a ++ l)
  | .loopi n c l => some (0x16#6 ++ 0x8#5 ++ n ++ 0x0#6 ++ c ++ l)
  | .lbrk n => some (0x16#6 ++ 0x10#5 ++ n ++ 0x0#20)
  | .ecall => some (0x17#6 ++ 0x0#26)
  | .ebreak => some (0x17#6 ++ 0x1#26)
  | .tret => some (0x17#6 ++ 0x2#26)
  | .halt => some (0x17#6 ++ 0x3#26)
  | .csrr d c => some (0x18#6 ++ d ++ 0x0#8 ++ c)
  | .csrw a c => some (0x18#6 ++ 0x0#6 ++ a ++ 0x1#2 ++ c)
  | .csrs a c => some (0x18#6 ++ 0x0#6 ++ a ++ 0x2#2 ++ c)
  | .csrc a c => some (0x18#6 ++ 0x0#6 ++ a ++ 0x3#2 ++ c)
  | .spawn d a b => some (0x19#6 ++ d ++ a ++ b ++ 0x0#8)
  | .spawnr d a b => some (0x19#6 ++ d ++ a ++ b ++ 0x1#8)
  | .done => some (0x19#6 ++ 0x2#26)
  | .yield a => some (0x19#6 ++ 0x0#6 ++ a ++ 0x3#14)
  | .signal a => some (0x19#6 ++ 0x0#6 ++ a ++ 0x4#14)
  | .arm a b => some (0x19#6 ++ 0x0#6 ++ a ++ b ++ 0x5#8)
  | .cancelLaunch a => some (0x19#6 ++ 0x0#6 ++ a ++ 0x8#14)
  | .cancelGraph a => some (0x19#6 ++ 0x0#6 ++ a ++ 0x9#14)
  | .cancelPhase a => some (0x19#6 ++ 0x0#6 ++ a ++ 0xA#14)
  | .cancelJob a => some (0x19#6 ++ 0x0#6 ++ a ++ 0xB#14)
  | .ld d a i s => some (0x1A#6 ++ d ++ a ++ i ++ s)
  | .lds d a i s => some (0x1B#6 ++ d ++ a ++ i ++ s)
  | .st d a i s => some (0x1C#6 ++ d ++ a ++ i ++ s)
  | .stnBit d a b => some (0x1D#6 ++ d ++ a ++ b ++ 0x0#8)
  | .stnNib d a b => some (0x1D#6 ++ d ++ a ++ b ++ 0x1#8)
  | .ldp d a i => some (0x1E#6 ++ d ++ a ++ i ++ 0x0#3)
  | .stp d a i => some (0x1E#6 ++ d ++ a ++ i ++ 0x1#3)
  | .amoswap d a b w => some (0x1F#6 ++ d ++ a ++ b ++ 0x0#4 ++ w ++ 0x0#3)
  | .amocas d a b w => some (0x1F#6 ++ d ++ a ++ b ++ 0x0#4 ++ w ++ 0x1#3)
  | .amoadd d a b w => some (0x1F#6 ++ d ++ a ++ b ++ 0x0#4 ++ w ++ 0x2#3)
  | .join a b s w t => some (0x20#6 ++ 0x0#6 ++ a ++ b ++ s ++ w ++ t)
  | .tread d a b c w t => some (0x21#6 ++ d ++ a ++ b ++ 0x0#1 ++ c ++ w ++ t)
  | .twait d a b c w t => some (0x21#6 ++ d ++ a ++ b ++ 0x1#1 ++ c ++ w ++ t)
  | .xread d a i s => some (0x22#6 ++ d ++ a ++ i ++ s)
  | .ltype a w t => some (0x23#6 ++ 0x0#6 ++ a ++ 0x0#8 ++ w ++ t)
  | .freeze a b s => some (0x23#6 ++ 0x0#6 ++ a ++ b ++ 0x8#5 ++ s)
  | .lreset a => some (0x23#6 ++ 0x0#6 ++ a ++ 0x80#14)
  | .lquery d a => some (0x23#6 ++ d ++ a ++ 0xC0#14)
  | .fence d s => some (0x24#6 ++ d ++ 0x0#17 ++ s)
  | .prefxL2 a => some (0x24#6 ++ 0x0#6 ++ a ++ 0x40#14)
  | .prefxL1 a => some (0x24#6 ++ 0x0#6 ++ a ++ 0x41#14)
  | .waitc t c s l => some (0x25#6 ++ 0x0#10 ++ t ++ c ++ s ++ l)
  | .lclaim d n => some (0x26#6 ++ d ++ 0x0#9 ++ n ++ 0x0#8)
  | .lfree => some (0x26#6 ++ 0x10#26)
  | .vsync => some (0x26#6 ++ 0x20#26)
  | .vbcast d a e => some (0x26#6 ++ 0x0#1 ++ d ++ a ++ 0xC#12 ++ e)
  | .vext d a i j e => some (0x26#6 ++ d ++ 0x0#1 ++ a ++ i ++ 0x4#4 ++ j ++ e)
  | .vins d a i j e => some (0x26#6 ++ 0x0#1 ++ d ++ a ++ i ++ 0x5#4 ++ j ++ e)
  | .vadd d a b m t => some (0x27#6 ++ d ++ a ++ b ++ m ++ 0x0#5 ++ t)
  | .vsub d a b m t => some (0x27#6 ++ d ++ a ++ b ++ m ++ 0x1#5 ++ t)
  | .vmul d a b m t => some (0x27#6 ++ d ++ a ++ b ++ m ++ 0x2#5 ++ t)
  | .vmulh d a b m t => some (0x27#6 ++ d ++ a ++ b ++ m ++ 0x3#5 ++ t)
  | .vmin d a b m t => some (0x27#6 ++ d ++ a ++ b ++ m ++ 0x4#5 ++ t)
  | .vmax d a b m t => some (0x27#6 ++ d ++ a ++ b ++ m ++ 0x5#5 ++ t)
  | .vabs d a m t => some (0x27#6 ++ d ++ a ++ 0x0#5 ++ m ++ 0x6#5 ++ t)
  | .vneg d a m t => some (0x27#6 ++ d ++ a ++ 0x0#5 ++ m ++ 0x7#5 ++ t)
  | .vsat d a m t => some (0x27#6 ++ d ++ a ++ 0x0#5 ++ m ++ 0x8#5 ++ t)
  | .vand d a b m t => some (0x27#6 ++ d ++ a ++ b ++ m ++ 0x9#5 ++ t)
  | .vor d a b m t => some (0x27#6 ++ d ++ a ++ b ++ m ++ 0xA#5 ++ t)
  | .vxor d a b m t => some (0x27#6 ++ d ++ a ++ b ++ m ++ 0xB#5 ++ t)
  | .vshl d a b m t => some (0x27#6 ++ d ++ a ++ b ++ m ++ 0xC#5 ++ t)
  | .vshr d a b m t => some (0x27#6 ++ d ++ a ++ b ++ m ++ 0xD#5 ++ t)
  | .vsra d a b m t => some (0x27#6 ++ d ++ a ++ b ++ m ++ 0xE#5 ++ t)
  | .vfma d a b c m => some (0x28#6 ++ d ++ a ++ b ++ c ++ m ++ 0x0#3)
  | .vfms d a b c m => some (0x28#6 ++ d ++ a ++ b ++ c ++ m ++ 0x1#3)
  | .vfnma d a b c m => some (0x28#6 ++ d ++ a ++ b ++ c ++ m ++ 0x2#3)
  | .vcmp d a b m c t => some (0x29#6 ++ d ++ a ++ b ++ m ++ 0x0#3 ++ c ++ t)
  | .vsel d a b m => some (0x29#6 ++ d ++ a ++ b ++ m ++ 0x20#8)
  | .vmov d a m => some (0x29#6 ++ d ++ a ++ 0x0#5 ++ m ++ 0x40#8)
  | .viota d m => some (0x29#6 ++ d ++ 0x0#10 ++ m ++ 0x60#8)
  | .vperm d a b m => some (0x29#6 ++ d ++ a ++ b ++ m ++ 0x80#8)
  | .vslideUp d a k m => some (0x29#6 ++ d ++ a ++ k.extractLsb' 0 5 ++ m ++ 0x28#6 ++ k.extractLsb' 5 1 ++ 0#1)
  | .vslideDn d a k m => some (0x29#6 ++ d ++ a ++ k.extractLsb' 0 5 ++ m ++ 0x28#6 ++ k.extractLsb' 5 1 ++ 1#1)
  | .vredsum d a m t => some (0x2A#6 ++ d ++ a ++ 0x0#5 ++ m ++ 0x0#6 ++ t)
  | .vredmin d a m t => some (0x2A#6 ++ d ++ a ++ 0x0#5 ++ m ++ 0x4#6 ++ t)
  | .vredmax d a m t => some (0x2A#6 ++ d ++ a ++ 0x0#5 ++ m ++ 0x8#6 ++ t)
  | .vscanAdd d a m t => some (0x2A#6 ++ d ++ a ++ 0x0#5 ++ m ++ 0xC#6 ++ t)
  | .vscanMin d a m t => some (0x2A#6 ++ d ++ a ++ 0x0#5 ++ m ++ 0xD#6 ++ t)
  | .vscanMax d a m t => some (0x2A#6 ++ d ++ a ++ 0x0#5 ++ m ++ 0xE#6 ++ t)
  | .vexp2 d a m => some (0x2A#6 ++ d ++ a ++ 0x0#5 ++ m ++ 0x80#8)
  | .vlog2 d a m => some (0x2A#6 ++ d ++ a ++ 0x0#5 ++ m ++ 0x90#8)
  | .vrcp d a m => some (0x2A#6 ++ d ++ a ++ 0x0#5 ++ m ++ 0xA0#8)
  | .vrsq d a m => some (0x2A#6 ++ d ++ a ++ 0x0#5 ++ m ++ 0xB0#8)
  | .vsqrt d a m => some (0x2A#6 ++ d ++ a ++ 0x0#5 ++ m ++ 0xC0#8)
  | .vtanh d a m => some (0x2A#6 ++ d ++ a ++ 0x0#5 ++ m ++ 0xD0#8)
  | .vsigm d a m => some (0x2A#6 ++ d ++ a ++ 0x0#5 ++ m ++ 0xE0#8)
  | .vcvt d a m f s => some (0x2B#6 ++ d ++ a ++ 0x0#5 ++ m ++ f ++ s)
  | .vpack d a b m f => some (0x2C#6 ++ d ++ a ++ b ++ m ++ 0x0#4 ++ f)
  | .vunpack d a b m f => some (0x2C#6 ++ d ++ a ++ b ++ m ++ 0x4#4 ++ f)
  | .vqnt d a b m c f => some (0x2C#6 ++ d ++ a ++ b ++ m ++ 0x2#2 ++ c ++ f)
  | .vdqnt d a b m c f => some (0x2C#6 ++ d ++ a ++ b ++ m ++ 0x3#2 ++ c ++ f)
  | .vld d a m => some (0x2D#6 ++ d ++ a ++ 0x0#5 ++ m ++ 0x0#8)
  | .vst d a m => some (0x2D#6 ++ d ++ a ++ 0x0#5 ++ m ++ 0x40#8)
  | .vldx d a b m => some (0x2D#6 ++ d ++ a ++ b ++ m ++ 0x80#8)
  | .vstx d a b m => some (0x2D#6 ++ d ++ a ++ b ++ m ++ 0xC0#8)
  | .joinv d a s m w t => some (0x2E#6 ++ d ++ a ++ 0x0#2 ++ s ++ m ++ 0x0#3 ++ w ++ t)
  | .xreadv d a m => some (0x2E#6 ++ d ++ a ++ 0x0#5 ++ m ++ 0x80#8)
  | .tshape a k => some (0x30#6 ++ 0x0#4 ++ a ++ 0x0#13 ++ k)
  | .tmapId e a b => some (0x30#6 ++ e ++ 0x0#2 ++ a ++ b ++ 0x40#10)
  | .tmapTrans e a b => some (0x30#6 ++ e ++ 0x0#2 ++ a ++ b ++ 0x41#10)
  | .tmapSlice e a b => some (0x30#6 ++ e ++ 0x0#2 ++ a ++ b ++ 0x42#10)
  | .tmapStride e a b => some (0x30#6 ++ e ++ 0x0#2 ++ a ++ b ++ 0x43#10)
  | .tmapBcast e a b => some (0x30#6 ++ e ++ 0x0#2 ++ a ++ b ++ 0x44#10)
  | .tmapGather e a b => some (0x30#6 ++ e ++ 0x0#2 ++ a ++ b ++ 0x45#10)
  | .talloc e k => some (0x30#6 ++ e ++ 0x8#18 ++ k)
  | .trel e => some (0x30#6 ++ e ++ 0xC0#22)
  | .tstat e a => some (0x30#6 ++ e ++ a ++ 0x100#16)
  | .bankfmt b k => some (0x30#6 ++ 0x0#10 ++ b ++ 0x14#6 ++ k)
  | .shpld k => some (0x30#6 ++ 0x30#23 ++ k)
  | .tload e a => some (0x31#6 ++ e ++ a ++ 0x0#16)
  | .tstore e a => some (0x31#6 ++ e ++ a ++ 0x80#16)
  | .tforce e a b => some (0x31#6 ++ e ++ a ++ b ++ 0x100#10)
  | .tmm e a b c => some (0x32#6 ++ e ++ 0x0#2 ++ a ++ 0x0#2 ++ b ++ 0x0#9 ++ c)
  | .tmmx e a b c => some (0x32#6 ++ e ++ 0x0#2 ++ a ++ 0x0#2 ++ b ++ 0x80#9 ++ c)
  | .tmprog a => some (0x32#6 ++ 0x0#4 ++ a ++ 0x200#16)
  | .tew e a b o => some (0x33#6 ++ e ++ 0x0#2 ++ a ++ 0x0#2 ++ b ++ 0x0#5 ++ o)
  | .tred e a x o => some (0x33#6 ++ e ++ 0x0#2 ++ a ++ 0x10#13 ++ x ++ o)
  | .tcvt e a => some (0x33#6 ++ e ++ 0x0#2 ++ a ++ 0x100#16)
  | .ttrans e a => some (0x33#6 ++ e ++ 0x0#2 ++ a ++ 0x180#16)
  | .tgath e a b => some (0x33#6 ++ e ++ 0x0#2 ++ a ++ 0x0#2 ++ b ++ 0x200#10)
  | .tqnt e a s => some (0x33#6 ++ e ++ 0x0#2 ++ a ++ 0xA0#14 ++ s)
  | .cpy n a b => some (0x34#6 ++ 0x0#2 ++ n ++ a ++ b ++ 0x0#10)
  | .cpymm n a b => some (0x34#6 ++ 0x0#2 ++ n ++ a ++ b ++ 0x100#10)
  | .cqfence m => some (0x35#6 ++ m ++ 0x0#22)
  | .cstat n a => some (0x35#6 ++ 0x0#2 ++ n ++ a ++ 0x100#16)
  | .coll s a b c o => some (0x36#6 ++ s ++ a ++ b ++ 0x0#5 ++ c ++ o)
  | .collw s => some (0x36#6 ++ s ++ 0x100#22)
  | .parkAfterStoreEntry _ => none
  | .contextTakesRecord _ => none
  | .joinCountDecrement _ _ _ => none
  | .recordEnqueue _ _ _ _ => none
  | .cancelDelivery _ => none
  | .interruptEntry _ => none
  | .blockTimerExpiry _ => none
  | .asyncFaultDelivery _ => none
  | .vectorCommandComplete _ => none
  | .homeRead _ _ => none
  | .homeWriteOwn _ _ => none
  | .homeUncachedWrite _ _ _ _ => none
  | .homeUncachedRead _ => none
  | .homeWriteBack _ _ => none
  | .systemAtomicAtHome _ _ _ _ _ => none
  | .codeShadowFullRetire _ _ _ => none
  | .lowerBoundFill _ _ => none
  | .deltaGrant _ _ => none
  | .joinAtHome _ _ => none
  | .deltaDrain _ _ => none
  | .watchRegistration _ => none
  | .freezeLine _ => none
  | .freezeNotice _ _ => none
  | .probe _ _ _ _ => none
  | .fillReply _ _ _ => none
  | .busyRetryTimer _ => none
  | .arrivalBatch _ => none
  | .arrivalBatchTimer _ => none
  | .tagClose _ _ => none
  | .fenceComplete _ => none
  | .storeTimeout _ _ => none
  | .pageWalk _ _ => none
  | .hashctlWrite _ _ => none
  | .domainSwitch _ => none
  | .splitctlWrite _ _ => none
  | .splitsFull _ => none
  | .tloadBeat _ _ => none
  | .sweepPass _ _ => none
  | .lanePass _ _ => none
  | .conversionStep _ _ => none
  | .copyBeat _ _ => none
  | .cpymmFollowOn _ _ => none
  | .writeOutLine _ => none
  | .reductionPartial _ _ _ => none
  | .seqChunkWrite _ _ => none
  | .controlCancel _ => none
  | .controlRelease _ => none
  | .controlCancelJob _ => none
  | .controlNoAction _ => none
  | .launchRelease _ => none
  | .phaseBoundary _ => none
  | .launchComplete _ => none
  | .stealRequest _ _ => none
  | .stealReply _ _ _ => none
  | .stealRoundTimer _ => none
  | .umpireWindowExpiry _ => none
  | .preemptWrite _ _ => none
  | .releaseWrite _ _ => none
  | .debugWrite _ _ => none
  | .debugFreeze _ _ => none
  | .frozenAbortTimeout _ => none
  | .debugResume _ _ => none
  | .creset _ => none
  | .swapOut => none
  | .swapOutComplete => none
  | .swapIn => none
  | .messageSpill _ _ => none
  | .uncorrectableError _ _ _ => none
  | .scrub _ _ => none
  | .rollbackRestart _ => none
  | .shootdownGo => none
  | .shootdownComplete => none
  | .interleaveSetWrite _ _ => none
  | .biasFlipGo => none
  | .biasFlipPoint => none
  | .hostJoin _ _ _ _ => none
  | .hostWrite _ _ _ _ => none
  | .hostRead _ _ => none
  | .hostSnoop _ => none
  | .hostWriteAck _ => none
  | .registerWrite _ _ _ _ => none
  | .claim _ => none
  | .handover _ _ => none
  | .accept _ => none
  | .handoverTimeout => none
  | .ownerLoss _ => none
  | .storeCommit => none
  | .powerOnReset => none
  | .railSettled _ => none
  | .bootStart => none
  | .flood => none
  | .discoveryAnswer _ => none
  | .discoveryWindowClose => none
  | .physAssign _ _ => none
  | .mgo => none
  | .multicastAck _ => none
  | .multicastTimeout => none
  | .finish => none
  | .hostLinkTrained _ => none
  | .flitReceive _ _ => none
  | .linkReplayTimer _ => none
  | .linkDead _ => none
  | .laneLockLoss _ _ => none
  | .flowSkip _ _ => none
  | .retrain _ => none
  | .linkTrained _ _ _ => none
  | .thermalThrottle _ _ => none
  | .thermalShutdown => none
  | .notAnInstruction _ => none
  | .instructionFetchFault _ => none
  | .crewPowerGating _ _ => none
/-- The instruction a word is, or the subcode of R115 that refuses it. Bits that must be zero are those in which the word
differs from the instruction's own encoding. -/
def decode (w : IWord) : Except Nat Instr :=
  match select w with
  | .error e => .error e
  | .ok i =>
    if encode i ≠ some w then .error 3
    else if i.reservedOk = false then .error 3
    else if i.operandOk = false then .error 4
    else if i.scopeOk = false then .error 5
    else .ok i

/-- The word four bytes hold, little-endian (R7, R98). -/
def wordOfBytes (b0 b1 b2 b3 : Byte) : IWord := b3 ++ b2 ++ b1 ++ b0

/-- The instruction at the head of a byte sequence, and the bytes after it. Fewer than four bytes hold none (R98). -/
def decodeBytes : List Byte → Option (Except Nat Instr × List Byte)
  | b0 :: b1 :: b2 :: b3 :: rest => some (decode (wordOfBytes b0 b1 b2 b3), rest)
  | _ => none

/-- The instruction the decoder reads from a word of the opcode table, its bits above `nbits` being zero. -/
def decodeTableWord (nbits w : Nat) : Option Instr :=
  let x := w % 2 ^ min nbits 32
  match decodeBytes [BitVec.ofNat 8 x, BitVec.ofNat 8 (x / 0x100), BitVec.ofNat 8 (x / 0x10000),
    BitVec.ofNat 8 (x / 0x1000000)] with
  | some (.ok i, _) => some i
  | _ => none

end Sys2Proof
end

