-- ==== Sys2Proof/Config.lean ====
section
/-!
DEFINITION. What the manual leaves open: constants without a body. Nothing can evaluate them, so whatever is proved
of the machine holds for every value they could take. Each is named in the assumption log.
-/
namespace Sys2Proof.Config

/-- The further cycles that pass at a step, beyond the one that it takes when no event is pending: the manual gives latencies but no schedule of the whole part. [DESIGN CHOICE, log 1] -/
opaque stepCycles : Nat → Nat

/-- SELF of the management block as code of the part reads it, which is no master (R426), and the silicon revision (R423). [DESIGN CHOICE, log 4] -/
opaque selfRead : Nat
opaque siliconRev : Nat

/-- Whether a crew, a slice or a die fails its self-test at a power-up (R430), by its index. [DESIGN CHOICE, log 5] -/
opaque crewFails : Nat → Bool
opaque sliceFails : Nat → Bool
opaque dieFails : Nat → Bool

/-- Whether the records of the module configuration store pass their CRC (R428): the manual does not give its polynomial. [DESIGN CHOICE, log 6] -/
opaque storeFails : List Host.Cell → Bool

/-- What the module configuration store's records say where the manual does not lay them out (R428): the package id, the
quarantine mask, the enabled Nolras links, and whether a host port other than port 0 trains under the bifurcation. [DESIGN CHOICE, log 7] -/
opaque storePkgid : List Host.Cell → BitVec 15
opaque storeQlist : List Host.Cell → BitVec 1024
opaque storeLinks : List Host.Cell → BitVec 16
opaque storePort : List Host.Cell → Nat → Bool

/-- Which line or entry a full cache gives up, by the model's counter, and the set of a line by its number: the manual gives sizes and
ways, but no index and no replacement (R360–R362, R381). [DESIGN CHOICE, log 15] -/
opaque victim : Nat → Nat
opaque cacheSet : Nat → Nat

/-- Whether another package answers a read within the store timeout (R196), by the model's counter. [DESIGN CHOICE, log 112] -/
opaque remoteReply : Nat → Bool

/-- What an atomic whose read fails after its checks writes to x(d) (R199, R392): by the model's counter. [DESIGN CHOICE, log 114] -/
opaque freeWord : Nat → BitVec 64

/-- What the hardware writes into a staging buffer or the message spill buffer of bank 15 at a step: the manual gives neither a layout (R358).
[DESIGN CHOICE, log 118] -/
opaque bankBytes : Nat → Nat

/-- The size of an entry that a slice spills to its watch or arrival overflow region, and the entry's bytes by the model's counter: the manual
gives no layout (R378, R379). [DESIGN CHOICE, log 123] -/
opaque overflowLen : Nat
opaque overflowBytes : Nat → Nat

/-- The free transmit credits of a link (R435): by the model's counter and the link. [DESIGN CHOICE, log 8] -/
opaque credits : Nat → Nat → Nat

end Sys2Proof.Config
end

