-- ==== Sys2Proof/Machine/Numbers.lean ====
section
/-!
DEFINITION. The number formats and their arithmetic (R62–R90): the exact value of a code, the one rounding helper
`roundTo`, the exact sums and products it is given, the scale rules of BX32, NQ4 and K4, and the special functions.
A flag set is five bits in the order of `FPFLAGS`: NV, DZ, OF, UF, NX (R32).
-/
namespace Sys2Proof.Machine

/-- A set of floating-point flags, in the order of `FPFLAGS` (R32). -/
abbrev Flags := BitVec 5

def flagNV : Flags := 1
def flagDZ : Flags := 2
def flagOF : Flags := 4
def flagUF : Flags := 8
def flagNX : Flags := 16

/-- An exact value (R69): a NaN with its sign and its fraction at the top of a 23-bit field, an infinity, or the
signed magnitude `n × 2^e`. -/
inductive Num where
  | nan (neg : Bool) (frac : Nat)
  | inf (neg : Bool)
  | fin (neg : Bool) (n : Nat) (e : Int)
  deriving DecidableEq, Repr

/-- The canonical quiet NaN (R66, R79). -/
def Num.qnan : Num := .nan false 0x400000
def Num.zero : Num := .fin false 0 0
def Num.isNaN : Num → Bool | .nan _ _ => true | _ => false
def Num.isInf : Num → Bool | .inf _ => true | _ => false
def Num.isZero : Num → Bool | .fin _ n _ => n == 0 | _ => false
/-- A NaN whose quiet bit is 0 (R66). -/
def Num.isSignalling : Num → Bool | .nan _ f => decide (f < 0x400000) | _ => false
def Num.neg? : Num → Bool | .nan s _ | .inf s | .fin s _ _ => s
def Num.negate : Num → Num
  | .nan s f => .nan s f
  | .inf s => .inf !s
  | .fin s n e => .fin (!s) n e
def Num.abs : Num → Num
  | .nan s f => .nan s f
  | .inf _ => .inf false
  | .fin _ n e => .fin false n e
/-- The value of an integer. -/
def Num.ofInt (i : Int) : Num := .fin (decide (i < 0)) i.natAbs 0

/-- `n × 2^k` for `k ≥ 0`, else the floor of the quotient. -/
def shiftI (n : Nat) (k : Int) : Nat := if 0 ≤ k then n <<< k.toNat else n >>> (-k).toNat

/-- The signed value as an integer multiple of `2^e`, exact when `e` is at most the value's own exponent. -/
def Num.scaled (x : Num) (e : Int) : Int :=
  match x with
  | .fin s n e' => let m : Int := Int.ofNat (shiftI n (e' - e)); if s then -m else m
  | _ => 0

def Num.exp : Num → Int | .fin _ _ e => e | _ => 0

/-- The exact order of two values that are no NaN, `-0` and `+0` being equal. -/
def Num.lt (a b : Num) : Bool :=
  match a, b with
  | .inf s, .inf t => s && !t
  | .inf s, _ => s
  | _, .inf t => !t
  | _, _ => let e := min a.exp b.exp; decide (a.scaled e < b.scaled e)

def Num.eqv (a b : Num) : Bool := !a.isNaN && !b.isNaN && !a.lt b && !b.lt a

/-- The numeric kinds of R62. `flt m emin maxMag infMag` has `m` fraction bits and its largest finite magnitude code;
INT32 (R68) is the accumulator's type and has no format code. -/
inductive Kind where
  | flt (width m : Nat) (emin : Int) (maxMag : Nat) (infMag : Option Nat) (pad : Nat)
  | int (width : Nat) (lo hi : Int)
  | nq4
  | k4
  deriving DecidableEq, Repr

/-- The format codes of R62 with the layouts of R64–R68; 16 stands for INT32. -/
def kindOf : Nat → Kind
  | 0 => .flt 32 23 (-126) 0x7F7FFFFF (some 0x7F800000) 0
  | 1 => .flt 24 15 (-126) 0x7F7FFF (some 0x7F8000) 8
  | 2 => .flt 16 7 (-126) 0x7F7F (some 0x7F80) 0
  | 3 => .flt 16 10 (-14) 0x7BFF (some 0x7C00) 0
  | 4 => .flt 8 3 (-6) 0x7E none 0
  | 5 => .flt 8 2 (-14) 0x7B (some 0x7C) 0
  | 6 => .flt 6 2 (-2) 0x1F none 0
  | 7 => .flt 6 3 0 0x1F none 0
  | 8 => .flt 4 1 0 0x7 none 0
  | 9 => .nq4
  | 10 => .k4
  | 11 => .int 16 (-32768) 32767
  | 12 => .int 8 (-128) 127
  | 13 => .int 8 0 255
  | 14 => .int 4 (-8) 7
  | 15 => .int 4 0 15
  | _ => .int 32 (-2147483648) 2147483647

/-- The bits a code takes in memory and scratchpad (R62). -/
def fmtBits : Nat → Nat
  | 0 | 1 => 32
  | 2 | 3 | 11 => 16
  | 4 | 5 | 12 | 13 => 8
  | 6 | 7 => 6
  | 8 | 9 | 10 | 14 | 15 => 4
  | _ => 32

/-- How many elements of the format a 32-bit vector element packs (R62). -/
def fmtPack : Nat → Nat
  | 0 | 1 => 1
  | 2 | 3 | 11 => 2
  | 4 | 5 | 6 | 7 | 12 | 13 => 4
  | _ => 8

/-- A format that is floating-point, for the families of R91. -/
def fmtIsFloat (f : Nat) : Bool := decide (f ≤ 8)
/-- A two's-complement or unsigned integer format, INT32 included. -/
def fmtIsInt (f : Nat) : Bool := decide (11 ≤ f)
/-- Formats with NaN codes (R66). -/
def fmtHasNaN (f : Nat) : Bool := decide (f ≤ 5)

/-- The float value of a magnitude code (R64, R66): `m` fraction bits, minimum exponent `emin`. E4M3's one NaN
magnitude is 0x7F. -/
def fltVal (width m : Nat) (emin : Int) (maxMag : Nat) (infMag : Option Nat) (c : Nat) : Num :=
  let s := c.testBit (width - 1)
  let mag := c % 2 ^ (width - 1)
  let fr := mag % 2 ^ m
  if mag ≤ maxMag then
    let e := mag / 2 ^ m
    if e = 0 then .fin s fr (emin - m) else .fin s (2 ^ m + fr) (emin - m + (e - 1))
  else if infMag = some mag then .inf s
  else .nan s (fr <<< (23 - m))

/-- The signed value of a `w`-bit two's-complement code. -/
def signedOf (w c : Nat) : Int :=
  let c := c % 2 ^ w
  if c < 2 ^ (w - 1) then c else (c : Int) - 2 ^ w

/-- The integers of the NQ4 codebook (R85): code `c` stands for `nq4Level c / 4096`. -/
def nq4Level : Nat → Int
  | 0 => -4096 | 1 => -2896 | 2 => -2224 | 3 => -1704 | 4 => -1272 | 5 => -884 | 6 => -520 | 7 => -172
  | 8 => 172 | 9 => 520 | 10 => 884 | 11 => 1272 | 12 => 1704 | 13 => 2224 | 14 => 2896 | _ => 4096

/-- The entry of a code in the table of `K4LO` and `K4HI` (R88), the two registers as one 128-bit value. -/
def k4Entry (tab : BitVec 128) (c : Nat) : Int := (tab.extractLsb' (8 * (c % 16)) 8).toInt

/-- The exact value of an unscaled code (R62–R68, R88). An NQ4 code has a value only with its scales (R86). -/
def valOf (fmt : Nat) (tab : BitVec 128) (c : Nat) : Num :=
  match kindOf fmt with
  | .flt w m emin mx im pad => fltVal w m emin mx im ((c >>> pad) % 2 ^ w)
  | .int w lo _ => Num.ofInt (if lo < 0 then signedOf w c else ((c % 2 ^ w : Nat) : Int))
  | .nq4 => .fin (decide (nq4Level c < 0)) (nq4Level c).natAbs (-12)
  | .k4 => Num.ofInt (k4Entry tab c)

/-- The rounding modes of `FPCTL`.RM (R31, R69); a dithered rounding carries its dither value. -/
inductive Mode where
  | rne | rtz | up | down
  | sr (dv : Nat)
  deriving DecidableEq, Repr

/-- `Dither(row, col, seed)` (R58). -/
def dither (row col seed : Nat) : Nat :=
  let b := BitVec.ofNat 8 (col + 16 * row + seed)
  ((List.range 8).foldl (fun a i => if b.getLsbD i then a + 2 ^ (7 - i) else a) 0)

/-- The mode of an `RM` value (R31): 4 is dithered, with the given dither value. -/
def modeOf (rm dv : Nat) : Mode :=
  match rm with
  | 0 => .rne | 1 => .rtz | 2 => .up | 3 => .down | _ => .sr dv

/-- The integer multiple of `2^qe` that `n × 2^e` rounds to, and whether it is exact (R69). -/
def roundMult (neg : Bool) (n : Nat) (e qe : Int) (mode : Mode) : Nat × Bool :=
  if qe ≤ e then (n <<< (e - qe).toNat, true)
  else
    let s := (qe - e).toNat
    let f := n >>> s
    let r := n - f <<< s
    let half := 1 <<< (s - 1)
    let inc : Bool := match mode with
      | .rne => decide (half < r) || (decide (r = half) && decide (f % 2 = 1))
      | .rtz => false
      | .up => !neg && decide (r ≠ 0)
      | .down => neg && decide (r ≠ 0)
      | .sr dv => decide (256 <<< s ≤ 256 * r + dv <<< s)
    (if inc then f + 1 else f, decide (r = 0))

/-- Floor of the base-2 logarithm of `n × 2^e`, for `n ≠ 0`. -/
def log2Of (n : Nat) (e : Int) : Int := (Nat.log2 n : Int) + e

/-- The result of an overflow (R71): the magnitude code. -/
def overflowMag (neg : Bool) (mx : Nat) (im : Option Nat) (mode : Mode) : Nat :=
  match im with
  | none => mx
  | some i =>
    match mode with
    | .rne | .sr _ => i
    | .rtz => mx
    | .up => if neg then mx else i
    | .down => if neg then i else mx

/-- A code from its sign and magnitude, with FP24's container padding (R64, R65). -/
def signMag (width pad : Nat) (neg : Bool) (mag : Nat) : Nat :=
  ((if neg then 2 ^ (width - 1) else 0) + mag) <<< pad

/-- The nearest of sixteen levels to a value, ties to the lower code (R86, R88): levels and value as integers
over one common exponent. -/
def nearestCode (level : Nat → Int) (x : Int) : Nat :=
  (List.range 16).foldl (fun best c => if (level c - x).natAbs < (level best - x).natAbs then c else best) 0

/-- The largest finite FP32 magnitude (R64). -/
def maxFinite32 (neg : Bool) : Num := .fin neg 0xFFFFFF 104

/-- A NaN taken as 0, an infinity as the largest finite FP32 value of its sign (R86, R88). -/
def finiteOf : Num → Num
  | .nan _ _ => .zero
  | .inf s => maxFinite32 s
  | x => x

/-- `RoundTo` for the K4 format (R88): the nearest entry. -/
def roundK4 (tab : BitVec 128) (x : Num) : Nat :=
  let x := finiteOf x
  let e := min x.exp 0
  nearestCode (fun c => (k4Entry tab c) * 2 ^ (-e).toNat) (x.scaled e)

/-- A code of an integer format, as the low bits of the value. -/
def intCode (w : Nat) (i : Int) : Nat := (i % 2 ^ w).toNat

/-- `SatInt` (R70): the value in range, or the limit on its side with NV. -/
def satInt (w : Nat) (lo hi i : Int) (exact : Bool) : Nat × Flags :=
  if i < lo then (intCode w lo, flagNV)
  else if hi < i then (intCode w hi, flagNV)
  else (intCode w i, if exact then 0 else flagNX)

/-- `RoundTo(fmt, x, mode, dv)` (R69–R71, R75, R76, R80, R88): the code and the flags it sets. K4 has no NaN, so a NaN sets NV and
counts as 0. NQ4 is encoded by `nq4Encode`. [DEDUCED, log 31] -/
def roundTo (fmt : Nat) (tab : BitVec 128) (x : Num) (mode : Mode) : Nat × Flags :=
  match kindOf fmt with
  | .k4 =>
    let c := roundK4 tab x
    (c, (if x.isNaN then flagNV else 0) ||| (if (Num.ofInt (k4Entry tab c)).eqv (if x.isNaN then .zero else x) then 0 else flagNX))
  | .nq4 => (0, 0)
  | .int w lo hi =>
    match x with
    | .nan _ _ => (0, flagNV)
    | .inf s => (intCode w (if s then lo else hi), flagNV)
    | .fin s n e =>
      let (r, ex) := roundMult s n e 0 mode
      satInt w lo hi (if s then -(r : Int) else r) ex
  | .flt w m emin mx im pad =>
    match x with
    | .nan s f =>
      if fmt = 4 then (signMag w pad s 0x7F, 0)
      else if fmtHasNaN fmt then
        let g := f >>> (23 - m)
        (signMag w pad s ((im.getD 0) + (if g = 0 then 1 else g)), 0)
      else (0, flagNV)
    | .inf s =>
      match im with
      | some i => (signMag w pad s i, 0)
      | none => (signMag w pad s mx, flagOF ||| flagNX)
    | .fin s n e =>
      if n = 0 then (signMag w pad s 0, 0)
      else
        let qe := max (log2Of n e) emin - m
        let (r, ex) := roundMult s n e qe mode
        let mag := (qe - (emin - m)).toNat * 2 ^ m + r
        if mx < mag then (signMag w pad s (overflowMag s mx im mode), flagOF ||| flagNX)
        else
          (signMag w pad s mag,
            (if ex then 0 else flagNX) ||| (if !ex && decide (log2Of n e < emin) then flagUF else 0))

/-- FP32 value of a word, and a rounding into FP32. -/
def f32 (w : BitVec 32) : Num := valOf 0 0 w.toNat
def toF32 (x : Num) (mode : Mode) : BitVec 32 × Flags :=
  let (c, f) := roundTo 0 0 x mode
  (BitVec.ofNat 32 c, f)

def canonNaN : BitVec 32 := 0x7FC00000#32

/-- The sign of an exact zero sum (IEEE, R92): that of the operands when they agree, else negative only toward −∞. -/
def zeroSign (s t : Bool) (mode : Mode) : Bool := if s = t then s else decide (mode = .down)

/-- The exact sum of two finite values. -/
def addFin (a b : Num) (mode : Mode) : Num :=
  let e := min a.exp b.exp
  let i := a.scaled e + b.scaled e
  if i = 0 then .fin (if a.isZero && b.isZero then zeroSign a.neg? b.neg? mode else decide (mode = .down)) 0 e
  else .fin (decide (i < 0)) i.natAbs e

/-- The exact sum with the invalid case of R75: `none` for ∞ − ∞. -/
def addNum (a b : Num) (mode : Mode) : Option Num :=
  match a, b with
  | .inf s, .inf t => if s = t then some (.inf s) else none
  | .inf s, _ => some (.inf s)
  | _, .inf t => some (.inf t)
  | _, _ => some (addFin a b mode)

/-- The exact product: `none` for 0 × ∞. -/
def mulNum (a b : Num) : Option Num :=
  match a, b with
  | .fin s n e, .fin t m f => some (.fin (s != t) (n * m) (e + f))
  | _, _ => if a.isZero || b.isZero then none else some (.inf (a.neg? != b.neg?))

/-- The flag of a signalling operand (R75). -/
def signalFlag (xs : List Num) : Flags := if xs.any Num.isSignalling then flagNV else 0

/-- An FP32 arithmetic result (R72, R79): canonical NaN for a NaN operand or an invalid operation, else rounded. -/
def arith (ops : List Num) (r : Option Num) (mode : Mode) : BitVec 32 × Flags :=
  if ops.any Num.isNaN then (canonNaN, signalFlag ops)
  else match r with
    | none => (canonNaN, flagNV)
    | some x => toF32 x mode

def fAdd (a b : BitVec 32) (mode : Mode) : BitVec 32 × Flags :=
  arith [f32 a, f32 b] (addNum (f32 a) (f32 b) mode) mode
def fSub (a b : BitVec 32) (mode : Mode) : BitVec 32 × Flags :=
  arith [f32 a, f32 b] (addNum (f32 a) (f32 b).negate mode) mode
def fMul (a b : BitVec 32) (mode : Mode) : BitVec 32 × Flags :=
  arith [f32 a, f32 b] (mulNum (f32 a) (f32 b)) mode

/-- One fused multiply-add, the product and the addend negated as asked: one rounding. 0 × ∞ is invalid also
beside a NaN addend (R75). -/
def fFma (a b c : BitVec 32) (negP negC : Bool) (mode : Mode) : BitVec 32 × Flags :=
  let x := f32 a; let y := f32 b
  let z := if negC then (f32 c).negate else f32 c
  if x.isNaN || y.isNaN then (canonNaN, signalFlag [x, y, z])
  else match mulNum x y with
    | none => (canonNaN, flagNV)
    | some p => arith [z] (addNum (if negP then p.negate else p) z mode) mode

/-- Multiplication of a value by a power of two. -/
def Num.scale (x : Num) (k : Int) : Num :=
  match x with
  | .fin s n e => .fin s n (e + k)
  | y => y

/-- The FP32 value an element decodes to under a BX32 scale (R82), with the flags of an overflow. -/
def bx32Decode (fmt : Nat) (tab : BitVec 128) (scale : Byte) (c : Nat) : BitVec 32 × Flags :=
  if scale = 0xFF then (canonNaN, 0)
  else
    let v := if fmt = 12 then (valOf 12 tab c).scale (-6) else valOf fmt tab c
    toF32 (v.scale ((scale.toNat : Int) - 127)) .rne

/-- The Emax of a BX32 element format (R83). -/
def bx32Emax : Nat → Int
  | 4 => 8 | 5 => 15 | 6 => 4 | 7 => 2 | 8 => 2 | 10 => 7 | _ => 0

/-- The largest magnitude among the values that are no NaN; `none` when all are NaN. -/
def maxMagnitude (xs : List Num) : Option Num :=
  xs.foldl (fun acc x => if x.isNaN then acc else
    match acc with
    | none => some x.abs
    | some a => some (if a.lt x.abs then x.abs else a)) none

/-- `BX32Scale` (R83) from the block's values. -/
def bx32Scale (fmt : Nat) (xs : List Num) : Byte :=
  match maxMagnitude xs with
  | none => 0xFF
  | some (.inf _) => 254
  | some (.fin _ n e) =>
    if n = 0 then 0 else BitVec.ofInt 8 (max 0 (min 254 (log2Of n e - bx32Emax fmt + 127)))
  | some (.nan _ _) => 0xFF

/-- The code of one element under a chosen BX32 scale (R83). For K4 an infinity is the largest finite FP32 value before the scale
divides it (R88). -/
def bx32Encode (fmt : Nat) (tab : BitVec 128) (scale : Byte) (x : Num) (mode : Mode) : Nat × Flags :=
  let x := if fmt = 10 ∧ x.isInf = true then finiteOf x else x
  let y := x.scale (127 - (scale.toNat : Int))
  if fmt = 12 then roundTo 12 tab (y.scale 6) mode else roundTo fmt tab y mode

/-- NQ4's effective scale `S × (q + 1) / 256`, exact (R86). -/
def nq4Scale (s : BitVec 32) (q : Byte) : Num :=
  match f32 s with
  | .fin n m e => .fin n (m * (q.toNat + 1)) (e - 8)
  | y => y

/-- The FP32 value of an NQ4 code (R86). -/
def nq4Decode (s : BitVec 32) (q : Byte) (c : Nat) : BitVec 32 × Flags :=
  let l := nq4Level c
  match nq4Scale s q with
  | .nan _ _ => (canonNaN, 0)
  | .inf t => toF32 (.inf (t != decide (l < 0))) .rne
  | .fin t m e => toF32 (.fin (t != decide (l < 0)) (m * l.natAbs) (e - 12)) .rne

/-- The exact value of an NQ4 code, scales applied (R85, R86), as the sweep array takes it (R92). [DEDUCED, log 103] -/
def nq4Exact (s : BitVec 32) (q : Byte) (c : Nat) : Num :=
  let l := nq4Level c
  match nq4Scale s q with
  | .nan _ _ => .qnan
  | .inf t => .inf (t != decide (l < 0))
  | .fin t m e => .fin (t != decide (l < 0)) (m * l.natAbs) (e - 12)

/-- The exact value of a BX32-scaled code (R82), as the sweep array takes it (R92). [DEDUCED, log 103] -/
def bx32Exact (fmt : Nat) (tab : BitVec 128) (scale : Byte) (c : Nat) : Num :=
  if scale = 0xFF then .qnan
  else (if fmt = 12 then (valOf 12 tab c).scale (-6) else valOf fmt tab c).scale ((scale.toNat : Int) - 127)

/-- `NQ4Encode` (R86), with NX when the decoded value differs from the input; a NaN input, and a NaN that a NaN superscale decodes
to, count as differing. [DEDUCED, log 31] -/
def nq4Encode (s : BitVec 32) (q : Byte) (x : Num) : Nat × Flags :=
  let code := match nq4Scale s q with
    | .fin t m e =>
      if m = 0 then 8
      else
        let y := finiteOf x
        let ex := min y.exp (e - 12)
        let u : Int := Int.ofNat (shiftI m (e - 12 - ex))
        nearestCode (fun c => nq4Level c * (if t then -u else u)) (y.scaled ex)
    | _ => 8
  (code, if (f32 (nq4Decode s q code).1).eqv x then 0 else flagNX)

/-- The superscale of R87: the largest magnitude of the superblock. An INT32 cell that is no FP32 value is rounded by RNE, which sets no
flag. [DEDUCED, log 104] -/
def nq4Super (xs : List Num) : BitVec 32 :=
  match maxMagnitude xs with
  | none => canonNaN
  | some m => (toF32 m .rne).1

/-- The block code of R87: `Clamp(Ceil(256 × b / S) − 1, 0, 255)`, 0 for a block whose inputs are all NaN. [DESIGN CHOICE, log 127] -/
def nq4BlockCode (s : BitVec 32) (xs : List Num) : Byte :=
  match f32 s, maxMagnitude xs with
  | .inf _, some (.inf _) => 255
  | .fin _ 0 _, _ => 0
  | .fin _ n e, some (.fin _ m f) =>
    let ex := min e f
    let d := shiftI n (e - ex)
    let u := 256 * shiftI m (f - ex)
    BitVec.ofNat 8 (max 1 (min 256 ((u + d - 1) / d)) - 1)
  | _, _ => 0

/-- The FP32 value of a code as a conversion's source, with its scale when the format carries one (R80–R88). An FP32,
FP24, BF16, FP16 or FP8 NaN widens unquieted. -/
def widen (fmt : Nat) (tab : BitVec 128) (c : Nat) : BitVec 32 × Flags :=
  toF32 (valOf fmt tab c) .rne

/-! Special functions (R90). -/

/-- The integer square root, bit by bit from the top. -/
def isqrtAux (n : Nat) : Nat → Nat → Nat
  | 0, r => r
  | k + 1, r => let t := r + 2 ^ k; isqrtAux n k (if t * t ≤ n then t else r)
def isqrt (n : Nat) : Nat := isqrtAux n (Nat.log2 n / 2 + 1) 0

/-- A quotient or root with a last bit that is 1 when it is not exact, so that it rounds as the exact value does. -/
def sticky (neg : Bool) (n : Nat) (exact : Bool) (e : Int) : Num := .fin neg (2 * n + (if exact then 0 else 1)) (e - 1)

/-- 1/x for a finite non-zero value. -/
def rcpFin (s : Bool) (n : Nat) (e : Int) : Num :=
  let k := Nat.log2 n + 64
  sticky s (2 ^ k / n) (decide (2 ^ k % n = 0)) (-e - k)

/-- √x for a positive value. -/
def sqrtFin (n : Nat) (e : Int) : Num :=
  let (m, f) := if e % 2 = 0 then (n, e) else (2 * n, e - 1)
  let big := m <<< 128
  let r := isqrt big
  sticky false r (decide (r * r = big)) (f / 2 - 64)

/-- 1/√x for a positive value. -/
def rsqFin (n : Nat) (e : Int) : Num :=
  let (m, f) := if e % 2 = 0 then (n, e) else (2 * n, e - 1)
  let k := 2 * (Nat.log2 m + 64)
  let r := isqrt (2 ^ k / m)
  sticky false r (decide (r * r * m = 2 ^ k)) (-(f / 2) - k / 2)

/-- The fraction bits of the fixed-point enclosures below; their error is far below `2^fxErr`'s complement. -/
def fxBits : Nat := 224
/-- One enclosure's half width, in units of the last fraction bit: it bounds the truncations of every series. -/
def fxErr : Nat := 2 ^ 24

/-- Σ zⁱ/i! over `k` terms, fixed point. -/
def expSeries (z : Nat) : Nat → Nat → Nat → Nat → Nat
  | 0, _, _, acc => acc
  | k + 1, i, term, acc => let t := (term * z) >>> fxBits; let t := t / i; expSeries z k (i + 1) t (acc + t)
/-- Exponential of a fixed-point number below 1. -/
def fxExp (z : Nat) : Nat := expSeries z 70 1 (2 ^ fxBits) (2 ^ fxBits)

/-- Σ z^(2i+1)/(2i+1), fixed point: the inverse hyperbolic tangent of a number of at most one third. -/
def atanhSeries (z2 : Nat) : Nat → Nat → Nat → Nat → Nat
  | 0, _, _, acc => acc
  | k + 1, i, pw, acc => let p := (pw * z2) >>> fxBits; atanhSeries z2 k (i + 2) p (acc + p / i)
def fxAtanh (z : Nat) : Nat := atanhSeries ((z * z) >>> fxBits) 80 3 z z
/-- ln 2 = 2 atanh(1/3). -/
def fxLn2 : Nat := 2 * fxAtanh (2 ^ fxBits / 3)

/-- A result known to lie between two magnitudes over one exponent. The half width is far below the distance of any FP32 operand's
result from a rounding boundary. -/
structure Enclosure where
  neg : Bool
  lo : Nat
  hi : Nat
  e : Int

/-- The correctly rounded result (R90): the rounding both ends agree on, which is that of the middle. [DEDUCED, log 3] -/
def Enclosure.round (r : Enclosure) : BitVec 32 × Flags := toF32 (.fin r.neg (r.lo + r.hi) (r.e - 1)) .rne

/-- e^y for a fixed-point y: the power of two and the fixed-point mantissa. -/
def fxExpSplit (y : Nat) : Nat × Nat :=
  let l := fxLn2
  let k := y / l
  (k, fxExp (y - k * l))

/-- A magnitude `n × 2^e` in fixed point, exact for every FP32 value below 2^128. -/
def toFx (n : Nat) (e : Int) : Nat := shiftI n (e + fxBits)

/-- 2^x for a finite x. -/
def exp2Fin (s : Bool) (n : Nat) (e : Int) : BitVec 32 × Flags :=
  if n = 0 then toF32 (.fin false 1 0) .rne
  else if 9 ≤ log2Of n e then toF32 (.fin false 1 (if s then -1000 else 1000)) .rne
  else
    let y := toFx n e
    let one := 2 ^ fxBits
    let k : Int := if s then -(((y + one - 1) / one : Nat) : Int) else ((y / one : Nat) : Int)
    let f : Nat := ((if s then -(y : Int) else (y : Int)) - k * one).toNat
    if f = 0 then toF32 (.fin false 1 k) .rne
    else
      let v := fxExp ((f * fxLn2) >>> fxBits)
      Enclosure.round { neg := false, lo := v - fxErr, hi := v + fxErr, e := k - fxBits }

/-- log₂ x for a positive finite x. -/
def log2Fin (n : Nat) (e : Int) : BitVec 32 × Flags :=
  let k := log2Of n e
  let one := 2 ^ fxBits
  let m := shiftI n ((fxBits : Int) - Nat.log2 n)
  if m = one then toF32 (Num.ofInt k) .rne
  else
    let z := ((m - one) <<< fxBits) / (m + one)
    let l := ((2 * fxAtanh z) <<< fxBits) / fxLn2
    let v : Int := k * one + l
    Enclosure.round { neg := decide (v < 0), lo := v.natAbs - fxErr, hi := v.natAbs + fxErr, e := -fxBits }

/-- tanh |x| for a finite non-zero x. -/
def tanhFin (s : Bool) (n : Nat) (e : Int) : BitVec 32 × Flags :=
  if log2Of n e < -40 then toF32 (.fin s (n * 2 ^ 64 - 1) (e - 64)) .rne
  else if 4 ≤ log2Of n e then toF32 (.fin s (2 ^ 64 - 1) (-64)) .rne
  else
    let one := 2 ^ fxBits
    let (k, m) := fxExpSplit (2 * toFx n e)
    let ex := m <<< k
    let v := ((ex - one) <<< fxBits) / (ex + one)
    Enclosure.round { neg := s, lo := v - fxErr, hi := v + fxErr, e := -fxBits }

/-- 1/(1 + e^(−x)) for a finite x. -/
def sigmFin (s : Bool) (n : Nat) (e : Int) : BitVec 32 × Flags :=
  if n = 0 then toF32 (.fin false 1 (-1)) .rne
  else if 7 ≤ log2Of n e then
    toF32 (if s then .fin false 1 (-1000) else .fin false (2 ^ 64 - 1) (-64)) .rne
  else
    let one := 2 ^ fxBits
    let (k, m) := fxExpSplit (toFx n e)
    let ex := m <<< k
    if s then
      let q := (2 ^ (2 * fxBits + k)) / (ex + one)
      Enclosure.round { neg := false, lo := q - fxErr, hi := q + fxErr, e := -(fxBits : Int) - k }
    else
      let q := (ex <<< fxBits) / (ex + one)
      Enclosure.round { neg := false, lo := q - fxErr, hi := q + fxErr, e := -fxBits }

/-- The special functions of R90, numbered as the opcode map numbers them from `VEXP2` (R112). -/
def specialFn (fn : Nat) (w : BitVec 32) : BitVec 32 × Flags :=
  let x := f32 w
  let invalid := (canonNaN, flagNV)
  let inf (s : Bool) (f : Flags) := (if s then 0xFF800000#32 else 0x7F800000#32, f)
  match x with
  | .nan _ _ => (canonNaN, signalFlag [x])
  | .inf s =>
    match fn with
    | 0 => if s then (0, 0) else inf false 0
    | 1 => if s then invalid else inf false 0
    | 2 => (if s then 0x80000000#32 else 0, 0)
    | 3 => if s then invalid else (0, 0)
    | 4 => if s then invalid else inf false 0
    | 5 => (if s then 0xBF800000#32 else 0x3F800000#32, 0)
    | _ => (if s then 0 else 0x3F800000#32, 0)
  | .fin s n e =>
    match fn with
    | 0 => exp2Fin s n e
    | 1 => if n = 0 then inf true flagDZ else if s then invalid else log2Fin n e
    | 2 => if n = 0 then inf s flagDZ else toF32 (rcpFin s n e) .rne
    | 3 => if n = 0 then inf s flagDZ else if s then invalid else toF32 (rsqFin n e) .rne
    | 4 => if n = 0 then (w, 0) else if s then invalid else toF32 (sqrtFin n e) .rne
    | 5 => if n = 0 then (w, 0) else tanhFin s n e
    | _ => sigmFin s n e

end Sys2Proof.Machine
end

