-- ==== Sys2Proof/Machine/Flags.lean ====
section
/-!
DEFINITION. Conditions and floating-point flags: the six comparison conditions of R140, the FP32 comparisons of R179 and
R183, and which enabled flag a vector instruction traps on (R77).
-/
namespace Sys2Proof.Machine

/-- The conditions of R140, on operands of any width. -/
def cond {w : Nat} (cc : Nat) (a b : BitVec w) : Bool :=
  match cc with
  | 0 => a == b
  | 1 => a != b
  | 2 => a.slt b
  | 3 => !a.slt b
  | 4 => a.ult b
  | _ => !a.ult b

/-- The FP32 conditions and their flag (R183). -/
def condF32 (cc : Nat) (a b : BitVec 32) : Bool × Flags :=
  let x := f32 a
  let y := f32 b
  let anyNaN := x.isNaN || y.isNaN
  let sig := signalFlag [x, y]
  match cc with
  | 0 => (x.eqv y, sig)
  | 1 => (!x.eqv y, sig)
  | 2 => (!anyNaN && x.lt y, if anyNaN then flagNV else sig)
  | _ => (!anyNaN && !x.lt y, if anyNaN then flagNV else sig)

/-- The total-order key of R59. -/
def fkey (f : BitVec 32) : BitVec 32 := if f.getLsbD 31 then ~~~f else f + 0x80000000#32

/-- FP32 minimum and maximum (R179): numeric order with −0 below +0, the canonical NaN for a NaN operand. -/
def minMaxF32 (wantMax : Bool) (a b : BitVec 32) : BitVec 32 × Flags :=
  let x := f32 a
  let y := f32 b
  if x.isNaN || y.isNaN then (canonNaN, signalFlag [x, y])
  else
    let bIsLess := (fkey b).ult (fkey a)
    (if bIsLess != wantMax then b else a, 0)

/-- The lowest-numbered flag of a set: the subcode of R77. -/
def lowestFlag (f : Flags) : Nat :=
  if f.getLsbD 0 then 0 else if f.getLsbD 1 then 1 else if f.getLsbD 2 then 2 else if f.getLsbD 3 then 3 else 4

/-- The trap enables of `FPCTL` (R31). -/
def trapEnables (fpctl : Word) : Flags := fpctl.extractLsb' 16 5

/-- The flag trap of R77, given each element's flags in element order: the cause and `TVAL`, or none when no enabled flag is
raised. -/
def flagTrap (en : Flags) (fs : List (Nat × Flags)) : Option (Nat × Word) :=
  let all := fs.foldl (fun a f => a ||| f.2) 0 &&& en
  if all = 0 then none
  else
    match fs.find? (fun f => decide (f.2 &&& en ≠ 0)) with
    | some (i, f) => some (0x40 + lowestFlag all, BitVec.ofNat 64 (i % 64 + (f &&& en).toNat * 0x10000))
    | none => none

end Sys2Proof.Machine
end

