-- ==== Sys2Proof/Machine/Lattice.lean ====
section
/-!
DEFINITION. Lattice lines: bottoms and top values (R60), the join (R59), the lift of one element to a line (R209), and the
answers of threshold reads (R61, R219).
-/
namespace Sys2Proof.Machine

/-- The type of a code of R109. -/
def latOfCode : Nat → LatType
  | 0 => .maxu | 1 => .minu | 2 => .maxf | 3 => .or | 4 => .cnt | 5 => .maxkv | 6 => .fill1 | _ => .span
def latCode : LatType → Nat
  | .maxu => 0 | .minu => 1 | .maxf => 2 | .or => 3 | .cnt => 4 | .maxkv => 5 | .fill1 => 6 | .span => 7

/-- The element width in bits of a width code (R55); the whole line for FILL1. -/
def latWidth (t : LatType) (wc : Nat) : Nat := if t = .fill1 then 1024 else 8 <<< wc

/-- The bottom of one element (R60). -/
def bottomElem (t : LatType) (w : Nat) : Nat :=
  match t with
  | .minu => 2 ^ w - 1
  | .maxf => 0xFFFFFFFF
  | .span => 0x800000007FFFFFFF
  | _ => 0
/-- The top value of one element (R60); FILL1 has none. -/
def topElem (t : LatType) (w : Nat) : Option Nat :=
  match t with
  | .minu => some 0
  | .maxf => some 0x7FFFFFFF
  | .span => some 0x7FFFFFFF80000000
  | .fill1 => none
  | _ => some (2 ^ w - 1)

/-- The elements of a line, lowest first. -/
def lineElems (w : Nat) (d : BitVec 1024) : List Nat := (List.range (1024 / w)).map fun i => d.toNat / 2 ^ (w * i) % 2 ^ w
/-- A line from its elements. -/
def lineOfElems (w : Nat) : List Nat → Nat
  | [] => 0
  | e :: r => e + 2 ^ w * lineOfElems w r

/-- A line whose every element is the same. -/
def splat (w e : Nat) : BitVec 1024 := BitVec.ofNat 1024 (lineOfElems w (List.replicate (1024 / w) e))
/-- A line at bottom (R60). -/
def bottomLine (t : LatType) (wc : Nat) : BitVec 1024 := splat (latWidth t wc) (bottomElem t (latWidth t wc))

/-- The join of one element (R59). -/
def joinElem (t : LatType) (w a b : Nat) : Nat :=
  match t with
  | .maxu | .maxkv => max a b
  | .minu => min a b
  | .maxf => if (fkey (BitVec.ofNat 32 a)).ult (fkey (BitVec.ofNat 32 b)) then b else a
  | .or => a ||| b
  | .cnt => min (a + b) (2 ^ w - 1)
  | .span =>
    let lo := min (signedOf 32 a) (signedOf 32 b)
    let hi := max (signedOf 32 (a / 2 ^ 32)) (signedOf 32 (b / 2 ^ 32))
    intCode 32 lo + 2 ^ 32 * intCode 32 hi
  | .fill1 => b

/-- A lattice line's state (R59). -/
structure LatLine where
  data : BitVec 1024
  filled : Bool
  top : Bool
  deriving DecidableEq, Repr

/-- The line's data with every element joined. -/
def joinData (t : LatType) (w : Nat) (a b : BitVec 1024) : BitVec 1024 :=
  BitVec.ofNat 1024 (lineOfElems w (List.zipWith (joinElem t w) (lineElems w a) (lineElems w b)))

/-- `Join` (R59) of data into a line state. -/
def latJoin (t : LatType) (wc : Nat) (l : LatLine) (d : BitVec 1024) : LatLine :=
  if l.top then l
  else if t = .fill1 then
    if !l.filled then { l with data := d, filled := true }
    else if l.data ≠ d then { l with top := true }
    else l
  else
    let w := latWidth t wc
    let n := joinData t w l.data d
    { l with data := n, top := decide (some n = (topElem t w).map (splat w)) }

/-- `Lift` (R209): a register's value as one element of a line of bottoms. -/
def liftElem (t : LatType) (wc i : Nat) (v : Word) : BitVec 1024 :=
  if t = .fill1 then v.setWidth 1024
  else
    let w := latWidth t wc
    BitVec.ofNat 1024 (lineOfElems w ((List.range (1024 / w)).map fun j => if j = i then v.toNat % 2 ^ w else bottomElem t w))

/-- The element index of an address in its line (R209). -/
def elemIndex (t : LatType) (wc : Nat) (va : Word) : Nat := if t = .fill1 then 0 else va.toNat % 128 * 8 / latWidth t wc

/-- One element of a line. -/
def lineElem (t : LatType) (wc i : Nat) (d : BitVec 1024) : Nat := d.toNat / 2 ^ (latWidth t wc * i) % 2 ^ latWidth t wc

/-- `Passed` (R61) with trigger `t_k`, lifted. -/
def passed (t : LatType) (wc : Nat) (l : LatLine) (trig : BitVec 1024) : Bool :=
  match t with
  | .fill1 => l.filled
  | .cnt => (List.zipWith (fun a b => decide (b ≤ a)) (lineElems (latWidth t wc) l.data) (lineElems (latWidth t wc) trig)).all id
  | _ => decide ((latJoin t wc l trig).data = l.data)

/-- `Answer` (R219): the code of a threshold read, or none while undecided. -/
def answer (t : LatType) (wc i : Nat) (trigs : List Word) (l : LatLine) (frozen : Bool) : Option Nat :=
  if l.top || (topElem t (latWidth t wc) == some (lineElem t wc i l.data)) then some 4
  else
    match (List.range trigs.length).find? fun k => passed t wc l (liftElem t wc i (trigs.getD k 0)) with
    | some k => some k
    | none => if frozen then some 5 else none

/-- The trigger check of R218: `TVAL` of the trap, or none. -/
def triggerFault (t : LatType) (wc i : Nat) (trigs : List Word) : Option Nat :=
  if t = .or ∨ t = .span then
    let n := trigs.length
    let pairs := (List.range n).flatMap fun j => ((List.range n).filter (j < ·)).map fun k => (j, k)
    (pairs.find? fun p =>
      let a := liftElem t wc i (trigs.getD p.1 0)
      let b := liftElem t wc i (trigs.getD p.2 0)
      decide (some (lineElem t wc i (joinData t (latWidth t wc) a b)) ≠ topElem t (latWidth t wc))).map fun p => 0x100 * p.2 + p.1
  else if trigs.length = 1 then none else some trigs.length

end Sys2Proof.Machine
end

