-- ==== Sys2Proof/Machine/Operands.lean ====
section
/-!
DEFINITION. Operand forms (R100, R101, R173, R174): sign-extended immediates, branch offsets, the packed elements of a vector
register and its element masks.
-/
namespace Sys2Proof.Machine

/-- A sign-extended immediate (R101). -/
def imm {w : Nat} (i : BitVec w) : Word := i.signExtend 64

/-- A branch offset in words (R101). -/
def wordOffset {w : Nat} (o : BitVec w) : Word := imm o * 4#64

/-- The form M address: `x(a) + SignExtend(imm11) × size` (R101). -/
def memAddr (base : Word) (i : BitVec 11) (size : Nat) : Word := base + imm i * BitVec.ofNat 64 size

/-- A vector register's contents (R24). -/
abbrev VReg := BitVec 2048

/-- The packed element `j` of width `w` (R173). -/
def velem (v : VReg) (w j : Nat) : BitVec w := v.extractLsb' (w * j) w

/-- The `k` packed elements of width `w`, lowest first. -/
def velems (v : VReg) (w k : Nat) : List (BitVec w) := (List.range k).map (velem v w)

/-- A register from its packed elements, lowest first. -/
def vpackList {w : Nat} : List (BitVec w) → Nat
  | [] => 0
  | e :: r => e.toNat + 2 ^ w * vpackList r
def vofList {w : Nat} (es : List (BitVec w)) : VReg := BitVec.ofNat 2048 (vpackList es)

/-- Writes the packed element `j` of width `w`; the others are kept. -/
def vset (v : VReg) (w j : Nat) (e : BitVec w) : VReg :=
  let field : VReg := (BitVec.allOnes w).setWidth 2048 <<< (w * j)
  (v &&& ~~~field) ||| (e.setWidth 2048 <<< (w * j))

/-- Whether element `j` is active (R174): every element under mask 0, else bit `j` of the mask register. -/
def activeBit (pm : BitVec 3) (mask : VReg) (j : Nat) : Bool := pm == 0 || mask.getLsbD j

/-- The element width of a type code of R111 (0–2 signed, 3–5 unsigned, 6 FP32) and of R110. -/
def typeWidth : Nat → Nat
  | 0 | 3 | 6 => 32
  | 1 | 4 => 16
  | _ => 8

/-- A 1,024-bit line from a value at a byte offset, and back. -/
def lineBytes (l : BitVec 1024) (off n : Nat) : Nat := (l.toNat >>> (8 * off)) % 2 ^ (8 * n)

end Sys2Proof.Machine
end

