-- ==== Sys2Proof/Machine/Map.lean ====
section
/-!
DEFINITION. Finite maps from addresses or indexes to data, as lists sorted by key, and memory as the canonical list of
the bytes that differ from the reset contents 0 (R367).
-/
namespace Sys2Proof.Machine

/-- A finite map: keys strictly rising. -/
abbrev Map (α : Type) := List (Nat × α)

/-- The value listed at a key. -/
def mget? {α : Type} : Map α → Nat → Option α
  | [], _ => none
  | (k, v) :: r, i => if k = i then some v else mget? r i

/-- The value at a key, or the default. -/
def mget {α : Type} (d : α) (m : Map α) (i : Nat) : α := (mget? m i).getD d

/-- Lists a value at a key. -/
def mput {α : Type} : Map α → Nat → α → Map α
  | [], i, a => [(i, a)]
  | (k, v) :: r, i, a =>
    if i < k then (i, a) :: (k, v) :: r
    else if k = i then (i, a) :: r
    else (k, v) :: mput r i a

/-- Unlists a key. -/
def mdel {α : Type} : Map α → Nat → Map α
  | [], _ => []
  | (k, v) :: r, i => if k = i then r else (k, v) :: mdel r i

/-- Byte memory: what differs from the power-up contents, zero (R367). -/
abbrev Memory := List Host.Cell

/-- What an unlisted address reads as: device memory is initialised to 0 at power-up (R367). -/
def memDefault : Byte := 0

/-- The byte at an address. -/
def Memory.read (m : Memory) (a : Nat) : Byte := mget memDefault m a

/-- Writes one byte, keeping the canonical form: a byte equal to the default is unlisted. -/
def Memory.write (m : Memory) (a : Nat) (b : Byte) : Memory := if b = memDefault then mdel m a else mput m a b

/-- Keys above a bound, strictly rising. -/
def risingFrom {α : Type} : Nat → Map α → Bool
  | _, [] => true
  | n, (k, _) :: r => decide (n ≤ k) && risingFrom (k + 1) r

/-- The canonical form: strictly rising addresses, no byte equal to the default. -/
def Memory.wf (m : Memory) : Bool := risingFrom 0 m && m.all (fun c => decide (c.2 ≠ memDefault))

/-- `n` bytes from an address, little-endian (R7): each listed byte at its place. -/
def Memory.readN (m : Memory) (a n : Nat) : Nat :=
  match m with
  | [] => 0
  | (k, b) :: r =>
    if k < a then Memory.readN r a n
    else if k < a + n then b.toNat * 256 ^ (k - a) + Memory.readN r a n
    else 0

/-- The low `n` bytes of a value as memory from an address on, little-endian (R7). -/
def Memory.ofBytes (a : Nat) : Nat → Nat → Memory
  | 0, _ => []
  | n + 1, v =>
    if v = 0 then []
    else if BitVec.ofNat 8 v = memDefault then Memory.ofBytes (a + 1) n (v / 256)
    else (a, BitVec.ofNat 8 v) :: Memory.ofBytes (a + 1) n (v / 256)

/-- Writes the low `n` bytes of a value, little-endian (R7). -/
def Memory.writeN (m : Memory) (a n v : Nat) : Memory :=
  m.filter (fun c => decide (c.1 < a)) ++ Memory.ofBytes a n v ++ m.filter (fun c => decide (a + n ≤ c.1))

end Sys2Proof.Machine
end

