-- ==== Sys2Proof/Machine/State.lean ====
section
/-!
DEFINITION. Everything the manual gives the machine, as plain data: contexts, crews, dies, device memory with its
line metadata and caches, and the package. The agenda `events` lists the machine's own pending events, oldest first.
-/
namespace Sys2Proof.Machine

/-- Why the machine stops. -/
inductive Fault where
  /-- Raised by an event that names a crew, slice, link or launch slot the part does not have. Safe: no such unit exists. -/
  | noSuchUnit
  deriving DecidableEq, Repr

/-- Why an instruction has no meaning. -/
inductive Refusal where
  /-- Raised by the dispatch for an instruction that is not modelled yet. Safe: nothing is claimed of it. -/
  | notModelled (mnemonic : String)
  deriving DecidableEq, Repr

/-- The states of a context (R18). -/
inductive CState where
  | free | active | stalled | handler | blocked
  deriving DecidableEq, Repr

/-- What a STALLED context waits for (R18), or what an ACTIVE or HANDLER context waits for before its instruction is accepted
(R167, R199). -/
inductive Wait where
  /-- `TREAD` or `TWAIT`: an answer of the watch (R220). -/
  | answer
  /-- Stores and joins counted at their homes as a `FENCE` of scope PKG awaits them: a park or `DONE` (R42, R231). -/
  | stores
  /-- The same drain of a `SPAWN` (R278). -/
  | spawned
  /-- Every store and join counted or resolved, writes to host memory too: `HALT`, `SIGNAL`, an atomic or a releasing join (R161, R208,
  R214, R283). -/
  | settled
  /-- A line whose busy bit a held join keeps (R327, R374). -/
  | line (l : Nat)
  /-- An answer of another package (R199, R434). -/
  | reply
  /-- The end of a domain change, while which the crew holds its requests (R365). -/
  | requests
  /-- The close of the tag that the next `FENCE` takes up (R380). -/
  | tagOpen
  /-- The end of a task, cancelled or faulted: the drain of its stores and joins (R49), and room in the splits buffer for the record of its
  stop (R327). -/
  | retiring (faulted : Bool)
  /-- The close answers of a `FENCE` (R229, R380). -/
  | fence
  /-- `FENCE` of scope SYS: writes to host memory acknowledged (R229). -/
  | hostAcks
  /-- `VSYNC`: vector commands complete (R171). -/
  | vector
  /-- `WAITC` (R233). -/
  | counters (loads stores copies demands : Nat)
  /-- `COLL`: the crew's round of a slot completes (R274). -/
  | collective (slot : Nat)
  /-- `COLLW`: the task's own last round of a slot completes (R275). -/
  | ownRound (slot : Nat)
  /-- A tile slot of a crew becomes READY (R238). -/
  | slot (crew n : Nat)
  /-- A step of a demand, which is an event of its own (R256, R338). -/
  | step
  /-- A full thunk table whose every candidate is FAULTED (R346), or a forced node of another task that is FAULTED (R349). -/
  | faulted (crew n : Nat)
  /-- No tile-table entry or no space in the bank (R239). -/
  | alloc
  /-- A full pinned-continuation store (R44). -/
  | pinFull
  /-- A full copy queue, or a seat with 128 copies in flight (R266). -/
  | queueFull (q : Nat)
  /-- The task's copies, write-outs and collective rounds (R280). -/
  | engines
  /-- `CSRW` of `HASHCTL` (R365). -/
  | domain
  /-- `FREEZE` between two of its lines (R225, R226). -/
  | freezing
  /-- A full thunk table whose every candidate is FAULTED (R346). -/
  | tableFull
  /-- A ready queue and spill region that are full, for a spawn (R319). -/
  | readyFull
  deriving DecidableEq, Repr

/-- One hardware loop (R26, R146). -/
structure Loop where
  ls : Word
  le : Word
  lc : Word
  deriving DecidableEq, Repr

/-- The trap CSRs (R28, R386, R393). -/
structure TrapRegs where
  tstatus : Word
  tcause : Word
  tval : Word
  tepc : Word
  tdpc : Word
  tscratch : Word
  deriving DecidableEq, Repr

/-- The floating-point and table CSRs (R31, R32, R88). -/
structure FpRegs where
  fpctl : Word
  fpflags : Word
  k4lo : Word
  k4hi : Word
  deriving DecidableEq, Repr

/-- Outstanding operations (R29). -/
structure Ocnt where
  loads : Nat
  stores : Nat
  copies : Nat
  demands : Nat
  deriving DecidableEq, Repr

/-- The fence status accumulator (R230): failures by kind. -/
structure Failures where
  lost : Nat
  refused : Nat
  poisoned : Nat
  timedout : Nat
  deriving DecidableEq, Repr

/-- A vector command in a context's queue (R162, R170): the flags it will raise and what it counts in `OCNT`. -/
structure VCmd where
  flags : BitVec 5
  isLoad : Bool
  deriving DecidableEq, Repr

/-- The map of a tile handle (R242, R397): its kind, parameter and captured index handle. -/
structure TMap where
  kind : Nat
  param : Word
  index : BitVec 32
  deriving DecidableEq, Repr

/-- A context's writes under one tag (R379, R380): how many were sent and how many are counted, which is the sum over the arrival tables
of their homes; and the homes they went to, slices of the package and participating packages. -/
structure TagCount where
  sent : Nat
  arrived : Nat
  homes : BitVec 128 := 0
  pkgs : BitVec 63 := 0
  deriving DecidableEq, Repr

/-- What made a unit write (R230): an instruction, under its tag; a copy of a queue; a `TSTORE` write-out; or the
result of a collective round (R275). -/
inductive WriteBy where
  | store (tag : Nat)
  | copy (q : Nat)
  | writeOut
  | result (slot : Nat)
  deriving DecidableEq, Repr

/-- An entry of a home's arrival table (R379): the home, 0–127 a slice of the package, 128–190 a participating package, 191 where no home
counts; the source and tag; the writes counted; those whose counts are still to be returned, with their failures; `clock` at the latest; and
its place in the home's overflow region. -/
structure Arrival where
  home : Nat
  ctx : CtxId
  tag : Nat
  count : Nat
  pending : Nat
  fails : Failures
  since : Nat
  spill : Option Nat
  deriving DecidableEq, Repr

/-- Accepted unit writes of one instruction or engine beat that are not yet counted (R199, R229, R268): the context and record they
count for, none when the task has ended; whether an instruction's count goes under its tag; how many are held by a slice or travel on the links, and how many the host has yet
to acknowledge; the failures so far; and `clock` at their acceptance. `id` numbers the step that made them, with the crew of a collective's result. -/
structure Owed where
  id : Nat
  ctx : CtxId
  record : Option Word
  maker : WriteBy
  tagged : Bool
  parts : Nat
  host : Nat
  fails : Failures
  since : Nat
  /-- The home whose arrival table counts an instruction (R379). -/
  home : Nat := 191
  deriving DecidableEq, Repr

/-- What crosses the links to another package for a request of this one (R207, R232, R434, R437). -/
inductive Cargo where
  /-- Bits of a line under a mask. -/
  | write (data mask : BitVec 1024)
  | join (j : JoinMsg)
  | atomic (a : AtomicMsg)
  /-- A read of the line. -/
  | read
  deriving DecidableEq, Repr

/-- A request on its way to another package (R232, R437): its number, the entry it counts under, its line and virtual address, and
what it carries. -/
structure Flying where
  id : Nat
  owed : Option Nat
  line : Nat
  va : Nat
  cargo : Cargo
  deriving DecidableEq, Repr

/-- What a context has heard of a line or an atomic that it asked another package for (R196, R207, R434): nothing yet, the line as the
request found it, or the reason why there is no answer. -/
inductive Answer where
  | pending
  | data (d : BitVec 1024)
  | failed (reason : Nat)
  deriving DecidableEq, Repr

/-- An answer of another package to an instruction that has not reached its acceptance point (R199): the context as 32 × crew + context,
the line and the request's number. -/
structure Reply where
  reader : Nat
  line : Nat
  id : Nat
  answer : Answer
  since : Nat
  deriving DecidableEq, Repr

/-- A join that a slice holds because the splits buffer that must record it is full (R327): the agent, the line, and the entry it
counts under. -/
structure HeldJoin where
  agent : Nat
  line : Nat
  join : JoinMsg
  owed : Option Nat
  deriving DecidableEq, Repr

/-- An answer owed to a vector load of poisoned data (R206): the address of the lowest poisoned element. -/
abbrev PoisonMark := Option Word

/-! Tiles, nodes and engines. -/

/-- The states of an allocated tile slot (R236). -/
inductive TState where
  | empty | filling | ready | draining
  deriving DecidableEq, Repr

/-- An entry of a crew's tile table (R236) with the slot's content (R356): 64 rows of 64 codes, each code in a 32-bit
position, and the scales beside them. -/
structure Tile where
  alloc : Bool
  st : TState
  gen : BitVec 12
  /-- The owning task's record; 0 when the launch owns the slot (R281). -/
  owner : Word
  launch : BitVec 32
  bank : Nat
  /-- The offset in the bank, in KiB. -/
  off : Nat
  mask : BitVec 16
  rows : Map (BitVec 2048)
  /-- The X bytes of half-rows at 2r and 2r + 1, or the q bytes of rows. -/
  scales : Map Nat
  super : BitVec 32
  /-- Elements 64r + c in a poisoned word (R403), and 4096 + the number of each poisoned word of scales (R356). -/
  bad : List Nat
  deriving DecidableEq, Repr

/-- An entry that never was allocated. -/
def Tile.fresh : Tile where
  alloc := false
  st := .empty
  gen := 0
  owner := 0
  launch := 0
  bank := 0
  off := 0
  mask := 0
  rows := []
  scales := []
  super := 0
  bad := []

/-- An input of a node (R328, R329): the handle, the register it was read from and its captured map. -/
structure NodeIn where
  handle : BitVec 32
  reg : Nat
  map : TMap
  deriving DecidableEq, Repr

/-- The states of a node entry that is not FREE (R330). -/
inductive NState where
  | live | eval | faulted
  deriving DecidableEq, Repr

/-- A node of the thunk table (R328). -/
structure Node where
  word : BitVec 32
  cpc : Word
  cno : Nat
  ctx : CtxId
  record : Word
  serial : BitVec 32
  launch : BitVec 32
  out : BitVec 32
  outReg : Nat
  ins : Map NodeIn
  xa : Word
  tsh : Vector Word 8
  k4 : BitVec 128
  fpctl : Word
  mprog : Word
  mask : BitVec 16
  st : NState
  /-- The group in flight: its first sub-tile, the steps done and its kind (R339, R353). -/
  sub : Nat
  step : Nat
  group : Nat
  flags : BitVec 5
  cause : Nat
  /-- The source range: first byte and the byte after the last (R348). -/
  range : Option (Nat × Nat)
  /-- Exact values of a widened group's completed steps, in its staging buffer (R339). -/
  stage : Map Num
  staged : Bool
  /-- The staging buffer it holds (R339). -/
  buf : Nat := 0
  /-- The context whose demand evaluates the node (R330). -/
  demand : Option CtxId
  /-- The demands that have evaluated steps of the node and not yet completed (R78): each a context, and whether it forces the node. -/
  evaluators : List (CtxId × Bool)
  /-- A fault found for another task's demand (R346), with its `TVAL`, until the owner returns to task mode after its trap. -/
  owed : Option Word
  /-- That fault has been delivered to the owner. -/
  told : Bool
  /-- A shoot-down aborted a step of the node, and no demand has met that fault yet (R402). -/
  aborted : Bool
  deriving DecidableEq, Repr

/-- One end of a copy (R267). -/
inductive Endpoint where
  | global (va : Nat)
  | tile (handle : BitVec 32)
  deriving DecidableEq, Repr

/-- The bytes of one destination line of a tile written to memory: the line's virtual and physical addresses, and the line's
data under a bit mask. -/
structure Piece where
  va : Nat
  pa : Nat
  data : Nat
  mask : Nat
  /-- The line lies in a page with EX = 1 of the ordinary kind (R361), and in a host-bias page (R407). -/
  ex : Bool
  hb : Bool
  /-- The line's offset in the system bank, in a page that maps it (R359). -/
  bank : Option Nat
  /-- The line lies in a system page, which alone may map the control space and never maps host memory (R414, R420). -/
  sysPage : Bool := false
  deriving DecidableEq, Repr

/-- An entry of a copy queue (R266–R271). -/
structure CopyEntry where
  /-- A fence entry: the queues it joins and its number; none for a copy. -/
  fence : Option (BitVec 4 × Nat)
  mm : Bool
  dst : Endpoint
  src : Endpoint
  total : Nat
  done : Nat
  pc : Word
  tsh : Vector Word 8
  fpctl : Word
  k4 : BitVec 128
  flags : BitVec 5
  /-- The lines of a copy out of a tile that are still to be written, in order. -/
  out : List Piece
  /-- The source values read so far by a copy into a scaled tile. -/
  stage : Map Num
  /-- What a copy from a tile puts into a tile. -/
  result : Option Tile
  /-- The poisoned elements of a tile source: the beat each one fails, by its destination line or by its number, and the `TVAL` of
  that halt (R270). -/
  poison : List (Nat × Word)
  /-- The passes of a `CPYMM` follow-on that are done (R344), and whether it holds a staging buffer. -/
  pass : Nat
  staged : Bool
  buf : Nat := 0
  fout : BitVec 32
  /-- The other operands of a `CPYMM` follow-on (R269): FREG's and ACCREG's handles; 0 for none. -/
  freg : BitVec 32
  facc : BitVec 32
  /-- Issued in system mode. -/
  sys : Bool
  deriving DecidableEq, Repr

/-- A copy queue (R266, R270). -/
structure CopyQueue where
  entries : List CopyEntry
  halted : Bool
  aborted : Bool
  reason : Nat
  va : Word
  /-- The halt has been delivered as a trap (R394). -/
  told : Bool
  deriving DecidableEq, Repr

/-- An empty queue. -/
def CopyQueue.fresh : CopyQueue where
  entries := []
  halted := false
  aborted := false
  reason := 0
  va := 0
  told := false

/-- A `TSTORE` write-out under way (R254): the context, the physical pieces left to write and the conversion's flags. -/
structure WriteOut where
  ctx : CtxId
  record : Word
  pc : Word
  pieces : List Piece
  flags : BitVec 5
  deriving DecidableEq, Repr

/-- A crew's round of a collective slot (R274, R275): the task that contributes to it, and the tasks whose own last round before it was
bad and has not trapped yet. -/
structure CollSlot where
  launch : Nat
  round : Nat
  busy : Bool
  bad : Bool
  failed : List Word
  bc : Bool
  ctx : CtxId
  record : Word
  dst : Word
  pc : Word
  deriving DecidableEq, Repr

/-- A task context: the whole register state of one task and its bookkeeping (R21, R28, R395). -/
structure Ctx where
  st : CState
  wait : Option Wait
  halted : Bool
  /-- Stopped for good: a trap at depth 2, an error, or a trap of the boot context (R35, R403). -/
  stopped : Bool
  /-- BLOCKED by an Umpire stall of its launch (R324). -/
  ublock : Bool
  /-- When the block timer of a BLOCKED context expires (R389). -/
  blockUntil : Option Nat
  boot : Bool
  x : Vector Word 64
  p : BitVec 8
  v : Vector (BitVec 2048) 32
  t : Vector (BitVec 32) 16
  maps : Map TMap
  tsh : Vector Word 8
  l0 : Loop
  l1 : Loop
  pc : Word
  /-- The hidden record register (R23); 0 for a context that holds no task. -/
  record : Word
  serial : BitVec 32
  launch : BitVec 32
  coord : Word
  /-- A cancellation has reached the task (R48). -/
  cancelled : Bool
  trap : TrapRegs
  fp : FpRegs
  grant : Nat
  req : Nat
  vq : List VCmd
  cnt : Ocnt
  fails : Failures
  tag : Nat
  tags : Map TagCount
  /-- Writes counted at their homes whose counts are still on their way back, and their failures (R379). -/
  arrived : Nat
  arrFails : Failures
  /-- Host writes not yet acknowledged (R229). -/
  hostWrites : Nat
  pendPre : Bool
  pendSplits : Bool
  pendDbg : Bool
  /-- A splits-full interrupt has been taken, and its handler has not returned (R327). -/
  inSplits : Bool
  vpoison : PoisonMark
  answer : Option Nat
  tnode : Vector Word 64
  mprog : Word
  queues : Vector CopyQueue 4
  /-- Where the next line of a `FREEZE` under way lies (R226). -/
  freezeAt : Option Word
  deriving DecidableEq, Repr

/-- A context at crew reset: free, every register 0 (R21, R28). [DESIGN CHOICE, log 9] -/
def Ctx.fresh : Ctx where
  st := .free
  wait := none
  halted := false
  stopped := false
  ublock := false
  blockUntil := none
  boot := false
  x := Vector.replicate 64 0
  p := 1
  v := Vector.replicate 32 0
  t := Vector.replicate 16 0
  maps := []
  tsh := Vector.replicate 8 0
  l0 := { ls := 0, le := 0, lc := 0 }
  l1 := { ls := 0, le := 0, lc := 0 }
  pc := 0
  record := 0
  serial := 0
  launch := 0
  coord := 0
  cancelled := false
  trap := { tstatus := 0, tcause := 0, tval := 0, tepc := 0, tdpc := 0, tscratch := 0 }
  fp := { fpctl := 0, fpflags := 0, k4lo := 0, k4hi := 0 }
  grant := 0
  req := 0
  vq := []
  cnt := { loads := 0, stores := 0, copies := 0, demands := 0 }
  fails := { lost := 0, refused := 0, poisoned := 0, timedout := 0 }
  tag := 0
  tags := []
  arrived := 0
  arrFails := { lost := 0, refused := 0, poisoned := 0, timedout := 0 }
  hostWrites := 0
  pendPre := false
  pendSplits := false
  pendDbg := false
  inSplits := false
  vpoison := none
  answer := none
  tnode := Vector.replicate 64 0
  mprog := 0
  queues := Vector.replicate 4 CopyQueue.fresh
  freezeAt := none

/-- The 32 metadata bits of a line of device memory (R370). -/
structure LineMeta where
  hstate : BitVec 3
  holder : BitVec 15
  width : BitVec 2
  type : BitVec 4
  frozen : Bool
  filled : Bool
  top : Bool
  watch : Bool
  poison : Bool
  gen : BitVec 3
  deriving DecidableEq, Repr

/-- Metadata 0x00F0_0000: the power-up state of a line (R367, R370). -/
def LineMeta.fresh : LineMeta where
  hstate := 0
  holder := 0
  width := 0
  type := 0xF
  frozen := false
  filled := false
  top := false
  watch := false
  poison := false
  gen := 0

/-- The states of a slice's copy of a line (R362): clean shared, exclusive, modified, owned, frozen, delta. -/
inductive CopyState where
  | s | e | m | o | f | d
  deriving DecidableEq, Repr

/-- The states of a line in a crew's L1 (R360). -/
inductive L1State where
  | sh | mo | fr | ls | ld
  deriving DecidableEq, Repr

/-- A crew's L1 line (R360): the page kind, and the RD, WR and EX bits its fill copied in. -/
structure L1Line where
  crew : Nat
  kind : Nat
  rd : Bool
  wr : Bool
  ex : Bool
  deriving DecidableEq, Repr

/-- The page kind and the permissions of a line (R382). -/
structure PageBits where
  kind : Nat
  rd : Bool
  wr : Bool
  ex : Bool
  deriving DecidableEq, Repr

/-- A copy of a line in a slice (R360, R362): its virtual tag, domain tag, and the page bits of the translation that filled it (R382); the
lines of it that L1 caches hold, the latest first, and what the slice records of them: four crews at most, and the overflow bit. For
a delta, `data` is the delta. `tag` is that of the home's last reply to the agent; while the reply has not landed, probes that name it
are held (R375). [DESIGN CHOICE, log 15] -/
structure Copy where
  st : CopyState
  vline : Nat
  dom : Nat
  page : Option PageBits := none
  l1 : List L1Line
  holders : List Nat := []
  overflow : Bool := false
  tag : Nat := 0
  landed : Bool := true
  probes : List ProbeKind := []
  data : BitVec 1024
  /-- A FILL1 delta's filled and top state (R59). -/
  filled : Bool
  top : Bool
  /-- The last join a delta absorbed, for the reports of its drain (R211, R212). -/
  last : Option JoinMsg
  deriving DecidableEq, Repr

/-- A leaf of the page table as a slice's leaf cache keeps it (R381, R382): the page's physical base and size, its kind and
the permissions of the whole walk. -/
structure Leaf where
  pa : Nat
  span : Nat
  kind : Nat
  rd : Bool
  wr : Bool
  ex : Bool
  hb : Bool
  log : Bool
  sbank : Bool
  deriving DecidableEq, Repr

/-- An interleave domain of a die (R363). -/
structure Domain where
  members : BitVec 32
  mode : Bool
  squads : BitVec 16
  deriving DecidableEq, Repr

/-- A report on its way to a launch's queue (R212, R320). `code` is ELEM in KIND 1 to 4; `typ` and `wid` are 0 in the others. -/
structure Report where
  kind : Nat
  addr : Nat
  aux : Nat
  launch : Nat
  serial : Nat
  pc : Nat
  code : Nat
  typ : Nat
  wid : Nat
  deriving DecidableEq, Repr

/-- An entry of a launch's code shadow (R361): a line's content before the launch first wrote it. -/
structure Shadow where
  launch : Nat
  line : Nat
  data : BitVec 1024
  /-- The undo region the entry lies in, by its address; none for the package's pool. -/
  region : Option Nat
  /-- The entry's place in its region. -/
  index : Nat
  deriving DecidableEq, Repr

/-- A die's control port (R363, R365): its interleave domains, whether a domain change runs, and the writes that wait. -/
structure Die where
  domains : Map Domain
  busy : Bool
  change : Option Word
  waiting : List Word
  /-- The contexts whose `CSRW` of `HASHCTL` is under way or waits, oldest first. -/
  owners : List CtxId
  deriving DecidableEq, Repr

/-- A die at reset: all slices and squads in domain 0, XOR-fold (R363). -/
def Die.fresh : Die where
  domains := [(0, { members := BitVec.allOnes 32, mode := true, squads := BitVec.allOnes 16 })]
  busy := false
  change := none
  waiting := []
  owners := []

/-- An entry of a crew's ready queue (R316). -/
structure Entry where
  record : Word
  ecycle : Nat
  prio : Nat
  src : Nat
  deriving DecidableEq, Repr

/-- A crew's ready queue in service order, the entries that found it full (R319), its mode and its scheduler registers (R323). [DEDUCED, log 64] -/
structure Queue where
  entries : List Entry
  waiting : List Entry
  deep : Bool
  spillBase : Nat
  spillCap : Nat
  high : Nat
  low : Nat
  /-- The victims left of the round of steal requests under way (R322). -/
  victims : List Nat
  stealing : Bool
  deriving DecidableEq, Repr

/-- The queue of a crew at reset (R323). -/
def Queue.fresh : Queue where
  entries := []
  waiting := []
  deep := false
  spillBase := 0
  spillCap := 4096
  high := 75
  low := 50
  victims := []
  stealing := false

/-- What a staging buffer holds that the hardware has written in a layout of its own (R339, R358): the model's counter at its latest write,
and the bytes that system code has written since. -/
structure Staging where
  epoch : Nat
  patch : Map Byte
  deriving DecidableEq, Repr

/-- A crew's own state besides its contexts (R28, R316, R323, R358, R395). [DESIGN CHOICE, log 82] -/
structure Crew where
  ctxs : Map Ctx
  thvec : Word
  splitctl : Word
  bfmt : Map Word
  /-- `clock` at the crew's last reset: `CYCLE` counts from it. -/
  cycleBase : Nat
  /-- The logical index the boot gave the crew (R17); none before boot and for an unusable crew. -/
  logical : Option Nat
  seatLast : Map Nat
  icache : Map (BitVec 1024)
  sysbank : Memory
  /-- The staging buffers that the hardware has used, 0–3. -/
  staging : Map Staging
  preempt : BitVec 8
  vsave : Word
  frozen : Bool
  gated : Bool
  cfault : Bool
  swapped : Bool
  /-- A swap-out of the crew is under way: its contexts have stopped (R399, R400). -/
  leaving : Bool
  tiles : Map Tile
  nodes : Map Node
  /-- The creation counter (R328). -/
  cno : Nat
  /-- The context whose demand the sequencer served last (R337). [DESIGN CHOICE, log 110] -/
  served : Nat
  /-- Pinned-continuation entries in use (R44). -/
  pins : List Nat
  /-- The copy queues of pinned continuations, by entry (R44). -/
  parked : Map (Vector CopyQueue 4)
  writeOuts : List WriteOut
  colls : Map CollSlot
  queue : Queue
  /-- Events of the cox that wait for room in the splits buffer (R327), oldest first: KIND, WHO, AUX and DATA. -/
  splitsHeld : List (Nat × Nat × Nat × Nat)
  /-- The message spill buffer of a crew that is swapped out (R400), oldest first. -/
  spill : List Msg
  /-- The copy of bank 15 in the shadow ways while the crew is swapped out (R399). -/
  shadow : Memory
  shadowStaging : Map Staging
  deriving DecidableEq, Repr

/-- A crew at reset. -/
def Crew.fresh : Crew where
  ctxs := []
  thvec := 0
  splitctl := 0
  bfmt := []
  cycleBase := 0
  logical := none
  seatLast := []
  icache := []
  sysbank := []
  staging := []
  preempt := 0
  vsave := 0
  frozen := false
  gated := false
  cfault := false
  swapped := false
  leaving := false
  tiles := []
  nodes := []
  cno := 0
  served := 31
  pins := []
  parked := []
  writeOuts := []
  colls := []
  queue := Queue.fresh
  splitsHeld := []
  spill := []
  shadow := []
  shadowStaging := []

/-- What stands for no launch: launch ids have 32 bits (R307). -/
def noLaunch : Nat := 2 ^ 32

/-- A launch slot of the stakeboat (R302–R311): its status, the copy of its accepted record and the launch's bookkeeping. `taken`
lists the records in use. -/
structure Slot where
  seq : Nat
  state : Nat
  reason : Nat
  launch : Nat
  retired : Nat
  dropped : Nat
  /-- The accepted record, 256 bytes, little-endian. -/
  image : Nat
  dep0 : Bool
  dep1 : Bool
  /-- A dependency of the held launch can never be met (R308). -/
  depDead : Bool
  /-- Records taken from the pool and not returned, by index (R311). -/
  taken : List Nat
  serial : Nat
  cancelled : Bool
  anyCancelled : Bool
  anyFaulted : Bool
  held : List Report
  /-- The end of the Umpire's progress window, as a value of `clock` (R324). -/
  deadline : Nat
  /-- The physical crews that take part, in ascending L, and the other packages (R309). -/
  crews : List Nat
  pkgs : List Nat
  /-- The arenas: base, lines and whether the launch owns it (R310). -/
  arenas : List (Nat × Nat × Bool)
  /-- The shape records (R312). -/
  shapes : List Nat
  deriving DecidableEq, Repr

/-- An idle slot (R305). -/
def Slot.fresh : Slot where
  seq := 0
  state := 0
  reason := 0
  launch := 0
  retired := 0
  dropped := 0
  image := 0
  dep0 := false
  dep1 := false
  depDead := false
  taken := []
  serial := 0
  cancelled := false
  anyCancelled := false
  anyFaulted := false
  held := []
  deadline := 0
  crews := []
  pkgs := []
  arenas := []
  shapes := []

/-- What the stakeboat keeps of a phase (R307, R406): its graph count, its undo region and its accepted launches, each a slot and
the record's copy, in acceptance order. -/
structure Phase where
  ngraph : Nat
  undo : Nat
  undolen : Nat
  launches : List (Nat × Nat)
  cancelled : Bool
  done : Bool
  deriving DecidableEq, Repr

/-- What the stakeboat keeps of a job (R307, R308): its current phase, its phases, the launch count of each graph
(65536 × phase + graph), the graphs cancelled, and the arenas whose reset is recorded for the phase boundary (R227). -/
structure Job where
  phase : Nat
  nphase : Nat
  phases : Map Phase
  graphs : Map Nat
  gcancels : List Nat
  cancelled : Bool
  resets : List (Nat × Nat)
  deriving DecidableEq, Repr

/-- A record that is not on a context (R39, R221, R282): the crew that created, holds or parked it, whether a `YIELD` or a `TWAIT`
parked it, and its task's serial. -/
structure Home where
  crew : Nat
  yielded : Bool
  waits : Bool
  serial : BitVec 32
  deriving DecidableEq, Repr

/-- An interleave set's descriptor (R368): its eight words. -/
abbrev SetWords := Map Word

/-- The package fields (R423). -/
structure Fields where
  uwin : Nat
  sto : Nat
  booted : Bool
  degraded : Bool
  bootfail : Bool
  cxlup : Bool
  /-- The dies whose issue is gated (R440). -/
  throttle : BitVec 4
  hbase : Nat
  temps : Map Nat
  deriving DecidableEq, Repr

/-- The translation block (R384): the running shoot-down's range, and whether a GO waits. -/
structure Transl where
  sdva : Nat
  sdlen : Nat
  busy : Bool
  bad : Bool
  aborts : Nat
  range : Nat × Nat
  waiting : Bool
  /-- The shoot-down belongs to a bias flip (R418). -/
  flip : Bool
  deriving DecidableEq, Repr

/-- The recovery block (R398): the job of the running command, and the jobs swapped out. -/
structure Recovery where
  job : Nat
  busy : Bool
  err : Bool
  rollbacks : Nat
  abandoned : Nat
  active : Nat
  out : List Nat
  /-- The jobs that are out with the crews each has left (R399). -/
  parts : List (Nat × Nat)
  /-- CMD as it was last written (R10, R398). -/
  cmd : Nat
  deriving DecidableEq, Repr

/-- The bias block (R417): the flip under way, its page and direction, and the GO that waits. -/
structure Bias where
  fva : Nat
  dir : Bool
  busy : Bool
  err : Bool
  flips : Nat
  page : Nat
  toward : Bool
  next : Option (Nat × Bool)
  deriving DecidableEq, Repr

/-- The management block (R426): a handover's end as a value of `clock`, and the host ports whose link is trained (R427). -/
structure Mgmt where
  owner : Nat
  pending : Bool
  target : Nat
  rejects : Map Nat
  deadline : Nat
  ports : List Nat
  deriving DecidableEq, Repr

/-- The boot results and the boot port (R431, R457). -/
structure Boot where
  nlog : Nat
  nfail : Nat
  nquar : Nat
  bootcrew : Nat
  phys : Map Nat
  failmask : BitVec 1024
  fbusy : Bool
  fdone : Bool
  err : Bool
  nans : Nat
  nlate : Nat
  msrc : Nat
  mvbase : Nat
  mlen : Nat
  mbusy : Bool
  merr : Bool
  acks : Nat
  answer : BitVec 1024
  /-- The crew that runs the boot ROM, by its physical index. -/
  crew : Option Nat
  /-- The crews that passed their self-test (R430). -/
  passed : BitVec 1024
  /-- The end of the answer window and of the wait for acknowledgements, as values of `clock` (R458, R460). -/
  closes : Nat
  /-- The crews still to acknowledge the image. -/
  acking : List Nat
  /-- The image's lines on their way to the crews (R460). -/
  image : List (BitVec 1024)
  /-- The crews whose answer has been taken in the discovery under way, quarantined ones too (R458). -/
  heard : BitVec 1024
  /-- The watch and arrival overflow bases of each slice (R466). -/
  overflow : Map (Nat × Nat)
  deriving DecidableEq, Repr

/-- A Nolras link (R432, R433, R436): its registers, the next sequence numbers, the flits not acknowledged and the replays in a
row without an advance. -/
structure Link where
  state : Nat
  en : Bool
  lanes : Nat
  peer : Nat
  replays : Nat
  deaths : Nat
  misroute : Nat
  lostw : Nat
  txSeq : Nat
  rxSeq : Nat
  unacked : List Flit
  stuck : Nat
  /-- When LACK last advanced, or the oldest flit not acknowledged was sent, as a value of `clock` (R433). -/
  since : Nat
  /-- The link has lost a lane: it retrains to 4 lanes (R432). -/
  half : Bool := false
  deriving DecidableEq, Repr

/-- A link at reset. -/
def Link.fresh : Link where
  state := 0
  en := false
  lanes := 0
  peer := 0
  replays := 0
  deaths := 0
  misroute := 0
  lostw := 0
  txSeq := 0
  rxSeq := 0
  unacked := []
  stuck := 0
  since := 0

/-- A flow as its destination sees it (R434): the next FSEQ, early flits, and numbers passed over. -/
structure Flow where
  next : Nat
  early : List (Nat × FlitMsg)
  lost : List Nat
  /-- The parts delivered of a message whose last flit is still to come (R432). -/
  parts : Nat := 0
  deriving DecidableEq, Repr

/-- A round of a collective slot of a launch (R274, R438, R439), by launch and slot: the partials that have arrived, oldest
first, and the package total once it is formed. -/
structure Round where
  launch : Nat
  slot : Nat
  round : Nat
  parts : List Partial
  bad : Bool
  /-- The package's result has gone to its parent (R438). -/
  sent : Bool
  /-- The packages that sent a partial without being valid children, and whether the round has ended bad before all of it came (R439). -/
  strangers : List Nat := []
  closed : Bool := false
  deriving DecidableEq, Repr

/-- The package's control registers that the manual names outside any crew (R384, R398, R423). -/
structure Pkg where
  root : Word
  pkgid : Nat
  sets : Map SetWords
  setFail : BitVec 4
  /-- The package code-shadow pool: physical base and bytes (R361, R428). -/
  poolBase : Nat
  poolLen : Nat
  /-- How often a phase, 65536 × job + phase, has been rolled back (R409). -/
  rolled : Map Nat
  jobs : Map Job
  fields : Fields
  transl : Transl
  recovery : Recovery
  bias : Bias
  /-- Host-bias pages, by physical page (R416). -/
  hostPages : List Nat
  mgmt : Mgmt
  boot : Boot
  links : Map Link
  routes : Map Nat
  flows : Map Flow
  /-- The next FSEQ of each flow that leaves this package. -/
  sent : Map Nat
  /-- The number after the last that each of these flows' destinations has confirmed, and the messages that wait for a confirmation,
  oldest first: destination, class and message (R434). -/
  confirmed : Map Nat
  flitsHeld : List (Nat × Nat × FlitMsg)
  tree : Map Word
  rounds : List Round
  /-- How often each MSI-X vector has been signalled (R419). -/
  msi : Map Nat
  /-- The module configuration store (R428): what is committed, what the window shows, and what has been in force since power-up. -/
  store : Memory
  draft : Memory
  inForce : Memory
  /-- The jobs that a shutdown has lost, which the module controller reports at the next boot, and those it has reported (R440). -/
  lost : List Nat
  lostReport : List Nat
  deriving DecidableEq, Repr

/-- The machine (one package). [DESIGN CHOICE, log 102] -/
structure State where
  /-- The context that issued last. -/
  cur : CtxId
  /-- The model's own counter of steps, from which free values are drawn. [DESIGN CHOICE, log 2] -/
  tick : Nat
  /-- The cycles that have passed (R9, R28). -/
  clock : Nat
  events : List Instr
  /-- The launch on whose behalf the machine acts: the current context's, an engine's, or none (R407). -/
  actor : Nat
  crews : Map Crew
  dies : Map Die
  mem : Memory
  lines : Map LineMeta
  copies : Map Copy
  leaves : Map Leaf
  /-- The walk caches of the dies: entries of levels 1 and 2 (R381). -/
  walks : Map Word
  watches : List Watch
  slots : Map Slot
  posts : List Report
  /-- Unit writes that are accepted and not yet counted, oldest first (R199, R229). -/
  owed : List Owed
  /-- Writes and joins on the links to other packages, oldest first, and the number of the next (R232). -/
  flying : List Flying
  flown : Nat
  /-- What other packages have answered, to instructions that await it. -/
  replies : List Reply
  /-- Joins that slices hold, oldest first (R327). -/
  heldJoins : List HeldJoin
  /-- The busy list of each slice: requests for lines that are busy, each with its line, oldest first; and the requests a full list
  refused (R374). -/
  busyList : Map (List (Nat × HomeRequest))
  retry : Map (List (Nat × HomeRequest))
  /-- The contexts whose turn at a line has come, each with the line: it stays busy until their instruction is done (R374). -/
  serving : List (Nat × CtxId)
  /-- Host joins whose report found no launch (R223, R423). -/
  hostrep : Nat
  /-- What the host's latest read returned (R299). [DESIGN CHOICE, log 119] -/
  hostData : Nat
  /-- The arrival tables of the homes (R379). -/
  arrivals : List Arrival
  /-- The bytes of host memory outside the aperture, by host physical address (R414, R423). -/
  hostMem : Memory
  shadows : List Shadow
  /-- Records that are not on a context, by address. -/
  homes : Map Home
  /-- Events that become due when `clock` reaches a value, oldest first. -/
  timers : List (Nat × Instr)
  pkg : Pkg
  deriving DecidableEq, Repr

/-- The package registers at reset (R384, R398, R417, R423, R426, R431, R436, R438, R457). -/
def Pkg.fresh : Pkg where
  root := 0
  pkgid := 0
  sets := []
  setFail := 0
  poolBase := 0
  poolLen := 0
  rolled := []
  jobs := []
  fields := {
    uwin := 30, sto := 1000, booted := false, degraded := false, bootfail := false, cxlup := false, throttle := 0, hbase := 0, temps := [] }
  transl := {
    sdva := 0, sdlen := 0, busy := false, bad := false, aborts := 0, range := (0, 0), waiting := false, flip := false }
  recovery := { job := 0, busy := false, err := false, rollbacks := 0, abandoned := 0, active := 0, out := [], parts := [], cmd := 0 }
  bias := { fva := 0, dir := false, busy := false, err := false, flips := 0, page := 0, toward := false, next := none }
  hostPages := []
  mgmt := { owner := 7, pending := false, target := 0, rejects := [], deadline := 0, ports := [] }
  boot := {
    nlog := 0, nfail := 0, nquar := 0, bootcrew := 0, phys := [], failmask := 0, fbusy := false, fdone := false, err := false
    nans := 0, nlate := 0, msrc := 0, mvbase := 0, mlen := 0, mbusy := false, merr := false, acks := 0, answer := 0, crew := none
    passed := 0, closes := 0, acking := [], image := [], heard := 0, overflow := [] }
  links := []
  routes := []
  flows := []
  sent := []
  confirmed := []
  flitsHeld := []
  tree := []
  rounds := []
  msi := []
  store := []
  draft := []
  inForce := []
  lost := []
  lostReport := []

/-- The machine right after the module controller releases reset: memory lists nothing, every register is at its reset value, and
power sequencing is due (R429). [DESIGN CHOICE, log 10] -/
def State.reset : State where
  cur := { crew := 0, n := 0 }
  tick := 0
  clock := 0
  events := [.powerOnReset]
  actor := noLaunch
  crews := []
  dies := []
  mem := []
  lines := []
  copies := []
  leaves := []
  walks := []
  watches := []
  slots := []
  posts := []
  owed := []
  flying := []
  flown := 0
  replies := []
  heldJoins := []
  busyList := []
  retry := []
  serving := []
  hostrep := 0
  hostData := 0
  arrivals := []
  hostMem := []
  shadows := []
  homes := []
  timers := []
  pkg := Pkg.fresh

end Sys2Proof.Machine
end

