-- ==== Sys2Proof/Machine/Regs.lean ====
section
/-!
DEFINITION. The one home of every register: accessors of crews, contexts, scalar registers, predicates, vector registers and
handles. The registers the manual hard-wires, x0 and p0, are handled here and nowhere else (R22).
-/
namespace Sys2Proof.Machine

def State.crewAt (s : State) (k : Nat) : Crew := mget Crew.fresh s.crews k
def State.updCrew (s : State) (k : Nat) (f : Crew → Crew) : State := { s with crews := mput s.crews k (f (s.crewAt k)) }
/-- Engines that do not move: of a crew that is frozen or swapped out (R399, R402). -/
def Crew.enginesStopped (c : Crew) : Bool := c.frozen || c.swapped || c.cfault
/-- From step 2 of a swap-out until the end of the swap-in, a crew takes no record and no message (R399, R400). -/
def Crew.away (c : Crew) : Bool := c.swapped || c.leaving
def Crew.ctxAt (c : Crew) (n : Nat) : Ctx := mget Ctx.fresh c.ctxs n
def Crew.updCtx (c : Crew) (n : Nat) (f : Ctx → Ctx) : Crew := { c with ctxs := mput c.ctxs n (f (c.ctxAt n)) }
/-- A context of the machine. -/
def State.ctxAt (s : State) (i : CtxId) : Ctx := (s.crewAt i.crew).ctxAt i.n
def State.updCtx (s : State) (i : CtxId) (f : Ctx → Ctx) : State := s.updCrew i.crew (fun c => c.updCtx i.n f)
/-- The context that issues. -/
def State.cx (s : State) : Ctx := s.ctxAt s.cur
def State.upd (s : State) (f : Ctx → Ctx) : State := s.updCtx s.cur f

/-- x(r); x0 reads 0 (R21). -/
def Ctx.getX (c : Ctx) (r : BitVec 6) : Word := if r = 0 then 0 else c.x[r.toNat]'r.isLt
/-- Writes x(r); a write to x0 is discarded (R22). -/
def Ctx.setX (c : Ctx) (r : BitVec 6) (v : Word) : Ctx := if r = 0 then c else { c with x := c.x.set r.toNat v r.isLt }
/-- p(r); p0 reads true (R21). -/
def Ctx.getP (c : Ctx) (r : BitVec 3) : Bool := r == 0 || c.p.getLsbD r.toNat
/-- Writes p(r); a write to p0 is discarded (R22). -/
def Ctx.setP (c : Ctx) (r : BitVec 3) (b : Bool) : Ctx :=
  if r = 0 then c
  else
    let bit : BitVec 8 := 1#8 <<< r.toNat
    { c with p := if b then c.p ||| bit else c.p &&& ~~~bit }
/-- v(r) (R21). -/
def Ctx.getV (c : Ctx) (r : BitVec 5) : VReg := c.v[r.toNat]'r.isLt
def Ctx.setV (c : Ctx) (r : BitVec 5) (v : VReg) : Ctx := { c with v := c.v.set r.toNat v r.isLt }
/-- t(r) (R25). -/
def Ctx.getT (c : Ctx) (r : BitVec 4) : BitVec 32 := c.t[r.toNat]'r.isLt
def Ctx.setT (c : Ctx) (r : BitVec 4) (v : BitVec 32) : Ctx := { c with t := c.t.set r.toNat v r.isLt }
/-- TSH(k) (R242). -/
def Ctx.getTsh (c : Ctx) (k : BitVec 3) : Word := c.tsh[k.toNat]'k.isLt
def Ctx.setTsh (c : Ctx) (k : BitVec 3) (v : Word) : Ctx := { c with tsh := c.tsh.set k.toNat v k.isLt }

/-- The registers of the issuing context. -/
def State.X (s : State) (r : BitVec 6) : Word := s.cx.getX r
def State.P (s : State) (r : BitVec 3) : Bool := s.cx.getP r
def State.V (s : State) (r : BitVec 5) : VReg := s.cx.getV r
def State.setX (s : State) (r : BitVec 6) (v : Word) : State := s.upd fun c => c.setX r v
def State.setP (s : State) (r : BitVec 3) (b : Bool) : State := s.upd fun c => c.setP r b
def State.setV (s : State) (r : BitVec 5) (v : VReg) : State := s.upd fun c => c.setV r v
def State.pc (s : State) : Word := s.cx.pc

/-- The trap depth (R35, R386): 0 is task mode. -/
def Ctx.depth (c : Ctx) : Nat := (c.trap.tstatus.extractLsb' 0 2).toNat
/-- The launch of a context's task, as the machine looks it up; a context without a task has none. -/
def Ctx.launchId (c : Ctx) : Nat := if c.record = 0 then noLaunch else c.launch.toNat
def State.taskMode (s : State) : Bool := s.cx.depth == 0
/-- A context holds a task when its hidden record register is not 0 (R23, R388). -/
def Ctx.hasTask (c : Ctx) : Bool := c.record != 0

/-- The mask register of a vector instruction: v(pm) for pm 1–7 (R100, R174). -/
def State.mask (s : State) (m : BitVec 3) : VReg := s.V (m.setWidth 5)

/-- The physical coordinates and groups of a crew's index 32 × py + px (R16). -/
def crewPx (k : Nat) : Nat := k % 32
def crewPy (k : Nat) : Nat := k / 32 % 32
def crewDie (k : Nat) : Nat := 2 * (crewPy k / 16) + crewPx k / 16
def crewSquad (k : Nat) : Nat := 4 * (crewPy k / 4 % 4) + crewPx k / 4 % 4
def crewInSquad (k : Nat) : Nat := 4 * (crewPy k % 4) + crewPx k % 4
def crewQuad (k : Nat) : Nat := 2 * (crewPy k / 2 % 2) + crewPx k / 2 % 2
def crewInQuad (k : Nat) : Nat := 2 * (crewPy k % 2) + crewPx k % 2
def crewInDie (k : Nat) : Nat := 16 * (crewPy k % 16) + crewPx k % 16
/-- The crew at a position of a die (R16). -/
def crewOfDie (die i : Nat) : Nat := 32 * (16 * (die / 2 % 2) + i / 16 % 16) + 16 * (die % 2) + i % 16
/-- The crew at a crew-in-squad position of another crew's squad. -/
def squadMate (k c : Nat) : Nat := 32 * (crewPy k / 4 * 4 + c / 4) + crewPx k / 4 * 4 + c % 4

/-- `CYCLE` of a crew (R28): clock cycles since its reset. -/
def State.cycle (s : State) (k : Nat) : Nat := s.clock - (s.crewAt k).cycleBase

/-- Appends a pending event of the machine. -/
def State.push (s : State) (e : Instr) : State := { s with events := s.events ++ [e] }

/-- An event that becomes due after some cycles. [DESIGN CHOICE, log 13] -/
def State.after (s : State) (c : Nat) (e : Instr) : State := { s with timers := s.timers ++ [(s.clock + c, e)] }

/-- The launch slots, and the slot of a launch that is held, running or stalled. -/
def State.slotAt (s : State) (i : Nat) : Slot := mget Slot.fresh s.slots i
def State.updSlot (s : State) (i : Nat) (f : Slot → Slot) : State := { s with slots := mput s.slots i (f (s.slotAt i)) }
/-- Whether a slot holds a running launch, stalled ones included. [DEDUCED, log 90] -/
def Slot.running (x : Slot) : Bool := x.state == 2 || x.state == 5
def Slot.live? (x : Slot) : Bool := x.state == 1 || x.state == 2 || x.state == 5
def State.slotOf (s : State) (launch : Nat) : Option Nat :=
  (s.slots.find? fun p => p.2.live? && p.2.launch == launch).map Prod.fst
/-- Something happened in a launch that restarts its progress window (R324). -/
def State.progress (s : State) (launch : Nat) : State :=
  match s.slotOf launch with
  | some i => s.updSlot i fun x => { x with deadline := s.clock + 2 ^ s.pkg.fields.uwin }
  | none => s
/-- A field of a launch record (R307): `n` bytes at an offset of a slot's copy. -/
def Slot.field (x : Slot) (off n : Nat) : Nat := x.image / 256 ^ off % 256 ^ n

def State.dieAt (s : State) (d : Nat) : Die := mget Die.fresh s.dies d
def State.updDie (s : State) (d : Nat) (f : Die → Die) : State := { s with dies := mput s.dies d (f (s.dieAt d)) }

end Sys2Proof.Machine
end

