-- ==== Sys2Proof/Machine/Mem.lean ====
section
/-!
DEFINITION. Device memory as lines with metadata (R366–R371), the coherent value of a line, the links to other packages (R432–R435),
and the page-table walk (R381, R382).
-/
namespace Sys2Proof.Machine

/-- The line a physical byte address lies in. -/
def lineOf (pa : Nat) : Nat := pa / 128

def State.metaOf (s : State) (l : Nat) : LineMeta := mget LineMeta.fresh s.lines l
def State.setMeta (s : State) (l : Nat) (m : LineMeta) : State := { s with lines := mput s.lines l m }
def State.updMeta (s : State) (l : Nat) (f : LineMeta → LineMeta) : State := s.setMeta l (f (s.metaOf l))

/-- The metadata as the 32 bits of R370. -/
def LineMeta.bits (m : LineMeta) : BitVec 32 :=
  m.gen ++ BitVec.ofBool m.poison ++ BitVec.ofBool m.watch ++ BitVec.ofBool m.top ++ BitVec.ofBool m.filled ++
    BitVec.ofBool m.frozen ++ m.type ++ m.width ++ m.holder ++ m.hstate
/-- The metadata from its 32 bits. -/
def LineMeta.ofBits (b : BitVec 32) : LineMeta where
  hstate := b.extractLsb' 0 3
  holder := b.extractLsb' 3 15
  width := b.extractLsb' 18 2
  type := b.extractLsb' 20 4
  frozen := b.getLsbD 24
  filled := b.getLsbD 25
  top := b.getLsbD 26
  watch := b.getLsbD 27
  poison := b.getLsbD 28
  gen := b.extractLsb' 29 3

/-- The 128 bytes of a line in device memory. -/
def State.memLine (s : State) (l : Nat) : BitVec 1024 := BitVec.ofNat 1024 (s.mem.readN (128 * l) 128)
/-- Writes the 128 bytes of a line in device memory, and nothing else. -/
def State.pokeLine (s : State) (l : Nat) (d : BitVec 1024) : State := { s with mem := s.mem.writeN (128 * l) 128 d.toNat }
/-- Writes `n` bytes of device memory, and nothing else. -/
def State.poke (s : State) (pa n v : Nat) : State := { s with mem := s.mem.writeN pa n v }

/-- The key of an agent's copy of a line. -/
def copyKey (agent l : Nat) : Nat := agent * 2 ^ 49 + l
def State.copyAt? (s : State) (agent l : Nat) : Option Copy := mget? s.copies (copyKey agent l)
def State.putCopy (s : State) (agent l : Nat) (c : Copy) : State := { s with copies := mput s.copies (copyKey agent l) c }
def State.dropCopy (s : State) (agent l : Nat) : State := { s with copies := mdel s.copies (copyKey agent l) }
/-- The copies of a line, with their agents. -/
def State.copiesOf (s : State) (l : Nat) : List (Nat × Copy) :=
  (s.copies.filter fun p => p.1 % 2 ^ 49 == l).map fun p => (p.1 / 2 ^ 49, p.2)
/-- Drops every copy of a line but one agent's. -/
def State.dropOthers (s : State) (keep l : Nat) : State :=
  { s with copies := s.copies.filter fun p => p.1 % 2 ^ 49 != l || p.1 / 2 ^ 49 == keep }

/-- The home states of R371. -/
def hsI : BitVec 3 := 0
def hsS : BitVec 3 := 1
def hsE : BitVec 3 := 2
def hsM : BitVec 3 := 3
def hsO : BitVec 3 := 4
def hsDOne : BitVec 3 := 5
def hsDMany : BitVec 3 := 6
def hsF : BitVec 3 := 7
/-- HOLDER of a line with many sharers (R372). -/
def holderMany : BitVec 15 := 0x7FFF

/-- A line's latest data (R299, R376): the owner's copy in M and O, else memory. -/
def State.lineData (s : State) (l : Nat) : BitVec 1024 :=
  let m := s.metaOf l
  if m.hstate = hsM ∨ m.hstate = hsO then
    match s.copyAt? m.holder.toNat l with
    | some c => c.data
    | none => s.memLine l
  else s.memLine l

/-- The latest value of a byte. -/
def State.byteAt (s : State) (pa : Nat) : Byte := (s.lineData (lineOf pa)).extractLsb' (8 * (pa % 128)) 8
/-- The latest value of `n` bytes, little-endian. -/
def State.readPa (s : State) (pa : Nat) : Nat → Nat
  | 0 => 0
  | n + 1 => (s.byteAt pa).toNat + 256 * s.readPa (pa + 1) n

/-- The home slice of a line (R367), as an agent id 32 × die + slice (R372). -/
def homeOf (l : Nat) : Nat :=
  let p := 128 * l % 2 ^ 39
  let c := (p / 2 ^ 7 % 128) ^^^ (p / 2 ^ 14 % 128) ^^^ (p / 2 ^ 21 % 128)
  32 * (128 * l / 2 ^ 39 % 4) + c / 4

/-! Physical addresses (R366, R368, R369). -/

/-- What a physical address names. -/
inductive Place where
  /-- Device memory of this package, by its physical address. -/
  | device (pa : Nat)
  /-- The control space, by its offset (R420). -/
  | control (off : Nat)
  /-- Host memory (R414). -/
  | host (pa : Nat)
  /-- Another package's space, reached over the links (R435). -/
  | remote (pkg pa : Nat)
  /-- Nothing: an access violation. -/
  | nowhere
  deriving DecidableEq, Repr

def setWord (w : SetWords) (i : Nat) : Nat := (mget (0 : Word) w i).toNat
def setEnabled (w : SetWords) : Bool := setWord w 0 / 2 ^ 63 == 1
def setBase (w : SetWords) : Nat := setWord w 0 % 2 ^ 38
def setLen (w : SetWords) : Nat := setWord w 1 % 2 ^ 38
/-- The member dies in ascending order. -/
def setDies (w : SetWords) : List Nat := (List.range 4).filter fun d => setWord w 0 / 2 ^ (40 + d) % 2 == 1

/-- The die and die-local address of an offset within an interleave set (R369). -/
def setMap (w : SetWords) (o : Nat) : Nat × Nat :=
  let ds := setDies w
  let n := ds.length
  let g := 4096 * n
  let full := setLen w / g * g
  if o < full then
    let st := o / 4096
    let d := ds.getD (st % n) 0
    (d, setWord w (2 + d) % 2 ^ 38 + st / n * 4096 + o % 4096)
  else
    let d := ds.headD 0
    (d, setWord w (2 + d) % 2 ^ 38 + full / n + (o - full))

/-- The bytes of device memory behind one die (R366). -/
def dieBytes : Nat := 0x3000000000

/-- Resolves a physical address (R366). [DESIGN CHOICE, log 92] -/
def State.place (s : State) (pa : Nat) : Place :=
  let pk := pa / 2 ^ 41 % 2 ^ 15
  let die := pa / 2 ^ 39 % 4
  let loc := pa % 2 ^ 39
  if pk = 0x7FFE then .control (pa % 2 ^ 41)
  else if pk = 0x7FFF then .host pa
  else if 0x7FF0 ≤ pk then .nowhere
  else if pk ≠ s.pkg.pkgid then .remote pk pa
  else if loc < dieBytes then .device pa
  else if loc < 2 ^ 38 then .nowhere
  else if die ≠ 0 then .nowhere
  else
    let o := loc % 2 ^ 38
    match s.pkg.sets.find? fun p => setEnabled p.2 && decide (setBase p.2 ≤ o) && decide (o < setBase p.2 + setLen p.2) with
    | none => .nowhere
    | some (_, w) =>
      let (d, l) := setMap w (o - setBase w)
      .device (pk * 2 ^ 41 + d * 2 ^ 39 + l)

/-- The physical address of the launch window's slot page (R415). -/
def State.windowBase (s : State) : Nat := s.pkg.pkgid * 2 ^ 41 + 0x2FFFFE0000
/-- Whether a line lies in the slot page where writes of the device's code and engines are discarded: the status words, and what is
not used (R302). -/
def State.slotGuarded (s : State) (l : Nat) : Bool :=
  let o := 128 * l - s.windowBase
  decide (s.windowBase ≤ 128 * l) && ((decide (0x1000 ≤ o) && decide (o < 0x1100)) || (decide (0x1180 ≤ o) && decide (o < 0x10000)))

/-- The physical key under which the bytes of an address are held, if memory stands behind it. The memory of the host and of
other packages is held under its own physical addresses. -/
def State.bytesAt (s : State) (pa : Nat) : Option Nat :=
  match s.place pa with
  | .device p | .host p | .remote _ p => some p
  | _ => none

/-! Links to other packages (R432–R435). -/

def State.linkAt (s : State) (n : Nat) : Link := mget Link.fresh s.pkg.links n
def State.updLink (s : State) (n : Nat) (f : Link → Link) : State :=
  { s with pkg := { s.pkg with links := mput s.pkg.links n (f (s.linkAt n)) } }
/-- Whether a route to a package holds a link that is up (R435). -/
def State.routeUp (s : State) (pk : Nat) : Bool :=
  (List.range 16).any fun n => (mget 0 s.pkg.routes pk).testBit n && (s.linkAt n).state == 2

/-- Sends a flit on a link (R433): it is kept until acknowledged; the first of them starts the replay timer. -/
def State.sendOn (s : State) (n : Nat) (f : Flit) : State :=
  let l := s.linkAt n
  let flit := { f with lseq := l.txSeq, lack := (l.rxSeq + 4095) % 4096 }
  let s1 := s.updLink n fun l => { l with
    txSeq := (l.txSeq + 1) % 4096, unacked := l.unacked ++ [flit], since := if l.unacked = [] then s.clock else l.since }
  if l.unacked = [] then s1.after 3500 (.linkReplayTimer n) else s1

/-- The links that may carry a flit toward a package (R433, R435): of the route's mask, up, with room in the replay buffer. -/
def State.openLinks (s : State) (dst : Nat) : List Nat :=
  (List.range 16).filter fun n => (mget 0 s.pkg.routes dst).testBit n && (s.linkAt n).state == 2 && decide ((s.linkAt n).unacked.length < 4096)
/-- The link that carries a flit toward a package (R435): the open one with the most free credits; ties to the lower. -/
def State.linkToward (s : State) (dst : Nat) : Option Nat :=
  (s.openLinks dst).foldl
    (fun (b : Option Nat) n => match b with
      | none => some n | some x => if Config.credits s.tick x < Config.credits s.tick n then some n else some x) none

/-- Whether a flow must wait: 1,024 of its flits are outstanding, or earlier messages wait (R434), or no replay buffer has room (R433). -/
def State.flowFull (s : State) (dst cls : Nat) : Bool :=
  let flow := cls + 8 * dst
  decide (1024 ≤ (mget 0 s.pkg.sent flow + 65536 - mget 0 s.pkg.confirmed flow) % 65536) ||
    s.pkg.flitsHeld.any (fun h => h.1 == dst && h.2.1 == cls) || (s.routeUp dst && s.openLinks dst == [])

/-- Sends one flit of a flow on the link that carries it. -/
def State.sendOne (s : State) (dst cls : Nat) (m : FlitMsg) : State :=
  match s.linkToward dst with
  | none => s
  | some n =>
    let flow := cls + 8 * dst
    let f := mget 0 s.pkg.sent flow
    let flit : Flit := {
      lseq := 0, kind := 1, lack := 0, dst := dst, src := s.pkg.pkgid, cls := cls, hops := 15, fseq := f
      crcOk := true, payload := m }
    let s1 := s.sendOn n flit
    { s1 with pkg := { s1.pkg with sent := mput s1.pkg.sent flow ((f + 1) % 65536) } }
/-- Sends a message toward a package (R432–R435), its parts first, under consecutive numbers. A flow that is full keeps it. -/
def State.sendFlit (s : State) (dst cls : Nat) (m : FlitMsg) : State :=
  if s.flowFull dst cls then { s with pkg := { s.pkg with flitsHeld := s.pkg.flitsHeld ++ [(dst, cls, m)] } }
  else ((List.range (m.flits - 1)).foldl (fun s _ => s.sendOne dst cls .part) s).sendOne dst cls m

/-- Sends a request for a line of another package (R232, R434): it acts there once it has crossed the link, under the entry that counts
it. [DESIGN CHOICE, log 92] -/
def State.fly (s : State) (pk l va : Nat) (x : Cargo) (owed : Option Nat) : State :=
  let id := s.flown
  let t := match x with
    | .join j => s.sendFlit pk 3 (.join id l j)
    | .write data mask => s.sendFlit pk 3 (.write id (128 * l) 128 data.toNat mask.toNat)
    | .atomic a => s.sendFlit pk 0 (.atomic id a)
    | .read => s.sendFlit pk 0 (.read id (32 * s.cur.crew + s.cur.n) l)
  { t with flying := s.flying ++ [{ id := id, owed := owed, line := l, va := va, cargo := x }], flown := id + 1 }

/-- A line of another package as reads of this package see it: behind their own earlier writes (R287). -/
def State.remoteLine (s : State) (l : Nat) : BitVec 1024 :=
  s.flying.foldl (fun d f => match f.cargo with
    | .write x m => if f.line = l then (d &&& ~~~m) ||| (x &&& m) else d
    | _ => d) (s.memLine l)
/-- `n` bytes of a line from a byte of it on, little-endian. -/
def bytesOf (d : BitVec 1024) (pa n : Nat) : Nat := d.toNat / 256 ^ (pa % 128) % 256 ^ n
/-- `n` bytes of another package, little-endian. -/
def State.remotePa (s : State) (pa : Nat) : Nat → Nat
  | 0 => 0
  | n + 1 => ((s.remoteLine (lineOf pa)).extractLsb' (8 * (pa % 128)) 8).toNat + 256 * s.remotePa (pa + 1) n

/-- The context that issues, as the reader of answers of other packages. -/
def State.reader (s : State) : Nat := 32 * s.cur.crew + s.cur.n
/-- What a reader has heard of a line of another package. -/
def State.replyAt (s : State) (r l : Nat) : Option Answer := (s.replies.find? fun x => x.reader == r && x.line == l).map Reply.answer
/-- The issuing context asks another package for a line, or sends it an atomic (R434): one that does not answer within the store timeout
fails (R196). -/
def State.ask (s : State) (pk l va : Nat) (x : Cargo) : State :=
  let t := s.fly pk l va x none
  let r : Reply := { reader := s.reader, line := l, id := s.flown, answer := .pending, since := s.clock }
  { t with replies := t.replies ++ [r] }.after (1750 * s.pkg.fields.sto) (.storeTimeout s.cur 40)
/-- An instruction has used its answers. -/
def State.dropReplies (s : State) : State := { s with replies := s.replies.filter fun x => x.reader != s.reader }

/-- Whether a join travels to a line's home. -/
def Flying.joins (f : Flying) : Bool := match f.cargo with | .join _ => true | _ => false
/-- Whether a line's busy bit is set (R327, R374): a slice holds a join of it, a join of it travels to its home, or a context's turn at
it has come. -/
def State.lineBusy (s : State) (l : Nat) : Bool :=
  s.heldJoins.any (fun h => h.line == l) || s.flying.any (fun f => f.joins && f.line == l) || s.serving.any fun x => x.1 == l
/-- Whether the issuing context finds a line busy: its own turn does not stand in its way. -/
def State.lineTaken (s : State) (l : Nat) : Bool :=
  s.heldJoins.any (fun h => h.line == l) || s.flying.any (fun f => f.joins && f.line == l) ||
    s.serving.any fun x => x.1 == l && x.2 != s.cur

/-! Translation (R381, R382). -/

/-- The slice of a virtual line in a crew's domain (R364), as an agent id. -/
def sliceOfLine (d : Domain) (idx : Nat) : Nat :=
  let h := if d.mode then (idx % 2 ^ 16) ^^^ (idx / 2 ^ 16 % 2 ^ 16) ^^^ (idx / 2 ^ 32 % 2 ^ 16) else idx
  let bits := (List.range 32).filter fun i => d.members.getLsbD i
  bits.getD (h % bits.length) 0

/-- The domain a squad routes through (R363). -/
def Die.domainOf (d : Die) (squad : Nat) : Nat × Domain :=
  (d.domains.find? fun p => p.2.squads.getLsbD squad).getD (0, { members := BitVec.allOnes 32, mode := true, squads := 0 })

/-- The slice that serves a crew's access to a virtual address (R364). -/
def State.sliceFor (s : State) (crew : Nat) (va : Word) : Nat :=
  let die := crewDie crew
  32 * die + sliceOfLine ((s.dieAt die).domainOf (crewSquad crew)).2 (va.toNat / 128 % 2 ^ 48)

/-- Access kinds of R196. -/
def akFetch : Nat := 0
def akLoad : Nat := 1
def akStore : Nat := 2
def akEngine : Nat := 3
/-- What stands for a reason while a crew holds its requests (R365), and for the trap of an instruction that is held: it does not trap. -/
def heldReason : Nat := 17
def heldCause : Nat := 0x10000
/-- The class 2 cause of an access kind and reason (R196). -/
def memCause (kind reason : Nat) : Nat := if reason = heldReason then heldCause else 0x80 + 16 * kind + reason

/-- What an access needs of a page (R382). -/
structure Need where
  rd : Bool
  wr : Bool
  ex : Bool
  deriving DecidableEq, Repr
def needRd : Need := { rd := true, wr := false, ex := false }
def needWr : Need := { rd := false, wr := true, ex := false }
def needEx : Need := { rd := false, wr := false, ex := true }
/-- [DEDUCED, log 19] -/
def needRdWr : Need := { rd := true, wr := true, ex := false }
def needNone : Need := { rd := false, wr := false, ex := false }

/-- The permissions of one entry, or of a whole walk. -/
def permits (n : Need) (rd wr ex : Bool) : Bool := (!n.rd || rd) && (!n.wr || wr) && (!n.ex || ex)

/-- The low bit of the index of a level, which is the log of what an entry there maps (R382). -/
def levelShift : Nat → Nat
  | 3 => 42 | 2 => 29 | _ => 16

/-- The key of a walk-cache entry (R381): by die, level and the address bits above what an entry maps. -/
def walkKey (die level va : Nat) : Nat := (die * 4 + level) * 2 ^ 39 + va / 2 ^ levelShift level

/-- An entry of a table, read from memory: reason 8 where its address names nothing (R366), 10 behind a dead link (R435), 12 where it
is poisoned (R381). [DEDUCED, log 18] -/
def State.readEntry (s : State) (ea : Nat) : Except Nat Word :=
  match s.place ea with
  | .device pa => if (s.metaOf (lineOf pa)).poison then .error 12 else .ok (BitVec.ofNat 64 (s.readPa pa 8))
  | .host pa => .ok (BitVec.ofNat 64 (s.readPa pa 8))
  | .remote pk pa => if s.routeUp pk then .ok (BitVec.ofNat 64 (s.remotePa pa 8)) else .error 10
  | _ => .error 8
/-- The entry of a level that maps an address: of the die's walk cache when a die's walker asks, else from its table. -/
def State.tableEntry (s : State) (die : Option Nat) (level va table : Nat) : Except Nat Word :=
  match die.bind fun d => mget? s.walks (walkKey d level va) with
  | some e => .ok e
  | none => s.readEntry (table + 8 * (va / 2 ^ levelShift level % 8192))

/-- The walk with `k` levels to go (R382): a leaf, or the reason the first bad entry gives. [DEDUCED, log 17] -/
def State.walkFrom (s : State) (die : Option Nat) (va : Nat) (need : Need) : Nat → Nat → Bool → Bool → Bool → Except Nat Leaf
  | 0, _, _, _, _ => .error 1
  | k + 1, table, rd, wr, ex =>
    let sh := levelShift (k + 1)
    match s.tableEntry die (k + 1) va table with
    | .error r => .error r
    | .ok e =>
      let leaf := e.getLsbD 1
      let kind := (e.extractLsb' 2 3).toNat
      let addr := (e.extractLsb' 16 40).toNat * 2 ^ 16
      if !e.getLsbD 0 then .error 1
      else if e.extractLsb' 11 5 ≠ 0 || e.extractLsb' 56 8 ≠ 0 || (k == 0 && !leaf) || (leaf && addr % 2 ^ sh ≠ 0)
          || (e.getLsbD 10 && kind ≠ 1) then .error 1
      else if 4 ≤ kind then .error 2
      else
        let rd := rd && e.getLsbD 5
        let wr := wr && e.getLsbD 6
        let ex := ex && e.getLsbD 7
        if !permits need rd wr ex then .error 3
        else if leaf then
          .ok { pa := addr, span := 2 ^ sh, kind := kind, rd := rd, wr := wr, ex := ex, hb := e.getLsbD 8,
                log := e.getLsbD 9, sbank := e.getLsbD 10 }
        else s.walkFrom die va need k addr rd wr ex

/-- The root table (R384). -/
def State.rootTable (s : State) : Nat := (s.pkg.root.extractLsb' 16 40).toNat * 2 ^ 16
/-- A walk from the root (R381, R384) for the hardware's own accesses. -/
def State.walk (s : State) (va : Word) (need : Need) : Except Nat Leaf := s.walkFrom none va.toNat need 3 s.rootTable true true true
/-- A walk of a die's walker (R381). -/
def State.dieWalk (s : State) (die : Nat) (va : Word) (need : Need) : Except Nat Leaf :=
  s.walkFrom (some die) va.toNat need 3 s.rootTable true true true

/-- Puts an entry into a cache that holds at most `cap` of the entries a test selects; a full one gives up the entry that a number
picks. -/
def boundedPut {α : Type} (cap pick : Nat) (mine : Nat → Bool) (m : Map α) (k : Nat) (x : α) : Map α :=
  let held := m.filter fun p => mine p.1 && p.1 != k
  if held.length < cap then mput m k x
  else
    match held[pick % held.length]? with
    | some p => mput (mdel m p.1) k x
    | none => mput m k x
/-- A line enters an instruction cache, of 128 sets of 8 ways, by its virtual line (R361). [DESIGN CHOICE, log 15] -/
def codePut (pick : Nat) (m : Map (BitVec 1024)) (key : Nat) (d : BitVec 1024) : Map (BitVec 1024) :=
  boundedPut 8 pick (fun k => Config.cacheSet (k % 2 ^ 48) % 128 == Config.cacheSet (key % 2 ^ 48) % 128) m key d

/-- The walk cache of a die holds an entry (R381): 512 entries. -/
def State.keepEntry (s : State) (die level va : Nat) (e : Word) : State :=
  { s with walks := boundedPut 512 (Config.victim s.tick) (fun k => k / 2 ^ 41 == die) s.walks (walkKey die level va) e }
/-- A die's walk cache after a walk: the entries of levels 1 and 2 that it went through (R381). -/
def State.keepWalk (s : State) (die : Nat) (va : Word) : State :=
  match s.tableEntry (some die) 3 va.toNat s.rootTable with
  | .error _ => s
  | .ok e =>
    let s1 := s.keepEntry die 3 va.toNat e
    if e.getLsbD 1 then s1
    else
      match s.tableEntry (some die) 2 va.toNat ((e.extractLsb' 16 40).toNat * 2 ^ 16) with
      | .error _ => s1
      | .ok f => s1.keepEntry die 2 va.toNat f

/-- The physical address a leaf gives. -/
def Leaf.addr (l : Leaf) (va : Word) : Nat := l.pa + va.toNat % l.span

/-- The key of a slice's leaf-cache entry for the 64 KiB page of an address (R381). -/
def leafKey (slice : Nat) (va : Word) : Nat := slice * 2 ^ 39 + va.toNat / 2 ^ 16 % 2 ^ 39

/-- A missed translation (R381): the slice's walker walks the table, and its leaf cache, of 1,024 entries, and the die's walk cache
are filled. -/
def State.leafWalk (s : State) (slice : Nat) (va : Word) (need : Need) : Except Nat (Leaf × State) :=
  match s.dieWalk (slice / 32) va need with
  | .error r => .error r
  | .ok l =>
    .ok (l, { (s.keepWalk (slice / 32) va) with
      leaves := boundedPut 1024 (Config.victim s.tick) (fun k => k / 2 ^ 39 == slice) s.leaves (leafKey slice va) l })

/-- Translation at a slice (R381): the cached leaf when its permissions suffice, else a walk. An address whose bits [63:55] are not all
0 is non-canonical (R54). -/
def State.leafFor (s : State) (slice : Nat) (va : Word) (need : Need) : Except Nat (Leaf × State) :=
  if va.extractLsb' 55 9 ≠ 0 then .error 0
  else
    match mget? s.leaves (leafKey slice va) with
    | some l => if permits need l.rd l.wr l.ex then .ok (l, s) else s.leafWalk slice va need
    | none => s.leafWalk slice va need

/-- The index of a crew's domain (R363): the domain tag of the lines its requests install (R364). -/
def State.domainTag (s : State) (crew : Nat) : Nat := ((s.dieAt (crewDie crew)).domainOf (crewSquad crew)).1

/-- The domains of a die after a write of `HASHCTL` (R363): DOM takes its slices and squads from the others. -/
def domainsAfter (ds : Map Domain) (v : Word) : Map Domain :=
  let dom := (v.extractLsb' 33 3).toNat
  let mem := v.extractLsb' 0 32
  let sq := v.extractLsb' 36 16
  let rest := ds.map fun p => (p.1, { p.2 with members := p.2.members &&& ~~~mem, squads := p.2.squads &&& ~~~sq })
  mput rest dom { members := mem, mode := v.getLsbD 32, squads := sq }
/-- The squads that a domain change affects (R365): those of DOM and of every domain that loses slices or squads, before and after. -/
def affectedSquads (ds : Map Domain) (v : Word) : BitVec 16 :=
  let new := domainsAfter ds v
  let dom := (v.extractLsb' 33 3).toNat
  let of := fun (m : Map Domain) (i : Nat) => (mget { members := 0, mode := false, squads := 0 } m i).squads
  (((ds.filter fun p => mget? new p.1 != some p.2).map Prod.fst) ++ [dom]).foldl (fun q i => q ||| of ds i ||| of new i) 0
/-- Whether a crew holds its new L2 requests at its network interface, while a domain change that affects its squad runs (R365). -/
def State.requestsHeld (s : State) (crew : Nat) : Bool :=
  let d := s.dieAt (crewDie crew)
  match d.change with | some v => d.busy && (affectedSquads d.domains v).getLsbD (crewSquad crew) | none => false

/-- The state of an L1 line of a page kind (R360), under the slice's copy. -/
def Copy.l1State (c : Copy) (kind : Nat) : L1State :=
  match c.st with
  | .f => .fr
  | .d => .ld
  | .e | .m => if kind = 2 then .ls else if c.l1.length ≤ 1 then .mo else .sh
  | _ => if kind = 2 then .ls else .sh
/-- What an L1 line of a state serves without its slice (R360). -/
def L1State.serves (n : Need) : L1State → Bool
  | .mo => true
  | .ld => n.wr && !n.rd
  | _ => !n.wr

/-- An access that hits in its crew's L1 (R360): the line's physical address, with the kind and the permissions its fill copied in. -/
def State.l1Leaf (s : State) (crew : Nat) (va : Word) (need : Need) : Option Leaf :=
  if va.extractLsb' 55 9 ≠ 0 then none
  else
    let a := s.sliceFor crew va
    s.copies.findSome? fun p =>
      if p.1 / 2 ^ 49 == a && p.2.vline == va.toNat / 128 && p.2.dom == s.domainTag crew then
        (p.2.l1.find? fun x => x.crew == crew && (p.2.l1State x.kind).serves need && permits need x.rd x.wr x.ex).map fun x => {
          pa := 128 * (p.1 % 2 ^ 49), span := 128, kind := x.kind, rd := x.rd, wr := x.wr, ex := x.ex, hb := false, log := false, sbank := false }
      else none

/-- An access whose slice holds the line, under its tags, with a permission that the line carries (R381, R382): no translation is
made. -/
def State.sliceLeaf (s : State) (crew : Nat) (va : Word) (need : Need) : Option Leaf :=
  if va.extractLsb' 55 9 ≠ 0 then none
  else
    let a := s.sliceFor crew va
    s.copies.findSome? fun p =>
      if p.1 / 2 ^ 49 == a && p.2.vline == va.toNat / 128 && p.2.dom == s.domainTag crew then
        (p.2.page.filter fun x => permits need x.rd x.wr x.ex).map fun x => {
          pa := 128 * (p.1 % 2 ^ 49), span := 128, kind := x.kind, rd := x.rd, wr := x.wr, ex := x.ex, hb := false, log := false, sbank := false }
      else none

/-- The crews that a recall of a slice's copy goes to (R360): those the slice records, or, with the overflow bit set, every crew whose squad
uses the copy's domain. -/
def State.recallTargets (s : State) (agent : Nat) (c : Copy) : List Nat :=
  if c.overflow then ((List.range 256).map (crewOfDie (agent / 32))).filter fun k => s.domainTag k == c.dom else c.holders

/-- What a virtual address names, for the hardware's own accesses. -/
def State.hwPlace (s : State) (va : Word) : Place :=
  match s.walk va needNone with
  | .ok l => s.place (l.addr va)
  | .error _ => .nowhere
/-- The bytes behind a virtual address, for the hardware's own accesses to records, queues and counters. -/
def State.hwPa (s : State) (va : Word) : Option Nat :=
  match s.walk va needNone with
  | .ok l => s.bytesAt (l.addr va)
  | .error _ => none

end Sys2Proof.Machine
end

