-- ==== Sys2Proof/Machine/Splits.lean ====
section
/-!
DEFINITION. The splits unit (R325–R327): the replay log of scheduler decisions in the crew's system bank.
-/
namespace Sys2Proof.Machine

def splitsHead (c : Word) : Nat := (c.extractLsb' 16 12).toNat
def splitsTail (c : Word) : Nat := (c.extractLsb' 32 12).toNat
def splitsOn (c : Word) : Bool := c.getLsbD 0
/-- GRANTS, CSRS and JOINS act only while EN = 1 (R325). -/
def splitsGrants (c : Word) : Bool := c.getLsbD 0 && c.getLsbD 1
def splitsCsrs (c : Word) : Bool := c.getLsbD 0 && c.getLsbD 2
def splitsJoins (c : Word) : Bool := c.getLsbD 0 && c.getLsbD 3
/-- The buffer is full when (HEAD + 1) mod 4,096 = TAIL (R325). -/
def splitsFull? (c : Word) : Bool := (splitsHead c + 1) % 4096 == splitsTail c
/-- HEAD ← n. -/
def setHead (c : Word) (n : Nat) : Word := (c &&& ~~~(0xFFF0000#64)) ||| (BitVec.ofNat 64 (n % 4096) <<< 16)

/-- Whether the buffer has no room for some records more. -/
def splitsShort (c : Word) (n : Nat) : Bool := decide ((splitsTail c + 4095 - splitsHead c) % 4096 < n)

/-- The place of a record among those of its cycle (R326): the contexts' by WHO, then the cox's and the slices'. -/
def splitsRank (v : Nat) : Nat := if [4, 5, 8, 9, 10].contains (v / 2 ^ 40 % 256) then 256 else v / 2 ^ 48 % 256
/-- Writes a record at an index, behind those of its cycle that come before it; the number bounds how many it passes. -/
def splitsInsert (bank : Memory) (v h : Nat) : Nat → Memory
  | 0 => bank.writeN (0x20000 + 16 * h) 16 v
  | n + 1 =>
    let p := (h + 4095) % 4096
    let u := bank.readN (0x20000 + 16 * p) 16
    if u % 2 ^ 40 = v % 2 ^ 40 ∧ splitsRank v < splitsRank u then splitsInsert (bank.writeN (0x20000 + 16 * h) 16 u) v p n
    else bank.writeN (0x20000 + 16 * h) 16 v
/-- Writes one 16-byte record, in CYC order and those of one cycle in ascending WHO (R326): CYC, KIND, WHO, AUX, DATA. -/
def State.splitsPut (s : State) (k kind who aux data : Nat) : State :=
  let cyc := s.cycle k % 2 ^ 40
  s.updCrew k fun c =>
    let h := splitsHead c.splitctl
    let v := cyc + 2 ^ 40 * kind + 2 ^ 48 * who + 2 ^ 56 * (aux % 256) + 2 ^ 64 * (data % 2 ^ 64)
    { c with
      sysbank := splitsInsert c.sysbank v h ((h + 4096 - splitsTail c.splitctl) % 4096), splitctl := setHead c.splitctl (h + 1) }

/-- The seat and context of R326's WHO byte. -/
def whoOf (n : Nat) : Nat := n / 4 + 8 * (n % 4)

/-- Whether an event of the cox would not fit: the cox then delays the decision it would record (R327). -/
def State.splitsLacks (s : State) (k : Nat) : Bool :=
  let c := s.crewAt k
  splitsOn c.splitctl && (splitsFull? c.splitctl || c.splitsHeld != [])

/-- Whether the start or the park of a task, with the grant it fixes (R166), would not fit. -/
def State.splitsLacksTask (s : State) (k : Nat) : Bool :=
  let c := (s.crewAt k).splitctl
  s.splitsLacks k || (splitsGrants c && splitsShort c 2)

/-- An event of the cox: recorded while EN = 1; one that does not fit waits and raises splits-full (R327). [DEDUCED, log 40] -/
def State.splitsCox (s : State) (k kind who aux data : Nat) : State :=
  let c := s.crewAt k
  if splitsOn c.splitctl then
    if s.splitsLacks k then
      (s.updCrew k fun c => { c with splitsHeld := c.splitsHeld ++ [(kind, who, aux, data)] }).push (.splitsFull k)
    else s.splitsPut k kind who aux data
  else s

/-- Writes the waiting events that fit; the number bounds how many. -/
def State.splitsFlush (s : State) (k : Nat) : Nat → State
  | 0 => s
  | n + 1 =>
    match (s.crewAt k).splitsHeld with
    | [] => s
    | (kind, who, aux, data) :: r =>
      if splitsFull? (s.crewAt k).splitctl then s
      else ((s.updCrew k fun c => { c with splitsHeld := r }).splitsPut k kind who aux data).splitsFlush k n

/-- The crew whose buffer a slice logs into (R325): in-die position (s mod 16, 8 × (s div 16)). -/
def loggingCrew (agent : Nat) : Nat := crewOfDie (agent / 32) (16 * (8 * (agent % 32 / 16)) + agent % 16)

/-- The source of a join in a splits record (R326), with AUX: 1 when it comes from another package. The host's joins are
recorded as another package's, under the id that names host memory; the stakeboat's as source 0. [DESIGN CHOICE, log 113] -/
def recordSource : JoinSource → Nat × Nat
  | .context c => (0, 32 * c.crew + c.n)
  | .package p => (1, p)
  | .host => (1, 0x7FFF)
  | .slice => (0, 0)

/-- Whether the page that a join names logs its joins (R325, R382): a host join names no virtual address, and its page is found among
the leaves that slices hold. [DESIGN CHOICE, log 113] -/
def State.logsJoins (s : State) (l : Nat) (j : JoinMsg) : Bool :=
  if j.src == .host then s.leaves.any fun p => p.2.log && decide (p.2.pa ≤ 128 * l) && decide (128 * l < p.2.pa + p.2.span)
  else match s.walk j.va needNone with | .ok p => p.log | .error _ => false

/-- A join's arrival at a slice, recorded in the buffer of the slice's crew where its page asks for it (R325, R326); none when the record
does not fit (R327). -/
def State.logJoin (s : State) (agent l : Nat) (j : JoinMsg) : Option State :=
  let k := loggingCrew agent
  let c := (s.crewAt k).splitctl
  if splitsJoins c && s.logsJoins l j then
    if splitsFull? c then none else some (s.splitsPut k 8 0 (recordSource j.src).1 (l % 2 ^ 49 + 2 ^ 49 * ((recordSource j.src).2 % 2 ^ 15)))
  else some s

/-- Whether something waits for room in a crew's buffer (R327): an event of the cox, the end of a task, or a join that a slice holds. -/
def State.splitsWaits (s : State) (k : Nat) : Bool :=
  let c := s.crewAt k
  c.splitsHeld != [] || s.heldJoins.any (fun h => loggingCrew h.agent == k) ||
    c.ctxs.any fun p => (match p.2.wait with | some (.retiring _) => true | _ => false)

/-- A slice holds a join that its crew's buffer cannot record, under the line's busy bit (R327). -/
def State.holdJoin (s : State) (agent l : Nat) (j : JoinMsg) (owed : Option Nat) : State :=
  let h : HeldJoin := { agent := agent, line := l, join := j, owed := owed }
  { s with heldJoins := s.heldJoins ++ [h] }.push (.splitsFull (loggingCrew agent))

end Sys2Proof.Machine
end

