-- ==== Sys2Proof/Machine/Home.lean ====
section
/-!
DEFINITION. The homes of lines (R373–R378): reads, ownership, uncached writes, joins, deltas, watches and freezes, each one
action, with the undo log (R407) and the code shadow (R361) a home keeps before it changes a line.
-/
namespace Sys2Proof.Machine

/-- How a write that was accepted can fail at its home (R230). -/
inductive Fail where
  | lost | refused | poisoned | timedout
  deriving DecidableEq, Repr

def Failures.add (f : Failures) : Fail → Failures
  | .lost => { f with lost := f.lost + 1 }
  | .refused => { f with refused := f.refused + 1 }
  | .poisoned => { f with poisoned := f.poisoned + 1 }
  | .timedout => { f with timedout := f.timedout + 1 }
def Failures.none : Failures := { lost := 0, refused := 0, poisoned := 0, timedout := 0 }
def Failures.merge (a b : Failures) : Failures :=
  { lost := a.lost + b.lost, refused := a.refused + b.refused, poisoned := a.poisoned + b.poisoned,
    timedout := a.timedout + b.timedout }

/-- A report on its way to its queue (R212, R320). -/
def State.post (s : State) (r : Report) : State := { s with posts := s.posts ++ [r] }

/-! The undo log and the code shadow. -/

/-- The two pages of the launch window (R415). -/
def State.isWindowPage (s : State) (page : Nat) : Bool := page == s.windowBase / 65536 || page == s.windowBase / 65536 + 1
/-- Whether the host may use a physical page's lines without the device: the bias table's bit (R416). -/
def State.hostBias (s : State) (page : Nat) : Bool := s.isWindowPage page || s.pkg.hostPages.contains page

/-- 32 n bytes behind an address map, which keeps 32 bytes together, little-endian. -/
def State.readChunks (s : State) (at' : Nat → Option Nat) (o : Nat) : Nat → Nat
  | 0 => 0
  | n + 1 => (match at' o with | some p => s.readPa p 32 | none => 0) + 2 ^ 256 * s.readChunks at' (o + 32) n
/-- Stores them. -/
def State.pokeChunks (s : State) (at' : Nat → Option Nat) (o v : Nat) : Nat → State
  | 0 => s
  | n + 1 => (match at' o with | some p => s.poke p 32 (v % 2 ^ 256) | none => s).pokeChunks at' (o + 32) (v / 2 ^ 256) n

/-- The undo region of the acting launch (R406): its base and length, when the phase has one. -/
def State.undoRegion (s : State) : Option (Word × Nat) :=
  match s.slotOf s.actor with
  | none => none
  | some i =>
    let len := (s.slotAt i).field 0xB0 8
    if s.actor = noLaunch ∨ len = 0 then none else some (BitVec.ofNat 64 ((s.slotAt i).field 0xA8 8), len)

/-- Whether the acting launch belongs to a phase with undo: what it writes is performed at the homes, and logged (R407). -/
def State.undoActs (s : State) : Bool := s.undoRegion.isSome
/-- Whether a launch of a phase with undo runs: a request of an agent that names no launch is then granted neither ownership nor a delta
(R407). -/
def State.undoRunning (s : State) : Bool :=
  s.slots.any fun p => (p.2.state == 2 || p.2.state == 5) && p.2.field 0xB0 8 != 0

/-- The number of entries the log holds room for (R406). -/
def undoCap (len : Nat) : Nat := (len - len / 64 - 0x4040) / 160

/-- Whether a line lies in the undo region itself. -/
def State.inUndo (s : State) (va : Word) (len l : Nat) : Bool :=
  (List.range (len / 65536)).any fun i =>
    match s.hwPa (va + BitVec.ofNat 64 (65536 * i)) with
    | some p => p / 65536 == l / 512
    | none => false

/-- Appends the pre-image of a line of device memory to the undo log of the acting launch (R407, R408); lines of the region itself and of
host-bias pages are not logged. [DEDUCED, log 73] -/
def State.undoAppend (s : State) (l : Nat) : State :=
  match s.undoRegion with
  | none => s
  | some (va, len) =>
    let at' := fun (o : Nat) => s.hwPa (va + BitVec.ofNat 64 (len / 64 + o))
    match at' 0x4000, at' 0x4010 with
    | some tp, some op =>
      let tail := s.readPa tp 8
      if l / 2 ^ 34 ≠ s.pkg.pkgid ∨ s.readPa op 8 ≠ 0 ∨ undoCap len ≤ tail ∨ s.inUndo va len l ∨ s.hostBias (l / 512) then s
      else
        let v := 128 * l + 2 ^ 64 * (s.metaOf l).bits.toNat + 2 ^ 128 * tail + 2 ^ 256 * (s.memLine l).toNat
        let s1 := (s.pokeChunks at' (0x4040 + 160 * tail) v 5).poke tp 8 (tail + 1)
        if tail + 1 = undoCap len then s1.poke op 8 1 else s1
    | _, _ => s

/-- How many entries the acting launch's code shadow holds room for (R361). [DEDUCED, log 16] -/
def State.shadowRoom (s : State) : Nat :=
  match s.undoRegion with
  | some (_, len) => len / 64 / 144
  | none => s.pkg.poolLen / 144
/-- The region that the acting launch uses: its phase's undo region, which the launches of the phase share, or the package's pool. -/
def State.shadowRegion (s : State) : Option Nat := s.undoRegion.map fun r => r.1.toNat
/-- The lowest free entry of that region. -/
def State.shadowFree (s : State) : Option Nat :=
  let used := (s.shadows.filter fun e => e.region == s.shadowRegion).map Shadow.index
  ((List.range (used.length + 1)).find? fun j => !used.contains j).filter fun j => decide (j < s.shadowRoom)

/-- The first write of the acting launch to a line of executable ordinary memory (R361): its content goes to the shadow first.
None when the shadow is full. -/
def State.shadowCopy (s : State) (exec : Bool) (l : Nat) : Option State :=
  if !exec || s.actor == noLaunch || s.shadows.any (fun e => e.launch == s.actor && e.line == l) then some s
  else
    match s.shadowFree with
    | none => none
    | some n =>
      let d := s.lineData l
      let base := match s.undoRegion with
        | some (va, _) => s.hwPa (va + BitVec.ofNat 64 (144 * n))
        | none => some (s.pkg.pkgid * 2 ^ 41 + s.pkg.poolBase + 144 * n)
      let s1 := match base with
        | some p => (s.poke p 16 (128 * l + 2 ^ 64 * s.actor)).poke (p + 16) 128 d.toNat
        | none => s
      some { s1 with shadows := s1.shadows ++ [{ launch := s.actor, line := l, data := d, region := s.shadowRegion, index := n }] }

/-! Ordinary and system lines (R376). -/

/-- A clean copy of a line. -/
def freshCopy (st : CopyState) (d : BitVec 1024) : Copy where
  st := st
  vline := 0
  dom := 0
  l1 := []
  data := d
  filled := false
  top := false
  last := none

/-- A line's set in a cache of some sets of so many ways is full beside the line itself: the copy it gives up, of those selected (R360,
R362). -/
def State.crowded (s : State) (ways sets l : Nat) (mine : Nat → Copy → Bool) : Option (Nat × Copy) :=
  let held := s.copies.filter fun p => p.1 % 2 ^ 49 != l && mine (p.1 / 2 ^ 49) p.2
  if held.length < ways then none
  else
    let same := held.filter fun p => Config.cacheSet (p.1 % 2 ^ 49) % sets == Config.cacheSet l % sets
    if same.length < ways then none else same[Config.victim s.tick % same.length]?
/-- The ways of a slice that cache lines (R362): 14 while a partition's context shadows use the other two (R399). -/
def State.sliceWays (s : State) : Nat := if s.pkg.recovery.out = [] then 16 else 14
/-- An agent takes a copy of a line it did not hold: a full set of a slice recalls one of its lines, by a probe of its own (R362).
[DESIGN CHOICE, log 15] -/
def State.newCopy (s : State) (agent l : Nat) (c : Copy) : State :=
  let s1 := s.putCopy agent l c
  if agent < 128 then
    match s1.crowded s1.sliceWays 8192 l fun b _ => b == agent with
    | some p => s1.push (.probe agent (p.1 % 2 ^ 49) p.2.tag .invalidate)
    | none => s1
  else s1

/-- The copy an agent receives keeps the virtual tag and holders it had. -/
def State.install (s : State) (agent l : Nat) (st : CopyState) (d : BitVec 1024) : State :=
  match s.copyAt? agent l with
  | some c => s.putCopy agent l { c with st := st, data := d }
  | none => s.newCopy agent l (freshCopy st d)

/-- The home's answer to a read (R376). Without ownership grants (R407) a first reader shares. [DESIGN CHOICE, log 14; DEDUCED, log 21] -/
def State.homeRead (s : State) (agent l : Nat) : State :=
  let m := s.metaOf l
  let d := s.lineData l
  let id := BitVec.ofNat 15 agent
  if m.hstate = hsI then
    let h := if s.undoActs then hsS else hsE
    (s.setMeta l { m with hstate := h, holder := id }).install agent l (if h = hsE then .e else .s) d
  else if m.hstate = hsS then
    (s.setMeta l { m with holder := if m.holder = id then id else holderMany }).install agent l .s d
  else if m.hstate = hsE then
    let s1 := match s.copyAt? m.holder.toNat l with
      | some c => s.putCopy m.holder.toNat l { c with st := .s }
      | none => s
    (s1.setMeta l { m with hstate := hsS, holder := holderMany }).install agent l .s d
  else if m.hstate = hsM then
    let s1 := match s.copyAt? m.holder.toNat l with
      | some c => s.putCopy m.holder.toNat l { c with st := .o }
      | none => s
    (s1.setMeta l { m with hstate := hsO }).install agent l .s d
  else if m.hstate = hsO then s.install agent l .s d
  else s.install agent l .f d

/-- The home's answer to a request for ownership (R376): every other copy is invalidated. -/
def State.homeWriteOwn (s : State) (agent l : Nat) : State :=
  let m := s.metaOf l
  let d := s.lineData l
  ((s.dropOthers agent l).setMeta l { m with hstate := hsM, holder := BitVec.ofNat 15 agent }).install agent l .m d

/-- Every copy of a line is invalidated and modified data is written to memory: the line is in I. -/
def State.flushLine (s : State) (l : Nat) : State :=
  let d := s.lineData l
  let m := s.metaOf l
  let s1 := if m.hstate = hsM ∨ m.hstate = hsO then s.pokeLine l d else s
  { (s1.setMeta l { m with hstate := hsI, holder := 0 }) with
    copies := s1.copies.filter fun p => p.1 % 2 ^ 49 != l }

/-- Whether a bit mask enables whole 32-byte atoms only. -/
def wholeAtoms (mask : BitVec 1024) : Bool :=
  (List.range 4).all fun i => let a := mask.extractLsb' (256 * i) 256; a == 0 || a == BitVec.allOnes 256

/-- Merges enabled bits. -/
def mergeBits (old data mask : BitVec 1024) : BitVec 1024 := (old &&& ~~~mask) ||| (data &&& mask)

/-- An uncached write at the home (R376, R404): the line is in I afterwards. A poisoned line takes whole atoms only, and a
write of all of it clears the poison. -/
def State.homeUncachedWrite (s : State) (l : Nat) (data mask : BitVec 1024) : State × Option Fail :=
  let s1 := s.flushLine l
  let m := s1.metaOf l
  if m.poison && !wholeAtoms mask then (s1, some .poisoned)
  else
    let s2 := s1.undoAppend l
    let s3 := s2.pokeLine l (mergeBits (s2.memLine l) data mask)
    (if mask = BitVec.allOnes 1024 then s3.setMeta l { m with poison := false } else s3, none)

/-- A write-back from an agent (R376): stale unless the home names it as the owner. -/
def State.homeWriteBack (s : State) (agent l : Nat) : State :=
  let m := s.metaOf l
  match s.copyAt? agent l with
  | none => s
  | some c =>
    if m.holder = BitVec.ofNat 15 agent ∧ (m.hstate = hsM ∨ m.hstate = hsO) then
      let s1 := (s.dropCopy agent l).pokeLine l c.data
      if m.hstate = hsM then s1.setMeta l { m with hstate := hsI, holder := 0 }
      else s1.setMeta l { m with hstate := hsS, holder := holderMany }
    else s

/-! Lattice lines (R377). -/

/-- A lattice line's state at its home. -/
def State.latLine (s : State) (l : Nat) : LatLine :=
  { data := s.memLine l, filled := (s.metaOf l).filled, top := (s.metaOf l).top }

/-- Writes a lattice line's state, its pre-image logged first. -/
def State.setLatLine (s : State) (l : Nat) (x : LatLine) : State :=
  ((s.undoAppend l).pokeLine l x.data).updMeta l fun m => { m with filled := x.filled, top := x.top }
/-- The same on behalf of another launch (R407). -/
def State.setLatLineFor (s : State) (launch l : Nat) (x : LatLine) : State :=
  { { s with actor := launch }.setLatLine l x with actor := s.actor }

/-- The reports a merge causes (R211): each element that newly holds its top value, or a FILL1 conflict. -/
def topReports (l : Nat) (t : LatType) (wc : Nat) (a b : LatLine) (j : JoinMsg) : List Report :=
  let r := fun (kind i : Nat) => ({
    kind := kind, addr := 128 * l, aux := j.va.toNat / 128 * 128, launch := j.launch, serial := j.serial,
    pc := j.pc.toNat, code := i, typ := latCode t, wid := wc } : Report)
  if t = .fill1 then if b.top && !a.top then [r 1 0] else []
  else
    let w := latWidth t wc
    ((List.range (1024 / w)).filter fun i =>
      some (lineElem t wc i b.data) == topElem t w && some (lineElem t wc i a.data) != topElem t w).map (r 2)

/-- Whether an arena of some lines at a virtual address holds a line: page by page (R310). -/
def State.arenaHas (s : State) (base lines l : Nat) : Bool :=
  (List.range ((base % 65536 + 128 * lines + 65535) / 65536)).any fun i =>
    let lo := max base ((base / 65536 + i) * 65536)
    let hi := min (base + 128 * lines) ((base / 65536 + i + 1) * 65536)
    match s.hwPa (BitVec.ofNat 64 lo) with
    | some p => decide (lineOf p ≤ l) && decide (l < lineOf p + (hi - lo) / 128)
    | none => false

/-- The report of a host join goes to every launch that is not complete (STATE 2, or 5 while stalled) and watches the line or lists its
arena, or is counted (R223). [DEDUCED, log 90] -/
def State.hostReport (s : State) (l : Nat) (r : Report) : State :=
  let ls := s.slots.filter fun p => (p.2.state == 2 || p.2.state == 5) &&
    (p.2.arenas.any (fun a => s.arenaHas a.1 a.2.1 l) ||
     s.watches.any fun w => w.line == l && (match w.waiter with
       | .context c => (s.ctxAt c).launchId == p.2.launch
       | .parked r _ => (match s.hwPa r with | some q => s.readPa (q + 0x24) 4 == p.2.launch | none => false)
       | .launch _ _ => false))
  if ls = [] then { s with hostrep := s.hostrep + 1 }
  else ls.foldl (fun s p => s.post { r with launch := p.2.launch, serial := 0, pc := 0 }) s

/-- Posts the reports of a merge. -/
def State.postMerge (s : State) (l : Nat) (fromHost : Bool) (rs : List Report) : State :=
  rs.foldl (fun s r => if fromHost then s.hostReport l r else s.post r) s

/-! Watches (R222, R378). -/

/-- The crew with a logical coordinate (R17). -/
def State.crewOfLogical (s : State) (lx ly : Nat) : Option Nat :=
  (s.crews.find? fun p => p.2.logical == some (32 * ly + lx)).map Prod.fst

/-- Reads and writes of a record's fields by the hardware (R36). -/
def State.recRead (s : State) (r : Word) (off n : Nat) : Nat :=
  match s.hwPa (r + BitVec.ofNat 64 off) with
  | some p => s.readPa p n
  | none => 0
/-- A hardware write of `n` bytes that lie in one line: an uncached write at the home. -/
def State.hwWrite (s : State) (pa n v : Nat) : State :=
  let sh := 8 * (pa % 128)
  let mask : BitVec 1024 := BitVec.ofNat 1024 ((2 ^ (8 * n) - 1) <<< sh)
  (s.homeUncachedWrite (lineOf pa) (BitVec.ofNat 1024 (v <<< sh)) mask).1
/-- The launch of a record. -/
def State.recordLaunch (s : State) (r : Word) : Nat := if r = 0 then noLaunch else s.recRead r 0x24 4
def State.recWrite (s : State) (r : Word) (off n v : Nat) : State :=
  match s.hwPa (r + BitVec.ofNat 64 off) with
  | some p => s.hwWrite p n v
  | none => s

/-- Whether a crew takes part in a launch that runs (R309). -/
def State.takesPart (s : State) (launch k : Nat) : Bool :=
  match s.slotOf launch with | some i => (s.slotAt i).crews.contains k | none => false

/-- The crew whose ready queue a record joins (R39, R44, R221, R309): the crew of PSLOT for a pinned continuation, the crew of AFFIN
when it takes part, else the given crew; none when PIN names a crew that does not take part. -/
def State.queueFor (s : State) (r : Word) (dflt : Nat) : Option Nat :=
  let flags := s.recRead r 0x2E 2
  let pslot := s.recRead r 0x3E 2
  let aff := s.recRead r 0x38 2
  let launch := s.recRead r 0x24 4
  if flags / 2 % 2 = 1 then some ((s.crewOfLogical (pslot / 64 % 32) (pslot / 2048 % 32)).getD dflt)
  else if aff / 2 ^ 14 ≠ 0 then
    match s.crewOfLogical (aff % 32) (aff / 32 % 32) with
    | some k => if s.takesPart launch k then some k else if aff / 2 ^ 15 = 1 then none else some dflt
    | none => if aff / 2 ^ 15 = 1 then none else some dflt
  else some dflt

/-- A message for a crew: delivered as an event, or spilled while the crew is swapped out (R400). -/
def State.deliver (s : State) (k : Nat) (e : Instr) (m : Msg) : State :=
  s.push (if (s.crewAt k).away then .messageSpill k m else e)

/-- A parked record's watch fires (R221): WAKE becomes pending with the code, and the record is enqueued. The wake-up of a crew that is
swapped out is spilled (R400). -/
def State.wakeRecord (s : State) (r : Word) (crew code : Nat) : State :=
  let k := (s.queueFor r crew).getD crew
  if (s.crewAt k).away then s.push (.messageSpill k (.wake r code))
  else
    let w := s.recRead r 0x3C 2
    let s1 := s.recWrite r 0x3C 2 (w % 64 + 64 * code + 512)
    let f := s1.recRead r 0x2E 2
    let s2 := s1.recWrite r 0x2E 2 (f &&& 0xFFEF)
    let prio := s2.recRead r 0x3A 1 % 4
    s2.push (.recordEnqueue k r prio 32)

/-- A watch fires with a code (R222, R308); a threshold passed is progress (R324). -/
def State.fire (s : State) (w : Watch) (code : Nat) : State :=
  match w.waiter with
  | .context c => (s.updCtx c fun x => { x with answer := some code }).progress (s.ctxAt c).launchId
  | .parked r k => (s.wakeRecord r k code).progress (s.recRead r 0x24 4)
  | .launch i d =>
    (s.updSlot i fun x =>
      if code = 5 then (if x.state = 1 then { x with depDead := true } else x)
      else if d = 0 then { x with dep0 := true } else { x with dep1 := true }).push (.launchRelease i)

/-- Removes watches; WATCH ← 0 with a line's last one (R378). -/
def State.dropWatches (s : State) (p : Watch → Bool) (l : Nat) : State :=
  let ws := s.watches.filter fun w => !(w.line == l && p w)
  { (s.updMeta l fun m => { m with watch := ws.any fun w => w.line == l }) with watches := ws }

/-- Every watch of a line re-evaluates (R222). -/
def State.evalWatches (s : State) (l : Nat) : State :=
  let x := s.latLine l
  let fz := (s.metaOf l).frozen
  let due := s.watches.filterMap fun w =>
    if w.line = l then (answer w.ltype w.width w.elem w.trigs x fz).map fun c => (w, c) else none
  let s1 := s.dropWatches (fun w => (answer w.ltype w.width w.elem w.trigs x fz).isSome) l
  due.foldl (fun s wc => s.fire wc.1 wc.2) s1

/-- Removes a context's watches, as an interrupt or a cancellation does (R220, R378). -/
def State.dropContextWatches (s : State) (c : CtxId) : State :=
  let ls := (s.watches.filter fun w => w.waiter == .context c).map Watch.line
  ls.foldl (fun s l => s.dropWatches (fun w => w.waiter == .context c) l) s

/-! Joins, deltas and freezes. -/

/-- What a home makes of a join (R213, R215). -/
inductive JoinResult where
  | merged | typeMismatch | widthMismatch | frozen | poisoned | held
  deriving DecidableEq, Repr

/-- The checks of type, width and frozen state, in the order of R213. -/
def State.joinCheck (s : State) (l : Nat) (t : LatType) (wc : Nat) : JoinResult :=
  let m := s.metaOf l
  if m.type.toNat ≠ latCode t then .typeMismatch
  else if m.width.toNat ≠ wc then .widthMismatch
  else if m.frozen then .frozen
  else if m.poison then .poisoned
  else .merged

/-- Merges data into a line at its home, with the reports and the watches that follow (R211, R222). -/
def State.mergeHome (s : State) (l : Nat) (j : JoinMsg) : State :=
  let a := s.latLine l
  let b := latJoin j.ltype j.width a j.data
  (((s.setLatLine l b).postMerge l j.fromHost (topReports l j.ltype j.width a b j)).evalWatches l).progress j.launch

/-- The report of a join that its line refuses (R212). -/
def joinReport (kind l : Nat) (j : JoinMsg) : Report where
  kind := kind
  addr := 128 * l
  aux := j.va.toNat / 128 * 128
  launch := j.launch
  serial := j.serial
  pc := j.pc.toNat
  code := j.elem
  typ := latCode j.ltype
  wid := j.width

/-- A join or a count notice at the line's home (R213, R215, R377). Its arrival is recorded whether the line takes it or refuses it; a join the splits buffer cannot record is held, under the entry
that counts it (R327). A host's join is recorded like any other. [DESIGN CHOICE, log 113] -/
def State.joinAtHome (s : State) (l : Nat) (j : JoinMsg) (owed : Option Nat) : State × JoinResult :=
  match (if j.countOnly then some s else s.logJoin (homeOf l) l j) with
  | none => (s.holdJoin (homeOf l) l j owed, .held)
  | some s1 =>
    match s1.joinCheck l j.ltype j.width with
    | .merged => (if j.countOnly then s1 else s1.mergeHome l j, .merged)
    | .frozen => (if j.fromHost then s1.hostReport l (joinReport 3 l j) else s1.post (joinReport 3 l j), .frozen)
    | e => (s1, e)

/-- The delta of a slice that absorbs joins of the acting launch: those of a phase with undo are performed at the home (R214, R407). -/
def State.absorber (s : State) (agent l : Nat) : Option Copy :=
  (s.copyAt? agent l).filter fun c => c.st == .d && !s.undoActs
/-- A join absorbed by a delta (R214). Its arrival is the one at the absorbing slice, and is recorded there (R325); the drain brings no
further one. [DESIGN CHOICE, log 113] -/
def State.joinDelta (s : State) (agent l : Nat) (c : Copy) (j : JoinMsg) (owed : Option Nat) : State × JoinResult :=
  match s.logJoin agent l j with
  | none => (s.holdJoin agent l j owed, .held)
  | some s1 =>
    let x := latJoin j.ltype j.width { data := c.data, filled := c.filled, top := c.top } j.data
    (s1.putCopy agent l { c with data := x.data, filled := x.filled, top := x.top, last := some j }, .merged)

/-- Drains an agent's delta into the home value (R377), on behalf of the launch whose joins it absorbed (R407). A FILL1 delta that never
was filled adds nothing. -/
def State.deltaDrain (s : State) (agent l : Nat) : State :=
  match s.copyAt? agent l with
  | none => s
  | some c =>
    if c.st ≠ .d then s
    else
      let m := s.metaOf l
      let s1 := s.dropCopy agent l
      let s2 := if m.hstate = hsDOne ∧ m.holder = BitVec.ofNat 15 agent
        then s1.setMeta l { m with hstate := hsI, holder := 0 } else s1
      match c.last with
      | none => s2
      | some j =>
        let a := s2.latLine l
        let b0 := latJoin j.ltype j.width a c.data
        let b := if c.top then { b0 with top := true } else b0
        (((s2.setLatLineFor j.launch l b).postMerge l j.fromHost (topReports l j.ltype j.width a b j)).evalWatches l).progress j.launch

/-- The agents of other packages whose delta of a line is lost: they lie behind a dead link (R226). A launch's participating packages
are agents 0x4000 + k in their order (R372). -/
def State.lostMembers (s : State) (l : Nat) : List Nat :=
  let pkgs := match s.slotOf s.actor with | some i => (s.slotAt i).pkgs | none => []
  ((s.copiesOf l).filter fun p => p.2.st == .d && decide (0x4000 ≤ p.1) && decide (p.1 < 0x403F) &&
    (match pkgs[p.1 - 0x4000]? with | some k => !s.routeUp k | none => false)).map Prod.fst

/-- Recalls every delta of a line (R222, R225, R377): the line is then in I. A delta behind a dead link is lost, and poisons the
line (R226). -/
def State.recallDeltas (s : State) (l : Nat) : State :=
  let lost := s.lostMembers l
  let s0 := lost.foldl (fun s a => s.dropCopy a l) s
  let s1 := ((s0.copiesOf l).filter fun p => p.2.st == .d).foldl (fun s p => s.deltaDrain p.1 l) s0
  s1.updMeta l fun m =>
    let m1 := if lost = [] then m else { m with poison := true }
    if m1.hstate = hsDOne ∨ m1.hstate = hsDMany then { m1 with hstate := hsI, holder := 0 } else m1

/-- Whether an agent joins a line into a delta of its own. -/
def State.holdsDelta (s : State) (agent l : Nat) : Bool := match s.copyAt? agent l with | some c => c.st == .d | none => false
/-- A lower-bound fill (R377): an untracked copy of the home value; F on a frozen line. -/
def State.lowerBoundFill (s : State) (agent l : Nat) : State :=
  match s.copyAt? agent l with
  | some c => s.putCopy agent l { c with st := if (s.metaOf l).frozen then .f else .s, data := s.memLine l }
  | none => s.newCopy agent l (freshCopy (if (s.metaOf l).frozen then .f else .s) (s.memLine l))

/-- Whether the home refuses a delta (R377): on a watched, frozen or untyped line, and while a launch with undo runs (R407). -/
def State.grantRefused (s : State) (agent l : Nat) : Bool :=
  let m := s.metaOf l
  m.watch || m.frozen || m.type == 0xF || s.undoRunning || s.holdsDelta agent l
/-- A delta grant (R377). -/
def State.deltaGrant (s : State) (agent l : Nat) : State :=
  let m := s.metaOf l
  let t := latOfCode m.type.toNat
  let id := BitVec.ofNat 15 agent
  let m' := if m.hstate = hsI then { m with hstate := hsDOne, holder := id }
    else if m.hstate = hsDOne ∧ m.holder ≠ id then { m with hstate := hsDMany, holder := 0 } else m
  (s.setMeta l m').install agent l .d (bottomLine t m.width.toNat)

/-- The place of a further entry in a table of a slice: none while the table has room, else the lowest free one of its overflow region. -/
def overflowSlot (room : Nat) (used : List (Option Nat)) : Option Nat :=
  if used.countP Option.isNone < room then none else (List.range (used.length + 1)).find? fun j => !used.contains (some j)
/-- Writes a spilled entry into an overflow region (R378, R379). [DESIGN CHOICE, log 123] -/
def State.writeSpilled (s : State) (base : Nat) : Option Nat → State
  | none => s
  | some j =>
    match s.bytesAt (base + Config.overflowLen * j) with
    | some p => s.poke p Config.overflowLen (Config.overflowBytes s.tick)
    | none => s
/-- Registers a watch (R222): deltas are recalled, WATCH is set, and the watch fires at once if its answer is known. A slice holds 16,384
entries and spills more to its overflow region, where they behave the same (R222, R378). -/
def State.registerWatch (s : State) (w : Watch) : State :=
  let home := homeOf w.line
  let x := overflowSlot 16384 ((s.watches.filter fun v => homeOf v.line == home).map Watch.spill)
  let s1 := ((s.recallDeltas w.line).updMeta w.line fun m => { m with watch := true }).writeSpilled (mget (0, 0) s.pkg.boot.overflow home).1 x
  { s1 with watches := s1.watches ++ [{ w with spill := x }] }.evalWatches w.line

/-- An agent's copy of a line being frozen: a delta drains, and the copy becomes F (R225). -/
def State.freezeNotice (s : State) (agent l : Nat) : State :=
  let s1 := s.deltaDrain agent l
  match s1.copyAt? agent l with
  | some c => s1.putCopy agent l { c with st := .f, data := s1.memLine l }
  | none => s1

/-- Freezes one line (R225): deltas drain, FROZEN is set, copies become F, and every watch fires. A frozen line is left as it
is (R226). -/
def State.freezeLine (s : State) (l : Nat) : State :=
  if (s.metaOf l).frozen then s
  else
    let s1 := (s.recallDeltas l).undoAppend l
    let s2 := s1.updMeta l fun m => { m with hstate := hsF, holder := 0, frozen := true }
    ((s2.copiesOf l).foldl (fun s p => s.freezeNotice p.1 l) s2).evalWatches l

/-- Resets one line of an arena at a phase boundary (R227): watches fire with code 5, deltas are discarded, and the line is at
the bottom of its type with its generation raised. [DEDUCED, log 28] -/
def State.resetLine (s : State) (l : Nat) : State :=
  let ws := s.watches.filter fun w => w.line == l
  let s1 := ws.foldl (fun s w => s.fire w 5) (s.dropWatches (fun _ => true) l)
  let m := s1.metaOf l
  let s2 := { s1 with copies := s1.copies.filter fun p => p.1 % 2 ^ 49 != l }
  let s3 := if m.type = 0xF then s2 else s2.pokeLine l (bottomLine (latOfCode m.type.toNat) m.width.toNat)
  s3.setMeta l { m with hstate := hsI, holder := 0, frozen := false, filled := false, top := false, watch := false,
                        gen := m.gen + 1 }

/-- `LTYPE` at the home (R216): true when the line was at bottom and is now typed. -/
def State.typeLine (s : State) (l : Nat) (t : LatType) (wc : Nat) : State × Bool :=
  let s1 := s.recallDeltas l
  let m := s1.metaOf l
  let atBottom := m.type == 0xF ||
    (!m.filled && !m.top && decide (s1.memLine l = bottomLine (latOfCode m.type.toNat) m.width.toNat))
  if m.frozen || !atBottom then (s1, false)
  else
    let s2 := (s1.undoAppend l).pokeLine l (bottomLine t wc)
    let s3 := { s2 with copies := s2.copies.filter fun p => p.1 % 2 ^ 49 != l }
    (s3.setMeta l { m with type := BitVec.ofNat 4 (latCode t), width := BitVec.ofNat 2 wc, filled := false, top := false,
                           hstate := hsI, holder := 0 }, true)

/-! Requests and the busy list (R373, R374). -/

/-- One atomic's new value (R207). -/
def atomicNew (op n old cmp new : Nat) : Nat :=
  if op = 0 then new % 256 ^ n
  else if op = 1 then (if old = cmp % 256 ^ n then new % 256 ^ n else old)
  else (old + new) % 256 ^ n
/-- A system atomic at its home (R208): one indivisible read and write of a line's word; poison leaves it unchanged. -/
def State.atomicAtHome (s : State) (pa : Nat) (op : BitVec 3) (dbl : Bool) (cmp new : Word) : State :=
  let n := if dbl then 8 else 4
  let old := s.readPa pa n
  let v := atomicNew op.toNat n old cmp.toNat new.toNat
  if (s.metaOf (lineOf pa)).poison || (v == old && op == 1) || s.slotGuarded (lineOf pa) then s else s.hwWrite pa n v

/-- Whether a line is lattice or frozen (R377): it is typed, or frozen. -/
def State.isLattice (s : State) (l : Nat) : Bool := (s.metaOf l).type != 0xF || (s.metaOf l).frozen

/-- The home's reply to a fill is on its way to an agent under a tag (R375). [DESIGN CHOICE, log 14] -/
def State.reply (s : State) (agent l : Nat) : State :=
  match s.copyAt? agent l with
  | none => s
  | some c => (s.putCopy agent l { c with tag := s.tick % 4096, landed := false }).push (.fillReply agent l (s.tick % 4096))

/-- A home serves a request as one action (R373, R376, R377); what it needs of other agents is part of it. -/
def State.serve (s : State) (l : Nat) : HomeRequest → State
  | .read a => if (s.metaOf l).poison || s.isLattice l then s else (s.homeRead a l).reply a l
  | .own a => if (s.metaOf l).poison || s.isLattice l || s.undoRunning then s else (s.homeWriteOwn a l).reply a l
  | .uncached data mask => if s.slotGuarded l then s else (s.homeUncachedWrite l data mask).1
  | .writeBack a => s.homeWriteBack a l
  | .atomic pa op dbl cmp new => s.atomicAtHome pa op dbl cmp new
  | .fill a => if (s.metaOf l).poison || s.holdsDelta a l then s else (s.lowerBoundFill a l).reply a l
  | .grant a => if (s.metaOf l).poison || s.grantRefused a l then s else (s.deltaGrant a l).reply a l
  | .drain a => s.deltaDrain a l
  | .watch w => s.registerWatch w
  | .freeze => s.freezeLine l
  | .notice a => s.freezeNotice a l
  | .join j => { ({ s with actor := j.launch }.joinAtHome l j none).1 with actor := s.actor }
  | .access c => { s with serving := s.serving ++ [(l, c)] }

/-- A request reaches a line's home (R374): it is served, or waits in the slice's busy list while the line is busy; a list of 4,096
requests refuses it, and it is sent again after 16 c. -/
def State.request (s : State) (l : Nat) (r : HomeRequest) : State :=
  if !s.lineBusy l then s.serve l r
  else
    let a := homeOf l
    let q := mget [] s.busyList a
    if q.length < 4096 then { s with busyList := mput s.busyList a (q ++ [(l, r)]) }
    else { s with retry := mput s.retry a (mget [] s.retry a ++ [(l, r)]) }.after 16 (.busyRetryTimer a)
/-- A slice serves its busy list when a line of it is busy no more (R374). -/
def State.releaseBusy (s : State) (a : Nat) : State :=
  (mget [] s.busyList a).foldl (fun s r => s.request r.1 r.2) { s with busyList := mdel s.busyList a }
/-- Lines that are busy no more: their homes serve what waits for them. -/
def State.releaseLines (s : State) (ls : List Nat) : State := (ls.map homeOf).eraseDups.foldl State.releaseBusy s

/-- The issuing context's instruction waits for its turn at a line (R374): in the home's busy list, once. -/
def State.awaitTurn (s : State) (l : Nat) : State :=
  if (mget [] s.busyList (homeOf l) ++ mget [] s.retry (homeOf l)).any fun r => r.1 == l && r.2.isOf s.cur then s
  else s.request l (.access s.cur)
/-- The issuing context's turn at some lines is over: their homes serve what waits. -/
def State.endTurn (s : State) (ls : List Nat) : State :=
  let mine := (s.serving.filter fun x => x.2 == s.cur && ls.contains x.1).map Prod.fst
  if mine = [] then s
  else { s with serving := s.serving.filter fun x => !(x.2 == s.cur && ls.contains x.1) }.releaseLines mine
/-- A context waits for no line any more: an interrupt or a cancellation has ended its instruction. -/
def State.dropTurns (s : State) (c : CtxId) : State :=
  let mine := (s.serving.filter fun x => x.2 == c).map Prod.fst
  let keeps := fun (q : List (Nat × HomeRequest)) => q.filter fun r => !r.2.isOf c
  if mine = [] ∧ !(s.busyList ++ s.retry).any (fun p => p.2.any fun r => r.2.isOf c) then s
  else { s with
    serving := s.serving.filter fun x => x.2 != c
    busyList := s.busyList.map fun (p : Nat × List (Nat × HomeRequest)) => (p.1, keeps p.2)
    retry := s.retry.map fun (p : Nat × List (Nat × HomeRequest)) => (p.1, keeps p.2) }.releaseLines mine

end Sys2Proof.Machine
end

