-- ==== Sys2Proof/Machine/Ctl.lean ====
section
/-!
DEFINITION. Reads of the control space (R420–R438, R457): each block as 64-bit words, and the routes to other packages (R435).
-/
namespace Sys2Proof.Machine

def ctlBit (b : Bool) (i : Nat) : Nat := if b then 2 ^ i else 0
/-- A bit per index below a bound. -/
def maskOf (n : Nat) (p : Nat → Bool) : Nat := (List.range n).foldl (fun a i => a + ctlBit (p i) i) 0

/-- The capability list (R421): base and size of each block. -/
def capabilities : List (Nat × Nat) :=
  [(0x10000, 0x100), (0x100000, 0x1000), (0x200000, 0x1000), (0x300000, 0x10000), (0x400000, 0x1000), (0x800000, 0x400000),
   (0x1000000, 0x400000)]
/-- The header (R421). -/
def headerWord (o : Nat) : Nat :=
  if o = 0 then 0x40
  else if 0x40 ≤ o ∧ o < 0xB0 then
    let i := (o - 0x40) / 16
    let c := capabilities.getD i (0, 0)
    if o % 16 = 0 then (i + 1) + 2 ^ 16 + (if i = 6 then 0 else 2 ^ 32 * (0x50 + 16 * i)) else c.1 + 2 ^ 32 * c.2
  else 0

/-- The master that stands for system-mode code of the part in an access of the control space. -/
def deviceCode : Nat := 5
/-- The management block as a master reads it (R426): SELF is its own id. [DESIGN CHOICE, log 4] -/
def State.mgmtWord (s : State) (reader o : Nat) : Nat :=
  let m := s.pkg.mgmt
  if o = 0 then m.owner + 16 * (if reader = deviceCode then Config.selfRead % 8 else reader) + ctlBit m.pending 8 + 2 ^ 9 * m.target
  else if o = 0x20 then (List.range 5).foldl (fun a i => a + 2 ^ (12 * i) * mget 0 m.rejects i) 0
  else 0

/-- The package fields (R423). -/
def State.fieldWord (s : State) (o : Nat) : Nat :=
  let f := s.pkg.fields
  if o = 0 then f.uwin + 256 * f.sto
  else if o = 8 then ctlBit f.booted 0 + ctlBit f.degraded 1 + ctlBit f.bootfail 2 + ctlBit (f.throttle != 0) 3 + ctlBit f.cxlup 4
  else if o = 0x10 then s.pkg.pkgid
  else if o = 0x18 then f.hbase
  else if o = 0x20 then 0x4B590400 + 2 ^ 32 * (Config.siliconRev % 256)
  else if o = 0x28 then (List.range 4).foldl (fun a d => a + 256 ^ d * (mget 0 f.temps d % 256)) 0
  else if o = 0x30 then min s.hostrep 0xFFFFFFFF
  else 0

/-- The package control block (R384, R398, R417, R368, R438). A W1S command bit, of this block or of another, reads as 0 whatever its command
does, a GO that waits too. [DESIGN CHOICE, log 117] -/
def State.packageWord (s : State) (o : Nat) : Nat :=
  let t := s.pkg.transl
  let r := s.pkg.recovery
  let b := s.pkg.bias
  if o < 0x200 then s.fieldWord o
  else if o = 0x200 then s.pkg.root.toNat
  else if o = 0x208 then t.sdva
  else if o = 0x210 then t.sdlen
  else if o = 0x218 then ctlBit t.busy 1 + ctlBit t.bad 2 + 2 ^ 32 * (t.aborts % 2 ^ 16)
  else if o = 0x300 then r.job
  else if o = 0x308 then r.cmd + ctlBit r.busy 2 + ctlBit (r.out.contains r.job) 3 + ctlBit r.err 4
  else if o = 0x310 then r.rollbacks % 2 ^ 32 + 2 ^ 32 * (r.abandoned % 2 ^ 32)
  else if o = 0x380 then b.fva
  else if o = 0x388 then ctlBit b.dir 0 + ctlBit b.busy 2 + ctlBit b.err 3 + 2 ^ 32 * (b.flips % 2 ^ 32)
  else if 0x400 ≤ o ∧ o < 0x500 then (mget 0 (mget [] s.pkg.sets ((o - 0x400) / 64)) ((o - 0x400) % 64 / 8)).toNat
  else if o = 0x500 then s.pkg.setFail.toNat
  else if o = 0x600 ∨ o = 0x608 then (mget 0 s.pkg.tree ((o - 0x600) / 8)).toNat
  else 0

/-- A link block (R436). -/
def State.linkWord (s : State) (o : Nat) : Nat :=
  let l := s.linkAt (o / 256)
  let w := o % 256
  if 16 ≤ o / 256 then 0
  else if w = 0 then l.state + ctlBit l.en 2 + 256 * l.lanes + 2 ^ 16 * (l.peer % 2 ^ 15)
  else if w = 8 then l.replays % 2 ^ 32 + 2 ^ 32 * (l.deaths % 2 ^ 16) + 2 ^ 48 * (l.misroute % 2 ^ 16)
  else if w = 16 then l.lostw % 2 ^ 32
  else 0

/-- The boot results block and the boot port (R431, R457). -/
def State.bootWord (s : State) (o : Nat) : Nat :=
  let b := s.pkg.boot
  if o = 0 then b.nlog + 2 ^ 11 * b.nfail + 2 ^ 22 * b.nquar + 2 ^ 33 * b.bootcrew
  else if 0x10 ≤ o ∧ o < 0x810 then (List.range 4).foldl (fun a i => a + 2 ^ (16 * i) * mget 0 b.phys ((o - 0x10) / 2 + i)) 0
  else if 0x810 ≤ o ∧ o < 0x890 then b.failmask.toNat / 256 ^ (o - 0x810) % 2 ^ 64
  else if o = 0xC00 then ctlBit b.fbusy 1 + ctlBit b.fdone 2 + ctlBit b.err 3
  else if o = 0xC08 then b.nans + 2 ^ 11 * b.nlate
  else if o = 0xC10 then b.msrc
  else if o = 0xC18 then b.mvbase
  else if o = 0xC20 then b.mlen
  else if o = 0xC28 then ctlBit b.mbusy 1 + ctlBit b.merr 2 + 2 ^ 32 * b.acks
  else if 0xC80 ≤ o ∧ o < 0xD00 then b.answer.toNat / 256 ^ (o - 0xC80) % 2 ^ 64
  else 0

/-- A crew block: trap block, scheduler registers and debug block (R395, R323, R424). -/
def State.crewWord (s : State) (k o : Nat) : Nat :=
  let c := s.crewAt k
  let q := c.queue
  if o = 0 then c.preempt.toNat
  else if o = 8 then maskOf 32 fun n => (c.ctxAt n).st == .blocked
  else if o = 0x10 then c.vsave.toNat
  else if o = 0x18 then
    maskOf 32 (fun n => (c.ctxAt n).halted) + ctlBit c.frozen 32 + ctlBit c.gated 33 + ctlBit c.cfault 34 + ctlBit c.swapped 35
  else if o = 0x20 then maskOf 32 fun n => (c.ctxAt n).pendDbg
  else if o = 0x40 then q.spillBase
  else if o = 0x48 then q.spillCap
  else if o = 0x50 then q.high + 256 * q.low
  else if o = 0x58 then min q.entries.length 64 + ctlBit q.deep 7 + 256 * (q.entries.length - 64)
  else 0

/-- A 64-bit word of the control space at a multiple of 8 (R420), as a master reads it. -/
def State.wordFor (s : State) (reader o : Nat) : Nat :=
  if o < 0x1000 then headerWord o
  else if 0x10000 ≤ o ∧ o < 0x10100 then s.mgmtWord reader (o - 0x10000)
  else if 0x100000 ≤ o ∧ o < 0x101000 then s.packageWord (o - 0x100000)
  else if 0x200000 ≤ o ∧ o < 0x201000 then s.linkWord (o - 0x200000)
  else if 0x300000 ≤ o ∧ o < 0x310000 then
    (List.range 4).foldl (fun a i => a + 2 ^ (16 * i) * mget 0 s.pkg.routes ((o - 0x300000) / 2 + i)) 0
  else if 0x400000 ≤ o ∧ o < 0x401000 then s.bootWord (o - 0x400000)
  else if 0x800000 ≤ o ∧ o < 0xC00000 then s.pkg.draft.readN (o - 0x800000) 8
  else if 0x1000000 ≤ o ∧ o < 0x1400000 then s.crewWord ((o - 0x1000000) / 4096) (o % 4096)
  else 0

/-- The same as code of the part reads it. -/
def State.ctlWord (s : State) (o : Nat) : Nat := s.wordFor deviceCode o

/-- `n` bytes of the control space, as a master reads them: reads are open to every master (R422). -/
def State.registerRead (s : State) (reader off n : Nat) : Nat :=
  match n with
  | 0 => 0
  | n + 1 => s.wordFor reader (off / 8 * 8) / 256 ^ (off % 8) % 256 + 256 * s.registerRead reader (off + 1) n
/-- `n` bytes of the control space, as code of the part reads them. -/
def State.ctlRead (s : State) (off n : Nat) : Nat := s.registerRead deviceCode off n

/-- Signals an MSI-X vector (R419). -/
def State.signal (s : State) (v : Nat) : State :=
  { s with pkg := { s.pkg with msi := mput s.pkg.msi v (mget 0 s.pkg.msi v + 1) } }

end Sys2Proof.Machine
end

