-- ==== Sys2Proof/Machine/Res.lean ====
section
/-!
DEFINITION. What a meaning answers before it is closed into a step's outcome: a value and a state, a precise trap, or a
wait; and the next address of an instruction that completes, with the hardware loops (R147–R149).
-/
namespace Sys2Proof.Machine

/-- The instruction word, zero-extended: `TVAL` of the decode and privilege traps (R115, R134). -/
def wordOf (i : Instr) : Word := ((encode i).getD 0).setWidth 64

/-- The result of part of an instruction: it goes on, traps (R57), or stalls its context (R18). -/
inductive Res (α : Type) where
  | ok (a : α) (s : State)
  | trap (cause : Nat) (tval : Word) (s : State)
  /-- A thunk fault (R57): the trap with the node's creating PC. -/
  | thunk (cause : Nat) (tval epc : Word) (s : State)
  | wait (w : Wait) (s : State)
  /-- The instruction has had no effect and issues again, at once or when a wait is over; its context is not STALLED meanwhile
  (R167, R199). -/
  | hold (w : Option Wait) (s : State)

/-- Goes on with a result. -/
def Res.bind {α β : Type} (r : Res α) (f : α → State → Res β) : Res β :=
  match r with
  | .ok a s => f a s
  | .trap c v s => .trap c v s
  | .thunk c v e s => .thunk c v e s
  | .wait w s => .wait w s
  | .hold w s => .hold w s

/-- Where an instruction that completes goes on (R145, R149). -/
inductive Next where
  | seq
  | jump (t : Word)
  | call (t : Word)
  /-- The instruction has itself placed its context: freed, blocked, or returned from a trap. -/
  | placed

/-- Whether a loop is active (R26). -/
def Loop.active (l : Loop) : Bool := l.lc != 0

/-- One loop's part of `Step` (R149): the loop afterwards, and whether the pass goes back to its start. -/
def Loop.step (l : Loop) (next pc : Word) (jump : Bool) : Loop × Bool :=
  if !l.active then (l, false)
  else if next = l.le then ({ l with lc := l.lc - 1 }, l.lc - 1 != 0)
  else if jump && l.ls.ule pc && pc.ult l.le && (next.ult l.ls || l.le.ult next) then ({ l with lc := 0 }, false)
  else (l, false)

/-- `Step` (R149) over both loops: the later start first, loop 1 first when they are equal. -/
def stepLoops (l0 l1 : Loop) (next pc : Word) (jump : Bool) : Loop × Loop × Word :=
  if l1.ls.ult l0.ls then
    let a := l0.step next pc jump
    if a.2 then (a.1, l1, l0.ls)
    else
      let b := l1.step next pc jump
      (a.1, b.1, if b.2 then l1.ls else next)
  else
    let b := l1.step next pc jump
    if b.2 then (l0, b.1, l1.ls)
    else
      let a := l0.step next pc jump
      (a.1, b.1, if a.2 then l0.ls else next)

/-- The loop step of a context in task mode; in system mode no loop steps (R151). -/
def Ctx.stepTo (c : Ctx) (next pc : Word) (jump : Bool) : Ctx :=
  if c.depth = 0 then
    let r := stepLoops c.l0 c.l1 next pc jump
    { c with l0 := r.1, l1 := r.2.1, pc := r.2.2 }
  else { c with pc := next }

/-- The address sequential execution reaches after the instruction (R142): the link address. -/
def Ctx.linkAddr (c : Ctx) : Word := (c.stepTo (c.pc + 4) c.pc false).pc

/-- A context whose instruction completes (R149). -/
def Ctx.advance (c : Ctx) (n : Next) : Ctx :=
  match n with
  | .seq => c.stepTo (c.pc + 4) c.pc false
  | .jump t => c.stepTo t c.pc true
  | .call t => { c.stepTo (c.pc + 4) c.pc false with pc := t }
  | .placed => c

end Sys2Proof.Machine
end

