-- ==== Sys2Proof/Machine/Access.lean ====
section
/-!
DEFINITION. Accesses to global memory: which access a page's kind permits (R53), translation (R198), data reads, ordinary
writes, the system bank (R359), and the counting of writes at their homes (R229, R379).
-/
namespace Sys2Proof.Machine

/-- The classes of access of R53. -/
inductive Use where
  | load | store | atomic | join | thresh | exact | ltype | freeze | query | engineRead | engineWrite | fetch
  deriving DecidableEq, Repr

/-- The access kind a class reports under (R196). -/
def Use.kind : Use → Nat
  | .fetch => akFetch
  | .load | .thresh | .exact | .query => akLoad
  | .engineRead | .engineWrite => akEngine
  | _ => akStore

/-- The permission a class needs of a page (R382). `LQUERY` needs none. [DEDUCED, log 121] -/
def Use.need : Use → Need
  | .load | .thresh | .exact | .engineRead => needRd
  | .atomic => needRdWr
  | .fetch => needEx
  | .query => needNone
  | _ => needWr

/-- Why a page's kind refuses an access (R198 step 7). -/
inductive PageFault where
  /-- A task-mode access to a system page: privileged-operation. -/
  | privileged
  /-- Another cause. -/
  | cause (c : Nat)
  deriving DecidableEq, Repr

/-- The matrix of R53: none when the kind permits the access. Kinds: 0 ordinary, 1 system, 2 lattice, 3 frozen. -/
def pageVerdict (u : Use) (kind : Nat) (taskMode : Bool) : Option PageFault :=
  let mismatch := some (PageFault.cause (memCause u.kind 4))
  let frozen := some (PageFault.cause (memCause u.kind 6))
  if kind = 1 then
    if taskMode then some .privileged
    else
      match u with
      | .load | .store | .atomic | .query | .engineRead | .engineWrite | .fetch => none
      | _ => mismatch
  else
    match u with
    | .query => none
    | .load | .fetch => if kind = 2 then mismatch else none
    | .store => if kind = 2 then mismatch else if kind = 3 then frozen else none
    | .atomic => mismatch
    | .join => if kind = 2 then none else if kind = 3 then some (.cause 0x0C0) else mismatch
    | .thresh | .ltype | .freeze => if kind = 2 then none else mismatch
    | .exact => if kind = 0 then mismatch else none
    | .engineRead => none
    | .engineWrite => if kind = 3 then frozen else none

/-- An access's leaf: from its crew's L1 when it hits there, else from the line of the slice that serves it; a translation where neither
holds the line with the permission (R360, R381). A crew may have to hold what misses in its L1 (R365). -/
def State.leafAt (s : State) (crew : Nat) (u : Use) (va : Word) : Except Nat (Leaf × State) :=
  match s.l1Leaf crew va u.need with
  | some l => .ok (l, s)
  | none =>
    if s.requestsHeld crew then .error heldReason
    else
      match s.sliceLeaf crew va u.need with
      | some l => .ok (l, s)
      | none => s.leafFor (s.sliceFor crew va) va u.need

/-- The reason of a failed walk under an access kind (R196, R198 step 6): a store-kind access has no access-violation or link-dead trap
(R392), so an entry that cannot be read maps nothing for it. [DEDUCED, log 18] -/
def walkReason (kind r : Nat) : Nat := if kind = akStore ∧ (r = 8 ∨ r = 10) then 1 else r
/-- Translates an instruction's access and checks the page kind (R198 steps 5–7): the leaf, or the cause and `TVAL`. -/
def State.translate (s : State) (i : Instr) (u : Use) (va : Word) : Except (Nat × Word) (Leaf × State) :=
  match s.leafAt s.cur.crew u va with
  | .error r => .error (memCause u.kind (walkReason u.kind r), va)
  | .ok (l, s1) =>
    match pageVerdict u l.kind s.taskMode with
    | none => .ok (l, s1)
    | some .privileged => .error (0x06, wordOf i)
    | some (.cause c) => .error (c, va)

/-! The system bank (R358, R359). -/

/-- The offset in bank 15 that a page of the system bank maps an address to. -/
def Leaf.bankOff (l : Leaf) (va : Word) : Nat := l.pa / 65536 % 4 * 65536 + va.toNat % 65536
/-- The reserved ranges: reads give 0, writes are discarded. -/
def bankReserved (o : Nat) : Bool := (decide (0x600 ≤ o) && decide (o < 0x1000)) || (decide (0xF000 ≤ o) && decide (o < 0x10000))
/-- An entry of the ready queue as 16 bytes (R316). -/
def Entry.bytes (e : Entry) : Nat := e.record.toNat % 2 ^ 56 + 2 ^ 64 * (e.ecycle % 2 ^ 56) + 2 ^ 120 * (e.prio + 4 * e.src)
/-- The on-chip part of the ready queue, in the order of service (R316, R358). -/
def Crew.queueBytes (c : Crew) : Nat := (c.queue.entries.take 64).foldr (fun e a => e.bytes + 2 ^ 128 * a) 0
/-- The queue's part of the bank: its entries, and behind them what was written there. -/
def Crew.queuePart (c : Crew) : Nat :=
  let used := 256 ^ (16 * min c.queue.entries.length 64)
  c.queueBytes + c.sysbank.readN 0x200 1024 / used * used
/-- A byte of the staging buffers: what the hardware wrote last, or system code since. -/
def Crew.stagingByte (c : Crew) (o : Nat) : Nat :=
  let x := o % 16384
  match mget? c.staging (o % 65536 / 16384) with
  | none => (c.sysbank.read o).toNat
  | some g => match mget? g.patch x with | some b => b.toNat | none => Config.bankBytes g.epoch / 256 ^ x % 256
/-- Whether an offset lies in a staging buffer that the hardware has used. -/
def Crew.inStaging (c : Crew) (o : Nat) : Bool :=
  decide (0x10000 ≤ o) && decide (o < 0x20000) && (mget? c.staging (o % 65536 / 16384)).isSome
/-- A read of the system bank: its bytes, but for what the hardware keeps in it (R358, R359). [DESIGN CHOICE, log 118] -/
def State.bankRead (s : State) (k o n : Nat) : Nat :=
  let c := s.crewAt k
  if bankReserved o then 0
  else if c.inStaging o then (List.range n).foldr (fun j a => c.stagingByte (o + j) + 256 * a) 0
  else if decide (0x200 ≤ o) && decide (o < 0x600) then c.queuePart / 256 ^ (o - 0x200) % 256 ^ n
  else c.sysbank.readN o n
/-- Merges `n` bytes into the bank under a bit mask. -/
def State.bankWrite (s : State) (k o n v mask : Nat) : State :=
  if bankReserved o then s
  else
    let new := (s.bankRead k o n &&& (2 ^ (8 * n) - 1 - mask)) ||| (v &&& mask)
    s.updCrew k fun c =>
      if c.inStaging o then
        let b := o % 65536 / 16384
        let g := mget { epoch := 0, patch := [] } c.staging b
        let patch := (List.range n).foldl (fun m j =>
          if mask / 256 ^ j % 256 = 0 then m else mput m (o % 16384 + j) (BitVec.ofNat 8 (new / 256 ^ j))) g.patch
        { c with staging := mput c.staging b { g with patch := patch } }
      else { c with sysbank := c.sysbank.writeN o n new }

/-! Rollback conditions (R409). -/

/-- The job that a fault of a launch rolls back, when its phase meets the conditions of R409. -/
def State.rollbackFor (s : State) (launch : Nat) : Option Nat :=
  match s.slotOf launch with
  | none => none
  | some i =>
    let x := s.slotAt i
    let job := x.field 0x18 4
    let len := x.field 0xB0 8
    let ovf := match s.hwPa (BitVec.ofNat 64 (x.field 0xA8 8) + BitVec.ofNat 64 (len / 64) + 0x4010#64) with | some p => s.readPa p 8 | none => 1
    let rolled := mget 0 s.pkg.rolled (65536 * job + x.field 0x16 2)
    if len != 0 && ovf == 0 && Nat.blt rolled 2 then some job else none

/-- A trigger of R409 in a phase that has been rolled back twice: the phase counts as abandoned, once (R411). -/
def State.noteAbandoned (s : State) (launch : Nat) : State :=
  match s.slotOf launch with
  | none => s
  | some i =>
    let key := 65536 * (s.slotAt i).field 0x18 4 + (s.slotAt i).field 0x16 2
    if mget 0 s.pkg.rolled key == 2 then
      { s with pkg := { s.pkg with
        rolled := mput s.pkg.rolled key 3, recovery := { s.pkg.recovery with abandoned := s.pkg.recovery.abandoned + 1 } } }
    else s

/-! Reads. -/

/-- A slice's copy under the virtual and domain tags of an access and with its page bits (R382): under other tags than before, its L1
holders are recalled (R360). -/
def Copy.tagged (c : Copy) (va : Word) (dom : Nat) (leaf : Leaf) (targets : List Nat) : Copy :=
  let bits : PageBits := { kind := leaf.kind, rd := leaf.rd, wr := leaf.wr, ex := leaf.ex }
  if c.vline = va.toNat / 128 ∧ c.dom = dom then { c with page := some bits }
  else { c with
    vline := va.toNat / 128, dom := dom, page := some bits, l1 := c.l1.filter (fun x => !targets.contains x.crew), holders := [], overflow := false }
/-- A copy that a crew's L1 holds as well (R360): alone when the access is a store, which recalls the other holders. The slice records
four crews at most. -/
def Copy.heldBy (c : Copy) (crew : Nat) (leaf : Leaf) (alone : Bool) (targets : List Nat) : Copy :=
  let line : L1Line := { crew := crew, kind := leaf.kind, rd := leaf.rd, wr := leaf.wr, ex := leaf.ex }
  let keep := c.l1.filter fun x => x.crew != crew
  if alone then { c with l1 := line :: keep.filter (fun x => !targets.contains x.crew), holders := [crew], overflow := false }
  else
    let full := !c.holders.contains crew && c.holders.length == 4
    { c with
      l1 := line :: keep, overflow := c.overflow || full
      holders := if c.holders.contains crew || full then c.holders else c.holders ++ [crew] }
/-- A copy that a crew's L1 holds no more. -/
def Copy.leftBy (c : Copy) (crew : Nat) : Copy := { c with l1 := c.l1.filter fun x => x.crew != crew }
/-- A full set of a crew's L1, of 16 ways and 128 sets, drops a line for another (R360). [DESIGN CHOICE, log 15] -/
def State.l1Room (s : State) (crew l : Nat) : State :=
  match s.crowded 16 128 l fun _ c => c.l1.any fun x => x.crew == crew with
  | some p => { s with copies := mput s.copies p.1 (p.2.leftBy crew) }
  | none => s

/-- The slice serving an access holds the line afterwards (R360, R362, R376, R377): F on a frozen page, a lower bound on a lattice line,
else a clean copy from the home; under the access's tags. -/
def State.fillSlice (s : State) (crew : Nat) (leaf : Leaf) (va : Word) (l : Nat) : State :=
  let a := s.sliceFor crew va
  let s1 :=
    match s.copyAt? a l with
    | some _ => s
    | none =>
      if leaf.kind = 3 then s.newCopy a l (freshCopy .f (s.memLine l))
      else if leaf.kind = 2 then s.lowerBoundFill a l
      else s.homeRead a l
  match s1.copyAt? a l with
  | none => s1
  | some c => s1.putCopy a l (c.tagged va (s.domainTag crew) leaf (s.recallTargets a c))
/-- A slice's copy enters the L1 of a crew as well (R360). -/
def State.fillL1 (s : State) (crew : Nat) (leaf : Leaf) (va : Word) (l : Nat) (alone : Bool) : State :=
  let a := s.sliceFor crew va
  match s.copyAt? a l with
  | none => s
  | some c => (s.putCopy a l (c.heldBy crew leaf alone (s.recallTargets a c))).l1Room crew l
/-- The slice serving an access holds the line afterwards, and the crew's L1 with it (R360). -/
def State.touch (s : State) (crew : Nat) (leaf : Leaf) (va : Word) (l : Nat) : State :=
  (s.fillSlice crew leaf va l).fillL1 crew leaf va l false

/-- The data of a line that the slices cache: of this package, or of the host, through CXL.cache (R414). Lines of host-bias pages take the
host-coherent path and stay in no cache. -/
def State.cachedAt (s : State) (l1 : Bool) (crew : Nat) (leaf : Leaf) (va : Word) (p n : Nat) : Except Nat (Nat × State) :=
  if (s.metaOf (lineOf p)).poison then .error 7
  else .ok (s.readPa p n, if leaf.hb then s else if l1 then s.touch crew leaf va (lineOf p) else s.fillSlice crew leaf va (lineOf p))

/-- What stands for a reason while another package has not answered. -/
def awaitsReply : Nat := 16
/-- The data of an access (R198 step 9): the value and the state after the fill, or the reason. An instruction asks another package and
waits for its answer (R434); an engine's read of one is one action, which is answered within the store timeout or not (R196).
[DEDUCED, log 20; DESIGN CHOICE, log 112] -/
def State.dataAt (s : State) (reader : Option Nat) (l1 : Bool) (crew : Nat) (leaf : Leaf) (va : Word) (n : Nat) : Except Nat (Nat × State) :=
  if leaf.sbank then .ok (s.bankRead crew (leaf.bankOff va) n, s)
  else
    match s.place (leaf.addr va) with
    | .nowhere => .error 8
    | .control off => if leaf.kind = 1 then .ok (s.ctlRead off n, s) else .error 8
    | .host p => if leaf.kind = 1 ∨ leaf.kind = 2 then .error 8 else s.cachedAt l1 crew leaf va p n
    | .remote pk p =>
      match reader with
      | some r =>
        match s.replyAt r (lineOf p) with
        | some (.data d) => .ok (bytesOf d p n, s)
        | some (.failed x) => .error x
        | some .pending => .error awaitsReply
        | none => .error (if s.routeUp pk then awaitsReply else 10)
      | none =>
        if !s.routeUp pk then .error 10
        else if !Config.remoteReply s.tick then .error 9
        else .ok (s.remotePa p n, s)
    | .device p => s.cachedAt l1 crew leaf va p n
/-- The data of the issuing context's access, which enters its crew's L1 (R360). -/
def State.readVia (s : State) (crew : Nat) (leaf : Leaf) (va : Word) (n : Nat) : Except Nat (Nat × State) :=
  s.dataAt (some s.reader) true crew leaf va n

/-- A failed data read of an instruction: a rollback starts in place of a consumption of poison where R409 holds (R405), and the
instruction issues again; else the trap. -/
def State.readFault {α : Type} (s : State) (u : Use) (r : Nat) (va : Word) : Res α :=
  match (if r = 7 then s.rollbackFor s.cx.launchId else none) with
  | some job => .hold none (s.push (.rollbackRestart job))
  | none => .trap (memCause u.kind r) va s
/-- Asks the package that an access names for its line, once. -/
def State.askLine (s : State) (leaf : Leaf) (va : Word) : State :=
  match s.place (leaf.addr va) with
  | .remote pk p => if (s.replyAt s.reader (lineOf p)).isNone then s.ask pk (lineOf p) va.toNat .read else s
  | _ => s
/-- A data read of an instruction that has not succeeded: it waits for another package's answer, or fails. -/
def State.readStops {α : Type} (s : State) (u : Use) (leaf : Leaf) (r : Nat) (va : Word) : Res α :=
  if r = awaitsReply then .hold (some .reply) (s.askLine leaf va)
  else if (s.replies.any fun x => x.reader == s.reader) then s.dropReplies.readFault u r va else s.readFault u r va
/-- Whether an access goes to another package. -/
def State.isRemote (s : State) (leaf : Leaf) (va : Word) : Bool := match s.place (leaf.addr va) with | .remote _ _ => true | _ => false
/-- An access has had its data. -/
def State.readDone (s : State) (leaf : Leaf) (va : Word) : State := if s.isRemote leaf va then s.dropReplies else s

/-! Counting of writes (R199, R229, R379). -/

/-- Every earlier store and join of the context is counted at its home as a `FENCE` of scope PKG awaits it (R229): writes to host memory
may still await their acknowledgement. [DEDUCED, log 30] -/
def Ctx.drained (c : Ctx) : Bool := decide (c.cnt.stores ≤ c.hostWrites)
/-- Every earlier store and join of the context is counted or resolved, writes to host memory too (R161, R208, R214, R299). -/
def Ctx.settled (c : Ctx) : Bool := c.cnt.stores == 0

def Failures.total (f : Failures) : Nat := f.lost + f.refused + f.poisoned + f.timedout
def Failures.one (f : Fail) : Failures := Failures.none.add f
def failsOf (f : Option Fail) : Failures := match f with | none => .none | some f => .one f

/-- The home of a write, as its bit among the 128 slices and the 63 participating packages (R379); none where no home counts it. -/
def State.homeBit (s : State) (leaf : Leaf) (va : Word) : BitVec 191 :=
  let bit := fun (n : Nat) => BitVec.ofNat 191 (2 ^ n)
  if leaf.sbank then 0
  else
    match s.place (leaf.addr va) with
    | .device p => bit (homeOf (lineOf p))
    | .remote pk _ =>
      match (match s.slotOf s.cx.launchId with | some i => (s.slotAt i).pkgs.findIdx? (· == pk) | none => none) with
      | some n => bit (128 + n)
      | none => 0
    | _ => 0
/-- A write of a context is accepted: it counts in `OCNT`.STORES and under its tag, whose masks take its homes (R199, R379). -/
def Ctx.sent (c : Ctx) (homes : BitVec 191) : Ctx :=
  let t := mget { sent := 0, arrived := 0 } c.tags c.tag
  { c with
    cnt := { c.cnt with stores := c.cnt.stores + 1 }
    tags := mput c.tags c.tag { t with
      sent := t.sent + 1, homes := t.homes ||| homes.extractLsb' 0 128, pkgs := t.pkgs ||| homes.extractLsb' 128 63 } }

/-- A write of a context under a tag is counted at its home, or resolved with failures; the count is on its way back (R379). -/
def Ctx.counted (c : Ctx) (tag : Nat) (f : Failures) : Ctx :=
  let t := mget { sent := 0, arrived := 0 } c.tags tag
  { c with arrived := c.arrived + 1, arrFails := c.arrFails.merge f, tags := mput c.tags tag { t with arrived := t.arrived + 1 } }

/-- The home of one of the bits of R379's masks, 191 where there is none. -/
def firstHome (h : BitVec 191) : Nat := ((List.range 191).find? fun n => h.getLsbD n).getD 191
/-- A write is counted in its home's arrival table (R379), which holds 1,024 entries and spills more: the state, and how many counts of its
source and tag the home had still to return. -/
def State.arriveAt (s : State) (i : CtxId) (tag home : Nat) (f : Failures) : State × Nat :=
  let mine := fun (a : Arrival) => a.home == home && a.ctx == i && a.tag == tag
  match s.arrivals.find? mine with
  | some a =>
    let b := { a with count := a.count + 1, pending := a.pending + 1, fails := a.fails.merge f, since := s.clock }
    ({ s with arrivals := s.arrivals.map fun x => if mine x then b else x }.writeSpilled (mget (0, 0) s.pkg.boot.overflow home).2 a.spill, a.pending)
  | none =>
    let x := if home < 128 then overflowSlot 1024 ((s.arrivals.filter fun a => a.home == home).map Arrival.spill) else none
    let b : Arrival := { home := home, ctx := i, tag := tag, count := 1, pending := 1, fails := f, since := s.clock, spill := x }
    ({ s with arrivals := s.arrivals ++ [b] }.writeSpilled (mget (0, 0) s.pkg.boot.overflow home).2 x, 0)
/-- Counts that some entries of the arrival tables had still to return reach their context. -/
def Ctx.landed (c : Ctx) (n : Nat) (f : Failures) : Ctx :=
  { c with
    cnt := { c.cnt with stores := c.cnt.stores - n }, arrived := c.arrived - n, fails := c.fails.merge f
    arrFails := {
      lost := c.arrFails.lost - f.lost, refused := c.arrFails.refused - f.refused, poisoned := c.arrFails.poisoned - f.poisoned
      timedout := c.arrFails.timedout - f.timedout } }
/-- The homes return the counts of the entries of a context that a test selects (R379). -/
def State.landCounts (s : State) (i : CtxId) (due : Arrival → Bool) : State :=
  let xs := s.arrivals.filter fun a => a.ctx == i && due a
  let n := xs.foldl (fun n a => n + a.pending) 0
  let f := xs.foldl (fun f a => f.merge a.fails) Failures.none
  { s.updCtx i fun c => c.landed n f with
    arrivals := s.arrivals.map fun a => if a.ctx == i && due a then { a with pending := 0, fails := Failures.none } else a }
/-- The homes forget a context's entries of a tag, or its task is gone. -/
def State.dropArrivals (s : State) (i : CtxId) (p : Arrival → Bool) : State :=
  { s with arrivals := s.arrivals.filter fun a => !(a.ctx == i && p a) }

/-- The home's count for a context, with the batch that returns it; a failure that rolls a job back starts the rollback in
place of its status bit (R409). -/
def State.counted (s : State) (i : CtxId) (tag home : Nat) (f : Failures) : State :=
  let c := s.ctxAt i
  let rolls := decide (f.lost + f.poisoned + f.timedout ≠ 0)
  let job := if rolls then s.rollbackFor c.launchId else none
  let g := if job.isSome then Failures.none else f
  let r := (s.updCtx i fun c => c.counted tag g).arriveAt i tag home g
  let s1 := r.1
  let s2 := if r.2 + 1 = 16 then s1.push (.arrivalBatch i) else if r.2 = 0 then s1.after 8 (.arrivalBatchTimer i) else s1
  let s3 := if c.wait = some .fence then s2.push (.tagClose i tag) else s2
  match job with | some j => s3.push (.rollbackRestart j) | none => if rolls then s3.noteAbandoned c.launchId else s3

/-- A write accepted and counted at once. -/
def State.sentAndCounted (s : State) (homes : BitVec 191) (f : Failures) : State := (s.upd fun c => c.sent homes).counted s.cur s.cx.tag (firstHome homes) f

/-! Ordinary writes (R53, R202, R203, R376). -/

/-- A line-sized value or mask from `n` bytes at an offset. -/
def inLine (pa v : Nat) : BitVec 1024 := BitVec.ofNat 1024 (v <<< (8 * (pa % 128)))

/-- A write of a device line from a crew: performed in the crew's slice, which first owns the line, when the slice holds it or all
of it is written; a partial write that misses is uncached at the home (R376). With undo, and on host-bias pages, which are not
logged, the write is made at the home (R407). The guarded lines of the slot page take none (R302). [DEDUCED, log 23] -/
def State.writeDevice (s : State) (crew : Nat) (leaf : Leaf) (va : Word) (pa data mask : Nat) : State × Option Fail :=
  let l := lineOf pa
  let a := s.sliceFor crew va
  let d := inLine pa data
  let m := inLine pa mask
  let whole := m == BitVec.allOnes 1024
  let s0 := if leaf.hb then { s with actor := noLaunch } else s
  let misses := match s.copyAt? a l with
    | some c => c.st == .f || c.st == .d
    | none => !whole
  let r : State × Option Fail :=
    if s.slotGuarded l then (s0, none)
    else if misses || s.undoActs || leaf.hb then s0.homeUncachedWrite l d m
    else if (s.metaOf l).poison && !wholeAtoms m then (s0, some .poisoned)
    else
      let s1 := s0.homeWriteOwn a l
      let s2 := if whole then s1.updMeta l fun x => { x with poison := false } else s1
      match s2.copyAt? a l with
      | some c =>
        let c1 := c.tagged va (s.domainTag crew) leaf (s.recallTargets a c)
        ((s2.putCopy a l { c1 with data := mergeBits c.data d m }).fillL1 crew leaf va l true, none)
      | none => (s2, none)
  ({ r.1 with actor := s.actor }, r.2)

/-- A write of the control space by code of the part (R420): one access of its size (R455). -/
def State.ctlStore (s : State) (off n data mask : Nat) : State :=
  s.push (.registerWrite deviceCode off n { value := data, mask := mask })

/-- What becomes of an accepted write. -/
inductive Written where
  /-- Performed or failed, and counted. -/
  | done (f : Option Fail)
  /-- A write to host memory, counted when the host acknowledges it (R229). -/
  | host
  /-- On its way to another package, counted when it has crossed the link (R232). -/
  | sent
  /-- Refused by a full code shadow (R361). -/
  | shadowFull
  deriving DecidableEq, Repr

/-- The number of an entry of writes that this step makes (R229). -/
def State.entryId (s : State) (j : Nat) : Nat := 1024 * s.tick + j
/-- Writes `n` bytes under a bit mask at a translated address (R58). -/
def State.writeVia (s : State) (crew : Nat) (leaf : Leaf) (va : Word) (n data mask : Nat) : State × Written :=
  if leaf.sbank then (s.bankWrite crew (leaf.bankOff va) n data mask, .done none)
  else
    match s.place (leaf.addr va) with
    | .nowhere => (s, .done (some .refused))
    | .control off =>
      if leaf.kind = 1 then (s.ctlStore off n data mask, .done none)
      else (s, .done (some .refused))
    | .host p =>
      if leaf.kind = 1 ∨ leaf.kind = 2 then (s, .done (some .refused))
      else
        match s.shadowCopy (leaf.ex && leaf.kind == 0) (lineOf p) with
        | none => (s, .shadowFull)
        | some s1 => ((s1.writeDevice crew leaf va p data mask).1, .host)
    | .remote pk p =>
      if !s.routeUp pk then (s, .done (some .lost))
      else
        match s.shadowCopy (leaf.ex && leaf.kind == 0) (lineOf p) with
        | none => (s, .shadowFull)
        | some s1 => (s1.fly pk (lineOf p) va.toNat (.write (inLine p data) (inLine p mask)) (some (s.entryId 0)), .sent)
    | .device p =>
      match s.shadowCopy (leaf.ex && leaf.kind == 0) (lineOf p) with
      | none => (s, .shadowFull)
      | some s1 => let r := s1.writeDevice crew leaf va p data mask; (r.1, .done r.2)

/-- What the writes of one instruction have come to: the failures of those that are counted, how many are on their way and how many await
the host, the first address that found the code shadow full, and their homes. -/
structure Stored where
  fails : Failures
  parts : Nat
  host : Nat
  full : Option Word
  homes : BitVec 191
  deriving DecidableEq, Repr
/-- No write yet. -/
def Stored.none : Stored := { fails := .none, parts := 0, host := 0, full := Option.none, homes := 0 }
/-- A write's home is noted. -/
def Stored.toward (o : Stored) (homes : BitVec 191) : Stored := { o with homes := o.homes ||| homes }
/-- One write more. -/
def Stored.add (o : Stored) (va : Word) : Written → Stored
  | .done f => { o with fails := o.fails.merge (failsOf f) }
  | .host => { o with host := o.host + 1 }
  | .sent => { o with parts := o.parts + 1 }
  | .shadowFull => { o with full := some (o.full.getD va) }

/-- The code of a maker of writes in the operand of a store timeout. -/
def WriteBy.code : WriteBy → Nat
  | .store t => t
  | .copy q => 4 + q
  | .writeOut => 8
  | .result e => 9 + e
/-- Writes that are not yet counted stand under an entry of this step (R199, R229); each has a timeout (R232). -/
def State.owe (s : State) (j : Nat) (i : CtxId) (record : Word) (maker : WriteBy) (tagged : Bool) (o : Stored) : State :=
  if o.parts = 0 ∧ o.host = 0 then s
  else
    let e : Owed := {
      id := s.entryId j, ctx := i, record := some record, maker := maker, tagged := tagged, parts := o.parts, host := o.host, fails := o.fails, since := s.clock
      home := firstHome o.homes }
    { s with owed := s.owed ++ [e] }.after (1750 * s.pkg.fields.sto) (.storeTimeout i maker.code)

/-- All bits of `n` bytes. -/
def allBits (n : Nat) : Nat := 2 ^ (8 * n) - 1

end Sys2Proof.Machine
end

