-- ==== Sys2Proof/Machine/Lanes.lean ====
section
/-!
DEFINITION. What the lane pool computes (R173–R191): each operation gives the new register and, element by element, the
flags it raises. Nothing here depends on the lane grant (R97).
-/
namespace Sys2Proof.Machine

/-- A register and the flags of its elements. -/
abbrev Lanes := VReg × List (Nat × Flags)

/-- Replaces the active elements of `old` by `f` of their index (R174). -/
def laneMap (w : Nat) (pm : BitVec 3) (mask old : VReg) (f : Nat → BitVec w) : VReg :=
  vofList ((List.range (2048 / w)).map fun j => if activeBit pm mask j then f j else velem old w j)

/-- The active elements of a 64-element operation that raises flags. -/
def laneMapF (pm : BitVec 3) (mask old : VReg) (f : Nat → BitVec 32 × Flags) : Lanes :=
  let rs := (List.range 64).map fun j => if activeBit pm mask j then f j else (velem old 32 j, 0)
  (vofList (rs.map Prod.fst), (List.range 64).zip (rs.map Prod.snd))

/-- An operation on two sources by the type code of R111: `fi` for integers, given whether they are signed, `ff` for FP32. -/
def laneArith (t : Nat) (pm : BitVec 3) (mask old a b : VReg) (fi : Bool → (w : Nat) → BitVec w → BitVec w → BitVec w)
    (ff : BitVec 32 → BitVec 32 → BitVec 32 × Flags) : Lanes :=
  if t = 6 then laneMapF pm mask old fun j => ff (velem a 32 j) (velem b 32 j)
  else
    let w := typeWidth t
    (laneMap w pm mask old fun j => fi (decide (t < 3)) w (velem a w j) (velem b w j), [])

/-- The high half of an element product (R178: VMULH). -/
def mulHigh (signed : Bool) (w : Nat) (a b : BitVec w) : BitVec w :=
  if signed then BitVec.ofInt w ((a.toInt * b.toInt) / 2 ^ w) else BitVec.ofNat w (a.toNat * b.toNat / 2 ^ w)

def minInt (signed : Bool) (w : Nat) (a b : BitVec w) : BitVec w :=
  if (if signed then b.slt a else b.ult a) then b else a
def maxInt (signed : Bool) (w : Nat) (a b : BitVec w) : BitVec w :=
  if (if signed then a.slt b else a.ult b) then b else a

/-- `VSAT`: a signed 32-bit element clamped to the range of a type (R180). -/
def satElem (t : Nat) (e : BitVec 32) : BitVec 32 :=
  let (lo, hi) : Int × Int := match t with
    | 1 => (-32768, 32767) | 2 => (-128, 127) | 4 => (0, 65535) | _ => (0, 255)
  BitVec.ofInt 32 (max lo (min hi e.toInt))

/-- `VCMP` (R183): the mask of the active elements whose condition holds, and the flags. -/
def laneCmp (t cc : Nat) (pm : BitVec 3) (mask a b : VReg) : Lanes :=
  if t = 3 then
    let rs := (List.range 64).map fun j =>
      if activeBit pm mask j then condF32 cc (velem a 32 j) (velem b 32 j) else (false, 0)
    (vofList (rs.map fun r => BitVec.ofBool r.1), (List.range 64).zip (rs.map Prod.snd))
  else
    let w := 32 >>> t
    (vofList ((List.range (2048 / w)).map fun j =>
      BitVec.ofBool (activeBit pm mask j && cond cc (velem a w j) (velem b w j))), [])

/-- `VSEL` (R184). -/
def laneSel (mask a b : VReg) : VReg :=
  vofList ((List.range 64).map fun j => if mask.getLsbD j then velem a 32 j else velem b 32 j)

/-- `VPERM` (R184). -/
def lanePerm (pm : BitVec 3) (mask old a b : VReg) : VReg :=
  laneMap 32 pm mask old fun j => let k := (velem b 32 j).toNat; if k < 64 then velem a 32 k else 0

/-- `VSLIDE.UP` and `.DN` (R184). -/
def laneSlideUp (k : Nat) (pm : BitVec 3) (mask old a : VReg) : VReg :=
  laneMap 32 pm mask old fun j => if k ≤ j then velem a 32 (j - k) else 0
def laneSlideDn (k : Nat) (pm : BitVec 3) (mask old a : VReg) : VReg :=
  laneMap 32 pm mask old fun j => if j + k ≤ 63 then velem a 32 (j + k) else 0

/-! Reductions and scans (R95, R96, R185, R186). -/

/-- A node's value, absent for an inactive element of an FP32 sum, and the flags raised below it. -/
abbrev RNode := Option (BitVec 32) × Flags

/-- One node of the tree: an absent operand gives the other unchanged (R95). -/
def combine (op : BitVec 32 → BitVec 32 → BitVec 32 × Flags) (a b : RNode) : RNode :=
  match a.1, b.1 with
  | some x, some y => let r := op x y; (some r.1, a.2 ||| b.2 ||| r.2)
  | none, y => (y, a.2 ||| b.2)
  | x, none => (x, a.2 ||| b.2)

/-- One level of the binary tree. -/
def pairUp (op : BitVec 32 → BitVec 32 → BitVec 32 × Flags) : List RNode → List RNode
  | a :: b :: r => combine op a b :: pairUp op r
  | r => r

/-- The tree over `2^k` nodes. -/
def treeFold (op : BitVec 32 → BitVec 32 → BitVec 32 × Flags) : Nat → List RNode → List RNode
  | 0, l => l
  | k + 1, l => treeFold op k (pairUp op l)

/-- The operation of a reduction by its type (0 .i32, 1 .ui32, 2 .f32): 0 ADD, 1 MIN, 2 MAX. -/
def reduceOp (o t : Nat) (mode : Mode) (a b : BitVec 32) : BitVec 32 × Flags :=
  match o with
  | 0 => if t = 2 then fAdd a b mode else (a + b, 0)
  | 1 => if t = 2 then minMaxF32 false a b else (minInt (t == 0) 32 a b, 0)
  | _ => if t = 2 then minMaxF32 true a b else (maxInt (t == 0) 32 a b, 0)

/-- What an inactive element enters as (R186). -/
def identity (o t : Nat) : Option (BitVec 32) :=
  match o, t with
  | 0, 2 => none
  | 0, _ => some 0
  | 1, 0 => some 0x7FFFFFFF
  | 1, 1 => some 0xFFFFFFFF
  | 1, _ => some 0x7F800000
  | _, 0 => some 0x80000000
  | _, 1 => some 0
  | _, _ => some 0xFF800000

/-- The 64 nodes a reduction or scan starts from. -/
def leaves (o t : Nat) (pm : BitVec 3) (mask a : VReg) : List RNode :=
  (List.range 64).map fun j => (if activeBit pm mask j then some (velem a 32 j) else identity o t, 0)

/-- An absent result is written as −0 (R95). -/
def presentOr (n : RNode) : BitVec 32 := n.1.getD 0x80000000#32

/-- A reduction (R95, R186): element 0 and the flags of the whole tree. -/
def laneReduce (o t : Nat) (pm : BitVec 3) (mask a : VReg) (mode : Mode) : Lanes :=
  let r := (treeFold (reduceOp o t mode) 6 (leaves o t pm mask a)).headD (none, 0)
  ((presentOr r).setWidth 2048, [(0, r.2)])

/-- One step of a scan at distance `d` (R96), each position keeping only the flags its own node raises. -/
def scanStep (op : BitVec 32 → BitVec 32 → BitVec 32 × Flags) (d : Nat) (l : List RNode) : List RNode :=
  (List.range l.length).map fun i =>
    let own := l.getD i (none, 0)
    if d ≤ i then
      let r := combine op ((l.getD (i - d) (none, 0)).1, 0) (own.1, 0)
      (r.1, own.2 ||| r.2)
    else own

/-- An inclusive scan (R96, R186). -/
def laneScan (o t : Nat) (pm : BitVec 3) (mask a : VReg) (mode : Mode) : Lanes :=
  let l := [1, 2, 4, 8, 16, 32].foldl (fun l d => scanStep (reduceOp o t mode) d l) (leaves o t pm mask a)
  (vofList (l.map presentOr), (List.range 64).zip (l.map Prod.snd))

/-! Conversion, packing and quantisation (R188–R191). -/

/-- The width of the position an element of a format takes in a vector register (R62). -/
def slotWidth (f : Nat) : Nat := 32 / fmtPack f

/-- A packed result: active elements 0–63 replaced, inactive ones kept with their whole byte (R188), every further position 0.
[DESIGN CHOICE, log 131] -/
def packCodes (f : Nat) (pm : BitVec 3) (mask old : VReg) (code : Nat → Nat) : VReg :=
  let w := slotWidth f
  vofList ((List.range 64).map fun j => if activeBit pm mask j then BitVec.ofNat w (code j) else velem old w j)

/-- The flags of the active elements. -/
def activeFlags (pm : BitVec 3) (mask : VReg) (f : Nat → Flags) : List (Nat × Flags) :=
  (List.range 64).map fun j => (j, if activeBit pm mask j then f j else 0)

/-- The rounding mode of a vector conversion (R72): SR is dithered by the element index, but rounds as RNE into FP32. -/
def convMode (rm seed dst i : Nat) : Mode :=
  if rm = 4 then (if dst = 0 then .rne else .sr (dither (i / 16) (i % 16) seed)) else modeOf rm 0

/-- `VCVT` (R188). -/
def laneCvt (dst src rm seed : Nat) (tab : BitVec 128) (pm : BitVec 3) (mask old a : VReg) : Lanes :=
  let r := fun i => roundTo dst tab (valOf src tab (velem a (slotWidth src) i).toNat) (convMode rm seed dst i)
  (packCodes dst pm mask old fun i => (r i).1, activeFlags pm mask fun i => (r i).2)

/-- `VPACK` (R189). -/
def lanePack (f : Nat) (pm : BitVec 3) (mask old a b : VReg) : VReg :=
  let w := slotWidth f
  let j := (velem b 32 0).toNat % fmtPack f
  vofList ((List.range (2048 / w)).map fun i =>
    if i / 64 = j ∧ activeBit pm mask (i % 64) then
      BitVec.ofNat w ((velem a 32 (i % 64)).toNat % 2 ^ fmtBits f)
    else velem old w i)

/-- `VUNPACK` (R189): sign-extended for INT16, INT8 and INT4. A 6-bit code is read without its byte's top bits (R63). -/
def laneUnpack (f : Nat) (pm : BitVec 3) (mask old a b : VReg) : VReg :=
  let w := slotWidth f
  let j := (velem b 32 0).toNat % fmtPack f
  laneMap 32 pm mask old fun i =>
    let c := (velem a w (64 * j + i)).toNat % 2 ^ fmtBits f
    if f = 11 ∨ f = 12 ∨ f = 14 then BitVec.ofInt 32 (signedOf (fmtBits f) c) else BitVec.ofNat 32 c

/-- The values of the active elements of a block. -/
def activeValues (pm : BitVec 3) (mask a : VReg) (lo n : Nat) : List Num :=
  ((List.range' lo n).filter (activeBit pm mask)).map fun i => f32 (velem a 32 i)

/-- The scale of one BX32 block of `VQNT` (R191): 0 with no active element. -/
def blockScale (f : Nat) (pm : BitVec 3) (mask a : VReg) (blk : Nat) : Byte :=
  let xs := activeValues pm mask a (32 * blk) 32
  if xs = [] then 0 else bx32Scale f xs

/-- The q of `VQNT` under NQ4 (R191). -/
def quantQ (s : BitVec 32) (b : Num) : Byte :=
  match f32 s, b with
  | .nan _ _, _ => 0
  | .fin _ 0 _, _ => 0
  | .inf t, .inf _ => if t then 0 else 255
  | .inf _, _ => 0
  | .fin t _ _, .inf _ => if t then 0 else 255
  | .fin true _ _, _ => 0
  | .fin false _ _, m => nq4BlockCode s [m]

/-- `VQNT` (R190, R191): the codes with their flags, and the scale word. -/
def laneQnt (c f rm seed : Nat) (tab : BitVec 128) (pm : BitVec 3) (mask old a b : VReg) : Lanes × BitVec 32 :=
  if c = 1 then
    let x0 := blockScale f pm mask a 0
    let x1 := blockScale f pm mask a 1
    let r := fun i => bx32Encode f tab (if i < 32 then x0 else x1) (f32 (velem a 32 i)) (convMode rm seed f i)
    ((packCodes f pm mask old fun i => (r i).1, activeFlags pm mask fun i => (r i).2), (x1 ++ x0).setWidth 32)
  else
    let s := velem b 32 1
    let q := quantQ s ((maxMagnitude (activeValues pm mask a 0 64)).getD .zero)
    let r := fun i => nq4Encode s q (f32 (velem a 32 i))
    ((packCodes f pm mask old fun i => (r i).1, activeFlags pm mask fun i => (r i).2), q.setWidth 32)

/-- `VDQNT` (R191). -/
def laneDqnt (c f : Nat) (tab : BitVec 128) (pm : BitVec 3) (mask old a b : VReg) : Lanes :=
  laneMapF pm mask old fun i =>
    let code := (velem a (slotWidth f) i).toNat
    let e0 := velem b 32 0
    if c = 1 then bx32Decode f tab (if i < 32 then e0.extractLsb' 0 8 else e0.extractLsb' 8 8) code
    else nq4Decode (velem b 32 1) (e0.extractLsb' 0 8) code

end Sys2Proof.Machine
end

