-- ==== Sys2Proof/Machine/Tiles.lean ====
section
/-!
DEFINITION. Tile slots and what tile operations compute (R236–R264): handles, index maps, the exact value of an element, the
matrix sums of R91–R93, the microprogram of R258, and the conversion into a bank (R251).
-/
namespace Sys2Proof.Machine

/-! Handles and slots (R25, R236). -/

def hSlot (h : BitVec 32) : Nat := (h.extractLsb' 0 10).toNat
def hGen (h : BitVec 32) : BitVec 12 := h.extractLsb' 10 12
def hCrew (h : BitVec 32) : Nat := (h.extractLsb' 22 4).toNat
def hValid (h : BitVec 32) : Bool := h.getLsbD 31
/-- A handle (R25). -/
def mkHandle (slot : Nat) (gen : BitVec 12) (crew : Nat) : BitVec 32 :=
  1#1 ++ 0#5 ++ BitVec.ofNat 4 crew ++ gen ++ BitVec.ofNat 10 slot

def State.tileAt (s : State) (k n : Nat) : Tile := mget Tile.fresh (s.crewAt k).tiles n
def State.updTile (s : State) (k n : Nat) (f : Tile → Tile) : State :=
  s.updCrew k fun c => { c with tiles := mput c.tiles n (f (mget Tile.fresh c.tiles n)) }
/-- The crew a handle names, as a crew of the squad sees it. -/
def ownerCrew (k : Nat) (h : BitVec 32) : Nat := squadMate k (hCrew h)
/-- The slot a handle names. -/
def State.slotNamed (s : State) (k : Nat) (h : BitVec 32) : Tile := s.tileAt (ownerCrew k h) (hSlot h)
/-- A stale handle: another generation, a slot released (R240) or an unallocated slot (R235). -/
def State.stale (s : State) (k : Nat) (h : BitVec 32) : Bool :=
  let t := s.slotNamed k h
  !t.alloc || t.st == .draining || t.gen != hGen h
/-- A slot that becomes unallocated: its generation is raised (R236). -/
def Tile.freed (t : Tile) : Tile := { Tile.fresh with gen := t.gen + 1 }

/-- The fields of a bank format register (R265). -/
def bfFmt (b : Word) : Nat := (b.extractLsb' 0 4).toNat
def bfScale (b : Word) : Nat := (b.extractLsb' 4 2).toNat
def bfRm (b : Word) : Nat := (b.extractLsb' 8 3).toNat
def bfSeed (b : Word) : Nat := (b.extractLsb' 16 8).toNat
def State.bankFmt (s : State) (k bank : Nat) : Word := mget 0 (s.crewAt k).bfmt bank

/-- The scalings a format allows (R62): 0 none, 1 BX32, 2 NQ4. -/
def scaleAllowed (f sc : Nat) : Bool :=
  match sc with
  | 0 => f != 9
  | 1 => [4, 5, 6, 7, 8, 10, 12].contains f
  | 2 => f == 9
  | _ => false

/-- The size of a slot in KiB (R239). -/
def slotSize (f sc : Nat) : Nat :=
  if sc = 2 then 3
  else if f ≤ 1 then 16
  else if f = 2 ∨ f = 3 ∨ f = 11 then 8
  else (if f = 4 ∨ f = 5 ∨ f = 12 ∨ f = 13 then 4 else if f = 6 ∨ f = 7 then 3 else 2) + (if sc = 1 then 1 else 0)

/-- The crews of a squad. -/
def squadCrews (k : Nat) : List Nat := (List.range 16).map (squadMate k)
/-- The copy queues of a crew: its contexts' and its pinned continuations' (R44, R266). -/
def Crew.copyQueues (c : Crew) : List CopyQueue :=
  c.ctxs.flatMap (fun p => p.2.queues.toList) ++ c.parked.flatMap fun p => p.2.toList
/-- The tile slots that a copy entry reads: a tile source, and what a `CPYMM` follow-on takes (R240, R269). -/
def CopyEntry.readHandles (e : CopyEntry) : List (BitVec 32) :=
  (match e.src with | .tile h => [h] | .global _ => []) ++
    (if e.mm then [e.freg, e.facc] ++ (match e.dst with | .tile h => [h] | .global _ => []) else [])
/-- Whether a live node of the squad reads a slot, as an input or as the index of a gather, or a copy does (R240). -/
def State.isRead (s : State) (k slot : Nat) : Bool :=
  (squadCrews k).any fun q => (s.crewAt q).nodes.any (fun p => p.2.ins.any fun i =>
    (ownerCrew q i.2.handle == k && hSlot i.2.handle == slot) ||
      (i.2.map.kind == 5 && ownerCrew q i.2.map.index == k && hSlot i.2.map.index == slot)) ||
    (s.crewAt q).copyQueues.any fun x => x.entries.any fun e =>
      e.readHandles.any fun h => hValid h && ownerCrew q h == k && hSlot h == slot && (s.tileAt k slot).gen == hGen h
/-- DRAINING slots of the squad that nothing reads any more become unallocated (R236, R240). -/
def State.freeDrained (s : State) (k : Nat) : State :=
  (squadCrews k).foldl (fun s q =>
    let due := (s.crewAt q).tiles.filter fun p => p.2.alloc && p.2.st == .draining && !s.isRead q p.1
    due.foldl (fun s p => s.updTile q p.1 Tile.freed) s) s

/-- A node at a step boundary where no demand continues it (R330). -/
def Node.idle (n : Node) : Node := { n with demand := none, st := if n.st = .eval then .live else n.st }

/-- A context's demands evaluate the node no longer. -/
def Node.left (n : Node) (i : CtxId) : Node := { n with evaluators := n.evaluators.filter fun x => x.1 != i }
/-- Ends a context's demand at a step boundary: its nodes keep their flags (R78) and are in no state EVAL (R330). -/
def State.endDemand (s : State) (i : CtxId) : State :=
  s.updCrew i.crew fun c => { c with nodes := c.nodes.map fun p => (p.1, (if p.2.demand = some i then p.2.idle else p.2).left i) }

/-! Elements. -/

/-- The code of element (r, c). -/
def Tile.code (t : Tile) (r c : Nat) : Nat := (velem (mget 0 t.rows r) 32 c).toNat
/-- Writes the code of element (r, c). -/
def Tile.setCode (t : Tile) (r c code : Nat) : Tile :=
  { t with rows := mput t.rows r (vset (mget 0 t.rows r) 32 c (BitVec.ofNat 32 code)) }
/-- The FP32 bits of element (r, c) and the flags of its decoding (R80, R82, R86, R88). -/
def Tile.bits (t : Tile) (bf : Word) (k4 : BitVec 128) (r c : Nat) : BitVec 32 × Flags :=
  match bfScale bf with
  | 1 => bx32Decode (bfFmt bf) k4 (BitVec.ofNat 8 (mget 0 t.scales (2 * r + c / 32))) (t.code r c)
  | 2 => nq4Decode t.super (BitVec.ofNat 8 (mget 0 t.scales r)) (t.code r c)
  | _ => widen (bfFmt bf) k4 (t.code r c)
/-- The exact value of element (r, c). -/
def Tile.value (t : Tile) (bf : Word) (k4 : BitVec 128) (r c : Nat) : Num × Flags :=
  if bfScale bf = 0 then (valOf (bfFmt bf) k4 (t.code r c), 0)
  else let v := t.bits bf k4 r c; (f32 v.1, v.2)
/-- The value of element (r, c) as the sweep array takes it: exact, its scales applied (R92). [DEDUCED, log 103] -/
def Tile.operand (t : Tile) (bf : Word) (k4 : BitVec 128) (r c : Nat) : Num :=
  match bfScale bf with
  | 1 => bx32Exact (bfFmt bf) k4 (BitVec.ofNat 8 (mget 0 t.scales (2 * r + c / 32))) (t.code r c)
  | 2 => nq4Exact t.super (BitVec.ofNat 8 (mget 0 t.scales r)) (t.code r c)
  | _ => valOf (bfFmt bf) k4 (t.code r c)
/-- The integer in element (r, c) of an index tile (R247). -/
def Tile.intAt (t : Tile) (bf : Word) (r c : Nat) : Int :=
  let f := bfFmt bf
  let v := t.code r c % 2 ^ fmtBits f
  if f = 13 ∨ f = 15 then v else signedOf (fmtBits f) v

/-! Index maps (R246–R248). -/

def mapField (m : TMap) (lo : Nat) : Nat := (m.param.extractLsb' lo 6).toNat
def mapAxis (m : TMap) : Nat := if m.kind = 5 then (m.param.extractLsb' 4 1).toNat else (m.param.extractLsb' 0 1).toNat
/-- The map at task start (R246). -/
def TMap.ident : TMap := { kind := 0, param := 0, index := 0 }

/-- A position within the tile. -/
def inTile (r c : Int) : Option (Nat × Nat) :=
  if 0 ≤ r ∧ r ≤ 63 ∧ 0 ≤ c ∧ c ≤ 63 then some (r.toNat, c.toNat) else none

/-- The source position of a view element (R247), given the index tile of a GATHER. -/
def TMap.pos (m : TMap) (idx : Nat → Nat → Int) (r c : Nat) : Option (Nat × Nat) :=
  match m.kind with
  | 1 => inTile c r
  | 2 => inTile (r + mapField m 0) (c + mapField m 8)
  | 3 => inTile (mapField m 0 + r * mapField m 16) (mapField m 8 + c * mapField m 24)
  | 4 => if mapAxis m = 0 then inTile (mapField m 8) c else inTile r (mapField m 8)
  | 5 => if mapAxis m = 0 then inTile (idx r (mapField m 8)) c else inTile r (idx (mapField m 8) c)
  | _ => inTile r c

/-- Row-preserving maps (R248). [DEDUCED, log 45] -/
def TMap.rowPreserving (m : TMap) : Bool :=
  match m.kind with
  | 0 => true
  | 2 => mapField m 8 == 0
  | 3 => mapField m 8 == 0 && mapField m 24 == 1
  | 4 | 5 => mapAxis m == 0
  | _ => false

/-- A tile read through a map, with the index tile of a GATHER, and the slots they lie in. -/
structure View where
  slot : Nat
  islot : Nat
  tile : Tile
  bf : Word
  map : TMap
  index : Tile
  ibf : Word

/-- The view an input of a node, or a handle with a map, names. -/
def State.view (s : State) (k : Nat) (h : BitVec 32) (m : TMap) : View :=
  let t := s.slotNamed k h
  let i := s.slotNamed k m.index
  { slot := hSlot h, islot := hSlot m.index, tile := t, bf := s.bankFmt (ownerCrew k h) t.bank, map := m, index := i
    ibf := s.bankFmt (ownerCrew k m.index) i.bank }

def View.pos (v : View) (r c : Nat) : Option (Nat × Nat) := v.map.pos (v.index.intAt v.ibf) r c
/-- The FP32 bits and the exact value of a view element; +0 outside the tile. -/
def View.bits (v : View) (k4 : BitVec 128) (r c : Nat) : BitVec 32 × Flags :=
  match v.pos r c with | some p => v.tile.bits v.bf k4 p.1 p.2 | none => (0, 0)
def View.value (v : View) (k4 : BitVec 128) (r c : Nat) : Num × Flags :=
  match v.pos r c with | some p => v.tile.value v.bf k4 p.1 p.2 | none => (.zero, 0)
def View.operand (v : View) (k4 : BitVec 128) (r c : Nat) : Num :=
  match v.pos r c with | some p => v.tile.operand v.bf k4 p.1 p.2 | none => .zero
/-- The index element that a GATHER reads for a view element (R247). -/
def View.indexPos (v : View) (r c : Nat) : Option (Nat × Nat) :=
  if v.map.kind = 5 then some (if mapAxis v.map = 0 then (r, mapField v.map 8) else (mapField v.map 8, c)) else none
/-- The words of scales that element (r, c) takes, as `Tile.bad` numbers them: 4096 + the 64-bit word after offset D (R356). BX32
has byte 2r + c / 32; NQ4 has S in bytes 0–3 and q in byte 4 + r. -/
def scaleWords (bf : Word) (r c : Nat) : List Nat :=
  match bfScale bf with
  | 1 => [4096 + (2 * r + c / 32) / 8]
  | 2 => [4096, 4096 + (4 + r) / 8]
  | _ => []
/-- Whether an element of a slot, or a scale it takes, lies in a poisoned word (R403). -/
def Tile.poisoned (t : Tile) (bf : Word) (r c : Nat) : Bool :=
  t.bad.contains (64 * r + c) || (scaleWords bf r c).any t.bad.contains
/-- A poisoned element that a view reads: the index element of a GATHER, then the source element; its slot and its position in it
(R351, R352). -/
def View.poisoned (v : View) (r c : Nat) : Option (Nat × Nat × Nat) :=
  let idx := match v.indexPos r c with
    | some p => if v.index.poisoned v.ibf p.1 p.2 then some (v.islot, p) else none
    | none => none
  match idx, v.pos r c with
  | some p, _ => some p
  | none, some p => if v.tile.poisoned v.bf p.1 p.2 then some (v.slot, p) else none
  | none, none => none
/-- `TVAL` of a poisoned slot element: its slot, row and column (R352). -/
def poisonTval (p : Nat × Nat × Nat) : Word := BitVec.ofNat 64 (2 ^ 63 + p.1 * 2 ^ 16 + p.2.1 * 2 ^ 8 + p.2.2)
/-- Whether every view row lies inside the tile (R251). -/
def View.rowsInside (v : View) : Bool := (List.range 64).all fun r => (v.pos r 0).isSome

/-! Conversion into a bank (R251). -/

/-- The mode of a conversion at (r, c) under an RM and SEED (R73). -/
def tileMode (rm seed r c : Nat) : Mode := modeOf rm (dither r c seed)

/-- The code of one value in an unscaled bank, by the bank's own mode and seed (R72, R251). -/
def bankCode (bf : Word) (k4 : BitVec 128) (x : Num) (r c : Nat) : Nat × Flags :=
  roundTo (bfFmt bf) k4 x (tileMode (bfRm bf) (bfSeed bf) r c)

/-- Converts the exact values of some rows and columns into a scaled slot (R251, R83, R87): scales and codes together. -/
def scaledCodes (t : Tile) (bf : Word) (k4 : BitVec 128) (val : Nat → Nat → Num) (rows cols : List Nat) : Tile × Flags :=
  if bfScale bf = 1 then
    rows.foldl (fun acc r =>
      let blk := cols.headD 0 / 32
      [blk, 1 - blk].foldl (fun acc h =>
        let cs := cols.filter fun c => c / 32 == h
        if cs = [] then acc
        else
          let x := bx32Scale (bfFmt bf) (cs.map (val r))
          let t1 := { acc.1 with scales := mput acc.1.scales (2 * r + h) x.toNat }
          cs.foldl (fun a c =>
            let k := bx32Encode (bfFmt bf) k4 x (val r c) (tileMode (bfRm bf) (bfSeed bf) r c)
            (a.1.setCode r c k.1, a.2 ||| k.2)) (t1, acc.2)) acc) (t, 0)
  else
    let sup := nq4Super (rows.flatMap fun r => cols.map (val r))
    rows.foldl (fun acc r =>
      let q := nq4BlockCode sup (cols.map (val r))
      let t1 := { acc.1 with scales := mput acc.1.scales r q.toNat, super := sup }
      cols.foldl (fun a c =>
        let k := nq4Encode sup q (val r c)
        (a.1.setCode r c k.1, a.2 ||| k.2)) (t1, acc.2)) (t, 0)

/-- A code as it is written where its format is known: FP24's container has bits [7:0] 0 (R65). -/
def cleanCode (fmt c : Nat) : Nat := if fmt = 1 then c / 256 * 256 else c

/-- The first branch of `BankConvert` (R251): codes, and the scales of their rows, are copied unchanged. -/
def copiesCodes (sf ss : Nat) (keepsRows : Bool) (bf : Word) : Bool :=
  sf == bfFmt bf && ss == bfScale bf && (ss == 0 || keepsRows)

/-! Matrix sums (R91–R93). -/

/-- The summation families (R91). -/
inductive Family where
  | integer | group16 | group4 | fused
  deriving DecidableEq, Repr

/-- Whether a format counts as an integer of R91. -/
def intOperand (f sc : Nat) : Bool := sc == 0 && (f == 10 || decide (11 ≤ f))
def familyOf (fa sa fb sb : Nat) : Family :=
  if intOperand fa sa && intOperand fb sb then .integer
  else if fmtBits fa ≤ 8 ∧ fmtBits fb ≤ 8 then .group16
  else if fa ≤ 1 ∨ fb ≤ 1 then .fused
  else .group4

/-- The exact sum of one group (R92); products of a zero A are skipped (R93). -/
def groupSum (ps : List (Num × Num)) : Num :=
  let step := fun (acc : Num × Bool × Bool × Bool) (p : Num × Num) =>
    let (g, pinf, ninf, nan) := acc
    if p.1.isZero then acc
    else if p.1.isNaN || p.2.isNaN then (g, pinf, ninf, true)
    else
      match mulNum p.1 p.2 with
      | none => (g, pinf, ninf, true)
      | some (.inf s) => if s then (g, pinf, true, nan) else (g, true, ninf, nan)
      | some x => (addFin g x .rne, pinf, ninf, nan)
  let (g, pinf, ninf, nan) := ps.foldl step (Num.zero, false, false, false)
  if nan || (pinf && ninf) then .qnan
  else if pinf then .inf false
  else if ninf then .inf true
  else g

/-- `AddRNE` (R92), with the flags gathered so far: a NaN result, whatever gives it, raises NV (R94). -/
def addRne (acc : BitVec 32 × Flags) (g : Num) : BitVec 32 × Flags :=
  let r := arith [f32 acc.1, g] (addNum (f32 acc.1) g .rne) .rne
  (r.1, acc.2 ||| r.2 ||| (if (f32 r.1).isNaN then flagNV else 0))

/-- Groups of `n` in order. -/
def chunks (n : Nat) : Nat → List (Num × Num) → List (List (Num × Num))
  | 0, _ => []
  | _ + 1, [] => []
  | k + 1, l => l.take n :: chunks n k (l.drop n)

/-- One cell over its K products (R92). [DEDUCED, log 33] -/
def cellSum (fam : Family) (acc : BitVec 32) (ps : List (Num × Num)) : BitVec 32 × Flags :=
  let n := match fam with | .group16 => 16 | .group4 => 4 | _ => 1
  (chunks n 64 ps).foldl (fun a g => addRne a (groupSum g)) (acc, 0)

/-- The integer family: INT32 modulo 2^32, no flag. -/
def cellInt (acc : Int) (ps : List (Int × Int)) : Int :=
  signedOf 32 (intCode 32 (ps.foldl (fun a p => a + p.1 * p.2) acc))

/-- The integer an exact integral value is. -/
def Num.toInt (x : Num) : Int := x.scaled 0

/-- RoundTo(INT32, value, RNE) with saturation (R259). -/
def toInt32 (x : Num) : Int × Flags :=
  match x with
  | .nan _ _ => (0, flagNV)
  | .inf s => (if s then -2 ^ 31 else 2 ^ 31 - 1, flagNV)
  | .fin s n e =>
    let r := roundMult s n e 0 .rne
    let c := satInt 32 (-2 ^ 31) (2 ^ 31 - 1) (if s then -(r.1 : Int) else r.1) r.2
    (signedOf 32 c.1, c.2)

/-! The microprogram of `TMMX` (R258, R260, R342). -/

/-- The cell's registers S, T0 and T1. -/
structure CellRegs where
  sreg : BitVec 32
  t0 : BitVec 32
  t1 : BitVec 32
  flags : Flags

/-- An operand by its code (R258). -/
def uopOperand (a b : BitVec 32) (r : CellRegs) : Nat → BitVec 32
  | 0 => a | 1 => b | 2 => r.sreg | 3 => r.t0 | 4 => r.t1 | 5 => 0 | 6 => 0x3F800000#32 | 7 => 0x7F800000#32 | _ => 0xFF800000#32

/-- One micro-operation. -/
def runUop (u : BitVec 16) (a b : BitVec 32) (r : CellRegs) : CellRegs :=
  let d := (u.extractLsb' 8 4).toNat
  let x := uopOperand a b r (u.extractLsb' 4 4).toNat
  let y := uopOperand a b r (u.extractLsb' 0 4).toNat
  let v : BitVec 32 × Flags := match (u.extractLsb' 12 4).toNat with
    | 1 => fMul x y .rne
    | 2 => fAdd x y .rne
    | 3 => fSub x y .rne
    | 4 => minMaxF32 false x y
    | 5 => minMaxF32 true x y
    | 6 => (if (f32 a).isZero then y else x, 0)
    | _ => (x, 0)
  let r := { r with flags := r.flags ||| v.2 }
  match d with
  | 2 => { r with sreg := v.1 } | 3 => { r with t0 := v.1 } | _ => { r with t1 := v.1 }

/-- The micro-operations of a program before its first END. -/
def uops (w : Word) : List (BitVec 16) :=
  ((List.range 4).map fun j => w.extractLsb' (16 * j) 16).takeWhile fun u => u != 0

/-- The cell of a `TMMX` (R260). -/
def cellProgram (w : Word) (s0 : BitVec 32) (ps : List (BitVec 32 × BitVec 32)) : BitVec 32 × Flags :=
  let r := ps.foldl (fun r p => (uops w).foldl (fun r u => runUop u p.1 p.2 r) r)
    ({ sreg := s0, t0 := 0, t1 := 0, flags := 0 } : CellRegs)
  (r.sreg, r.flags)

/-- The initial state constant of INIT (R258). -/
def initConst (c : Nat) : BitVec 32 := uopOperand 0 0 { sreg := 0, t0 := 0, t1 := 0, flags := 0 } c

/-- Whether one micro-operation is legal (R258). -/
def uopOk (u : BitVec 16) : Bool :=
  let op := (u.extractLsb' 12 4).toNat
  let d := (u.extractLsb' 8 4).toNat
  let x := (u.extractLsb' 4 4).toNat
  let y := (u.extractLsb' 0 4).toNat
  if op = 0 then u == 0
  else decide (op ≤ 7) && decide (2 ≤ d) && decide (d ≤ 4) && decide (x ≤ 8) && decide (y ≤ 8) && (op != 7 || y == 0)

/-- Whether a microprogram word is legal (R258): nothing follows an END. -/
def programOk (w : Word) : Bool :=
  let us := (List.range 4).map fun j => w.extractLsb' (16 * j) 16
  us.all uopOk && (us.dropWhile fun u => u != 0).all fun u => u == 0

/-! Element-wise operations (R262) and reductions (R263). -/

/-- `TEW` on FP32 operands. -/
def tewVal (o : Nat) (a b : BitVec 32) (mode : Mode) : BitVec 32 × Flags :=
  match o with
  | 0 => fAdd a b mode
  | 1 => fSub a b mode
  | 2 => fMul a b mode
  | 3 => minMaxF32 false a b
  | 4 => minMaxF32 true a b
  | 5 => (a &&& 0x7FFFFFFF#32, 0)
  | 6 => (a ^^^ 0x80000000#32, 0)
  | k => specialFn (k - 7) a

/-- `TRED` of 64 FP32 values by the tree of R95. -/
def tredVal (o : Nat) (xs : List (BitVec 32)) (mode : Mode) : BitVec 32 × Flags :=
  let r := (treeFold (reduceOp o 2 mode) 6 (xs.map fun x => (some x, 0))).headD (none, 0)
  (presentOr r, r.2)

/-! Sub-tiles (R236, R333, R334). -/

def subRows (n : Nat) : List Nat := List.range' (16 * (n / 4)) 16
def subCols (n : Nat) : List Nat := List.range' (16 * (n % 4)) 16
/-- SubTiles of rows and columns. -/
def subTiles (rows cols : List Nat) : List Nat :=
  (List.range 16).filter fun n => rows.any (fun r => r / 16 == n / 4) && cols.any (fun c => c / 16 == n % 4)
/-- BackMap (R333). -/
def View.backMap (v : View) (rows cols : List Nat) : List Nat :=
  (List.range 16).filter fun n => rows.any fun r => cols.any fun c =>
    match v.pos r c with | some p => p.1 / 16 == n / 4 && p.2 / 16 == n % 4 | none => false
/-- Sub-tiles in conversion groups: those of the first, in order, that are wanted (R334). -/
def groupOf (kind n : Nat) : List Nat :=
  match kind with | 0 => [n] | 1 => [n / 2 * 2, n / 2 * 2 + 1] | _ => List.range 16

end Sys2Proof.Machine
end

