-- ==== Sys2Proof/Machine/Cox.lean ====
section
/-!
DEFINITION. The cox and the parts of the stakeboat that tasks meet (R36–R49, R305, R311, R316–R323): reports, slot status, the
record pool, the ready queue, and the retirement of tasks and records.
-/
namespace Sys2Proof.Machine

/-! The launch window and the slots' status (R302, R305). -/

/-- The two status words of a slot (R305). -/
def Slot.status (x : Slot) : Nat :=
  x.seq + 2 ^ 8 * x.state + 2 ^ 16 * x.reason + 2 ^ 32 * x.launch + 2 ^ 64 * (x.retired % 2 ^ 32) + 2 ^ 96 * (x.dropped % 2 ^ 32)
/-- The stakeboat writes a slot's status as one 16-byte write, which no undo log holds (R305, R407). -/
def State.showSlot (s : State) (i : Nat) : State :=
  { ({ s with actor := noLaunch }.hwWrite (s.windowBase + 0x1000 + 16 * i) 16 (s.slotAt i).status) with actor := s.actor }
def State.setSlot (s : State) (i : Nat) (f : Slot → Slot) : State := (s.updSlot i f).showSlot i
/-- A slot's STATE enters a value; 3 to 6 signal its vector (R305, R419). -/
def State.enterState (s : State) (i st reason : Nat) : State :=
  let s1 := s.setSlot i fun x => { x with state := st, reason := if reason = 0 then x.reason else reason }
  if 3 ≤ st then s1.signal i else s1

/-! Reports (R212, R320, R321). -/

/-- The 64 bytes of a report. -/
def Report.bits (r : Report) : Nat :=
  r.addr % 2 ^ 64 + 2 ^ 64 * (r.aux % 2 ^ 64) + 2 ^ 128 * (r.launch % 2 ^ 32) + 2 ^ 160 * (r.serial % 2 ^ 32) +
    2 ^ 192 * (r.pc % 2 ^ 64) + 2 ^ 256 * r.kind + 2 ^ 272 * (r.code % 2 ^ 16) + 2 ^ 288 * r.typ + 2 ^ 296 * r.wid

/-- Writes a report at the ring's tail, or counts it as dropped (R320). [DEDUCED, log 74] -/
def State.sendReport (s : State) (r : Report) : State :=
  match s.slotOf r.launch with
  | none => s
  | some i =>
    let x := s.slotAt i
    let len := x.field 0x5C 4
    let base := BitVec.ofNat 64 (x.field 0x60 8)
    let ring := base + BitVec.ofNat 64 (64 * len)
    let tail := s.recRead ring 0 8
    if len ≤ (tail + 2 ^ 64 - s.recRead ring 8 8) % 2 ^ 64 then s.setSlot i fun x => { x with dropped := x.dropped + 1 }
    else
      let s1 := { s with actor := r.launch }
      { (s1.recWrite base (64 * (tail % len)) 64 r.bits).recWrite ring 0 8 ((tail + 1) % 2 ^ 64) with actor := s.actor }

/-- Insertion by a key, behind equal keys. -/
def insertByKey {α : Type} (key : α → Nat) (a : α) : List α → List α
  | [] => [a]
  | b :: r => if key a < key b then a :: b :: r else b :: insertByKey key a r
def sortByKey {α : Type} (key : α → Nat) (l : List α) : List α := l.foldl (fun acc a => insertByKey key a acc) []
/-- Ascending (PADDR, ELEM, KIND). -/
def Report.key (r : Report) : Nat := r.addr * 2 ^ 32 + r.code * 2 ^ 16 + r.kind

/-- The reports that a line's home holds, of every launch (R321). -/
def State.heldReports (s : State) (addr : Nat) : Nat :=
  s.slots.foldl (fun n p => n + p.2.held.countP fun h => h.addr == addr && decide (h.kind ≤ 2)) 0
/-- A report on its way reaches its queue, or is held under ordered reporting (R321). -/
def State.fileReport (s : State) (r : Report) : State :=
  match s.slotOf r.launch with
  | none => s
  | some i =>
    let x := s.slotAt i
    if x.field 0x2E 2 % 2 = 0 ∨ 4 < r.kind then s.sendReport r
    else if r.kind ≤ 2 ∧ 64 ≤ s.heldReports r.addr then
      (s.undoAppend (r.addr / 128)).updMeta (r.addr / 128) fun m => { m with poison := true }
    else s.updSlot i fun x => { x with held := x.held ++ [r] }

/-- Posts the held reports that a test selects, in ascending key. -/
def State.releaseHeld (s : State) (i : Nat) (p : Report → Bool) : State :=
  let due := sortByKey Report.key ((s.slotAt i).held.filter p)
  due.foldl State.sendReport (s.updSlot i fun x => { x with held := x.held.filter fun r => !p r })

/-- Reports posted in a step reach their queues; held reports of lines frozen are posted (R320, R321). -/
def State.settle (s : State) : State :=
  if s.posts = [] && s.slots.all (fun p => p.2.held == []) then s
  else
    let s1 := s.posts.foldl State.fileReport { s with posts := [] }
    (s1.slots.filter fun p => p.2.held != []).foldl (fun s p =>
      s.releaseHeld p.1 fun r => decide (r.kind ≤ 2) && (s1.metaOf (r.addr / 128)).frozen) s1

/-- A report of KIND 0x10 to 0x18 (R320). -/
def taskReport (kind addr aux launch serial pc code : Nat) : Report where
  kind := kind
  addr := addr
  aux := aux
  launch := launch
  serial := serial
  pc := pc
  code := code
  typ := 0
  wid := 0

/-! Counters and the record pool (R47, R311). -/

/-- `JOIN.CNT.w.SYS` by the stakeboat of three elements of a counter line (R47, R311). -/
def State.countJoin (s : State) (launch va e0 e1 e2 : Nat) : State :=
  let j : JoinMsg := {
    ltype := .cnt, width := 2, data := BitVec.ofNat 1024 (e0 + 2 ^ 32 * e1 + 2 ^ 64 * e2), elem := 0, countOnly := false
    src := .slice, launch := launch, serial := 0, pc := 0, va := BitVec.ofNat 64 va }
  match s.hwPlace (BitVec.ofNat 64 va) with
  | .nowhere | .control _ => s
  | .remote pk p => if s.routeUp pk then s.fly pk (lineOf p) va (.join j) none else s
  | .host p | .device p =>
    let s1 := { s with actor := launch }
    let s2 := if s1.lineBusy (lineOf p) then s1.request (lineOf p) (.join j)
      else ((s1.recallDeltas (lineOf p)).joinAtHome (lineOf p) j none).1
    { s2 with actor := s.actor }

/-- [DEDUCED, log 58] -/
def Slot.pool (x : Slot) : Nat := x.field 0x50 8
/-- The index of a record in a launch's pool. [DEDUCED, log 55] -/
def Slot.recordIndex (x : Slot) (r : Word) : Option Nat :=
  let o := r.toNat - x.pool
  if x.pool ≤ r.toNat ∧ o % 192 = 0 ∧ o / 192 < x.field 0x58 4 then some (o / 192) else none
/-- The records of a pool in use, by any launch that names it. -/
def State.inUse (s : State) (pool j : Nat) : Bool := s.slots.any fun p => p.2.live? && p.2.pool == pool && p.2.taken.contains j
/-- The free records of a launch's pool. -/
def State.freeRecords (s : State) (i : Nat) : List Nat :=
  (List.range ((s.slotAt i).field 0x58 4)).filter fun j => !s.inUse (s.slotAt i).pool j
/-- Takes the lowest free record of a launch's pool. -/
def State.takeRecord (s : State) (i : Nat) : Option (Word × State) :=
  match (s.freeRecords i).head? with
  | none => none
  | some j => some (BitVec.ofNat 64 ((s.slotAt i).pool + 192 * j), s.updSlot i fun x => { x with taken := x.taken ++ [j] })
/-- The crews whose queue holds a record of a launch. -/
def State.holders (s : State) (launch : Nat) : List Nat :=
  (s.crews.filter fun p => p.2.queue.entries.any fun e => s.recRead e.record 0x24 4 == launch).map Prod.fst
/-- The tasks whose own last round of a slot was bad and whose `COLLW` has still to trap (R274). -/
def CollSlot.owing (x : CollSlot) : List Word := (if x.bad then x.record :: x.failed else x.failed).filter fun r => r != 0
/-- A slot whose task no longer owes the trap of its last round. -/
def CollSlot.forget (x : CollSlot) (record : Word) : CollSlot :=
  { x with bad := x.bad && x.record != record, failed := x.failed.filter fun r => r != record }
/-- A slot of a task that is gone: what its round still writes belongs to no task. -/
def CollSlot.orphaned (x : CollSlot) (record : Word) : CollSlot :=
  { x.forget record with record := if x.record = record then 0 else x.record }
/-- A record that goes back to its pool has no rounds any more: a later task on it starts without them. -/
def State.orphanRounds (s : State) (r : Word) : State :=
  let mine := s.crews.filter fun p => p.2.colls.any fun c => c.2.record == r || c.2.failed.contains r
  mine.foldl (fun s p => s.updCrew p.1 fun k => { k with colls := k.colls.map fun (c : Nat × CollSlot) => (c.1, c.2.orphaned r) }) s

/-- Returns a record to its pool; the last one completes the launch (R311). -/
def State.returnRecord (s : State) (launch : Nat) (r : Word) : State :=
  match s.slotOf launch with
  | none => s
  | some i =>
    match (s.slotAt i).recordIndex r with
    | none => s
    | some j =>
      let s0 := s.orphanRounds r
      let s1 : State := { (s0.updSlot i fun x => { x with taken := x.taken.filter fun k => k != j }) with homes := mdel s.homes r.toNat }
      if (s1.slotAt i).taken = [] then s1.push (.launchComplete i)
      else (s1.holders launch).foldl (fun s k => s.push (.contextTakesRecord k)) s1

/-! The ready queue (R316, R319, R323). -/

/-- Whether entry `a` is served before entry `b` (R316). -/
def Entry.before (deep : Bool) (a b : Entry) : Bool :=
  let d := (b.ecycle + 2 ^ 56 - a.ecycle) % 2 ^ 56
  if a.prio ≠ b.prio then decide (b.prio < a.prio)
  else if d ≠ 0 then (decide (d < 2 ^ 55)) != deep
  else if a.src ≠ b.src then decide (a.src < b.src)
  else a.record.ult b.record

/-- Inserts an entry in service order. -/
def insertEntry (deep : Bool) (e : Entry) : List Entry → List Entry
  | [] => [e]
  | b :: r => if e.before deep b then e :: b :: r else b :: insertEntry deep e r

/-- Whether entries with equal keys but their record stay in place: what a change of mode reorders by. -/
def Entry.movesBefore (deep : Bool) (a b : Entry) : Bool := a.before deep { b with record := a.record }
def reorder (deep : Bool) (l : List Entry) : List Entry :=
  l.foldl (fun acc e => put deep e acc) []
where
  put (deep : Bool) (e : Entry) : List Entry → List Entry
    | [] => [e]
    | b :: r => if e.movesBefore deep b then e :: b :: r else b :: put deep e r

def State.updQueue (s : State) (k : Nat) (f : Queue → Queue) : State := s.updCrew k fun c => { c with queue := f c.queue }
def Queue.capacity (q : Queue) : Nat := 64 + q.spillCap
/-- Whether a crew's queue and spill region are full (R319). -/
def State.queueFull (s : State) (k : Nat) : Bool :=
  let q := (s.crewAt k).queue
  decide (q.capacity ≤ q.entries.length)

/-- The queue's mode follows the spill region's occupancy (R323). -/
def State.queueMode (s : State) (k : Nat) : State :=
  let q := (s.crewAt k).queue
  let spilled := q.entries.length - 64
  let want := if q.deep then decide (q.low * q.spillCap ≤ 100 * spilled) else decide (q.high * q.spillCap < 100 * spilled)
  if want = q.deep then s
  else if s.splitsLacks k then s.push (.splitsFull k)
  else (s.splitsCox k 9 0 want.toNat 0).updQueue k fun q => { q with deep := want, entries := reorder want q.entries }

/-- The entries of a queue beyond the 64 on chip lie in its spill region, in the order of service (R316). No undo log holds them.
[DEDUCED, log 64] -/
def State.spillEntries (s : State) (k : Nat) : State :=
  let q := (s.crewAt k).queue
  if q.entries.length ≤ 64 then s
  else
    let t := (List.range (q.entries.length - 64)).foldl (fun s j =>
      match q.entries[64 + j]? with | some e => s.hwWrite (q.spillBase + 16 * j) 16 e.bytes | none => s) { s with actor := noLaunch }
    { t with actor := s.actor }

/-- Places an entry; one that finds the queue and the spill region full waits (R319). -/
def State.placeEntry (s : State) (k : Nat) (e : Entry) : State :=
  ((s.updQueue k fun q =>
    if q.capacity ≤ q.entries.length then { q with waiting := q.waiting ++ [e] }
    else { q with entries := insertEntry q.deep e q.entries }).queueMode k).spillEntries k

/-- Takes an entry out; the oldest waiting entry then finds room. -/
def State.takeEntry (s : State) (k : Nat) (r : Word) : State :=
  (s.updQueue k fun q =>
    let q1 := { q with entries := q.entries.filter fun e => e.record != r }
    if q1.entries.length < q.entries.length then
      match q1.waiting with
      | [] => q1
      | w :: ws => { q1 with waiting := ws, entries := insertEntry q1.deep w q1.entries }
    else { q1 with waiting := q1.waiting.filter fun e => e.record != r }).spillEntries k
/-- The same, with the queue's mode. -/
def State.removeEntry (s : State) (k : Nat) (r : Word) : State := ((s.takeEntry k r).queueMode k).spillEntries k

/-- Whether a reserved field of a record is not 0 (R37, R38, R39). [DEDUCED, log 57] -/
def State.badRecord (s : State) (r : Word) : Bool :=
  let flags := s.recRead r 0x2E 2
  let code := s.recRead r 0 8
  decide (flags / 2 ^ 7 ≠ 0) || decide (s.recRead r 0x38 2 / 2 ^ 10 % 16 ≠ 0) || decide (s.recRead r 0x3A 1 / 4 ≠ 0) ||
    decide (s.recRead r 0x3C 2 / 2 ^ 10 ≠ 0) || (decide (s.recRead r 0x3E 2 ≠ 0) && decide (flags / 2 % 2 = 0)) ||
    decide (code % 4 ≠ 0) || decide (code / 2 ^ 55 ≠ 0)

/-- Sends a record to the ready queue that may hold it (R39, R44, R221). -/
def State.enqueue (s : State) (r : Word) (dflt src : Nat) : State :=
  let k := (s.queueFor r dflt).getD dflt
  let prio := s.recRead r 0x3A 1 % 4
  s.deliver k (.recordEnqueue k r prio src) (.enqueue r prio src)

/-! Retirement (R45, R48, R49, R280, R281). -/

/-- How a task ends. -/
inductive Ending where
  | done | faulted | cancelled
  deriving DecidableEq, Repr

/-- The tasks a record stands for when it is cancelled before it starts (R48): each coordinate of a range. -/
def State.unitsOf (s : State) (r : Word) (e : Ending) : Nat :=
  let f := s.recRead r 0x2E 2
  if e = .cancelled ∧ f % 2 = 1 ∧ f / 4 % 2 = 0 then
    let n := fun o => s.recRead r (0x30 + o) 2 - s.recRead r (0x28 + o) 2 + 1
    n 0 * n 2 * n 4
  else 1

/-- Retires a record (R45 steps 2–4, R48): its flags, the decrements of PARENT and SUCC, the launch counter and the pool. Writes still on
their way count for no task any more. -/
def State.closeRecord (s : State) (r : Word) (e : Ending) (epc : Word) : State :=
  let launch := s.recRead r 0x24 4
  let n := s.unitsOf r e
  let f := s.recRead r 0x2E 2
  let bits := match e with | .done => 0x20 | .faulted => 0x60 | .cancelled => 0x28
  let s0 := { s with actor := launch }
  let s1 := s0.recWrite r 0x2E 2 (f ||| bits)
  let s2 := [0x10, 0x18].foldl (fun s o =>
    let p := BitVec.ofNat 64 (s1.recRead r o 8)
    if p = 0 then s else (List.range n).foldl (fun s _ => s.push (.joinCountDecrement p epc 32)) s) s1
  let s3 := match s2.slotOf launch with
    | none => s2
    | some i =>
      let x := s2.slotAt i
      let c := fun (q : Ending) => if q = e then n else 0
      (s2.countJoin launch (x.field 0x68 8) (c Ending.done) (c Ending.cancelled) (c Ending.faulted)).setSlot i fun x => { x with
        retired := x.retired + n, anyCancelled := x.anyCancelled || e == Ending.cancelled, anyFaulted := x.anyFaulted || e == Ending.faulted }
  { ((s3.returnRecord launch r).progress launch) with
    actor := s.actor
    owed := s3.owed.map fun (o : Owed) => if o.record = some r then { o with record := none } else o }

/-- A copy's tile outputs return to EMPTY when the copy is discarded (R49). -/
def State.emptyOutputs (s : State) (k : Nat) (e : CopyEntry) : State :=
  let clear := fun (s : State) (h : BitVec 32) =>
    if hValid h then s.updTile k (hSlot h) fun t => if t.gen = hGen h ∧ t.st = .filling then { t with st := .empty, mask := 0 } else t
    else s
  let s1 := match e.dst with | .tile h => clear s h | .global _ => s
  if e.mm then clear s1 e.fout else s1
def State.dropCopies (s : State) (k : Nat) (qs : Vector CopyQueue 4) : State :=
  (qs.toList.flatMap CopyQueue.entries).foldl (fun s e => s.emptyOutputs k e) s

/-- Nodes and slots of a task that ends (R280, R281): its live nodes are discarded, EMPTY slots and FILLING slots without a writer
are freed, READY slots pass to the launch. -/
def State.dropTiles (s : State) (k : Nat) (r : Word) : State :=
  let s1 := s.updCrew k fun c => { c with nodes := c.nodes.filter fun p => p.2.record != r }
  (s1.updCrew k fun c => { c with tiles := c.tiles.map fun p =>
    if p.2.alloc && p.2.owner == r && r != 0 then
      (p.1, match p.2.st with | .ready => { p.2 with owner := 0 } | .draining => p.2 | _ => p.2.freed)
    else p }).freeDrained k

/-- A pinned-continuation entry becomes free (R44): the parks that wait for one try again. -/
def State.freePin (s : State) (k e : Nat) : State :=
  let s1 := s.updCrew k fun c => { c with pins := c.pins.filter fun x => x != e, parked := mdel c.parked e }
  ((s1.crewAt k).ctxs.filter fun p => p.2.wait == some .pinFull).foldl (fun s p =>
    s.push (.parkAfterStoreEntry { crew := k, n := p.1 })) s1

/-- A failure count of a status word (R230). -/
def statusField (n bit sh : Nat) : Word :=
  BitVec.ofNat 64 ((if n = 0 then 0 else 2 ^ bit) + 2 ^ sh * min n 255)
/-- The `FENCE` status word (R230). -/
def Failures.status (f : Failures) : Word :=
  statusField f.lost 0 8 ||| statusField f.refused 1 16 ||| statusField f.poisoned 2 24 ||| statusField f.timedout 3 32

/-- Failures that no `FENCE` has reported when a context gives its task up (R231). -/
def State.reportFailures (s : State) (i : CtxId) : State :=
  let c := s.ctxAt i
  let f := c.fails.merge c.arrFails
  if f.total = 0 then s
  else
    (s.updCtx i fun c => { c with fails := .none, arrFails := .none }).post
      (taskReport 0x10 c.record.toNat f.status.toNat c.launch.toNat c.serial.toNat 0 0)

/-- What a context's instruction awaited of lines and of other packages goes with its task. -/
def State.dropReaders (s : State) (i : CtxId) : State :=
  let s1 := s.dropTurns i
  if s1.replies.any (fun x => x.reader == 32 * i.crew + i.n) then
    { s1 with replies := s1.replies.filter fun x => x.reader != 32 * i.crew + i.n } else s1
/-- A context becomes FREE (R18); its pending interrupts stay pending and are taken (R388), and its grant is 0 at once (R165). Writes of
a taskless handler that are still on their way count for nobody any more. [DESIGN CHOICE, log 130] -/
def State.freeContext (s : State) (i : CtxId) : State :=
  let c := s.ctxAt i
  let s0 := { s with owed := s.owed.map fun (o : Owed) => if o.ctx = i ∧ o.record = some 0 then { o with record := none } else o }
  let s1 := ((((s0.dropArrivals i fun _ => true).dropReaders i).dropContextWatches i).endDemand i).updCtx i fun c => {
    Ctx.fresh with pendPre := c.pendPre, pendSplits := c.pendSplits, pendDbg := c.pendDbg }
  let s2 := if c.pendPre || c.pendSplits || c.pendDbg then s1.push (.interruptEntry i) else s1
  s2.push (.contextTakesRecord i.crew)

/-- DATA of a splits record about a record (R326). -/
def recordData (r : Word) : Nat := r.toNat / 64 % 2 ^ 50

/-- Retires the task of a context (R45, R49, R280, R390). -/
def State.retireTask (s : State) (i : CtxId) (e : Ending) : State :=
  let c := s.ctxAt i
  let k := i.crew
  let aux := match e with | .done => 0 | .faulted => 1 | .cancelled => 2
  let s1 := s.splitsCox k 3 (whoOf i.n) aux (recordData c.record)
  let s2 := if e = .done then s1 else s1.dropCopies k c.queues
  ((((s2.dropTiles k c.record).reportFailures i).closeRecord c.record e c.trap.tepc).freeContext i)

/-- Whether a context's task is on its way out (R49, R327). -/
def Ctx.ending (c : Ctx) : Bool := match c.wait with | some (.retiring _) => true | _ => false
/-- A task that is cancelled or faulted leaves its context once a cancelled one's stores and joins have drained (R49) and the splits buffer
can record the stop (R327). -/
def State.endTask (s : State) (i : CtxId) (faulted : Bool) : State :=
  let lacks := s.splitsLacks i.crew
  if (faulted || (s.ctxAt i).drained) && !lacks then s.retireTask i (if faulted then .faulted else .cancelled)
  else
    let s1 := s.updCtx i fun c => { c with st := .stalled, wait := some (.retiring faulted) }
    if lacks then s1.push (.splitsFull i.crew) else s1
/-- Ends the wait of a task that a cancellation has reached (R49): its watch goes, its copies are discarded, and it is retired once its
stores and joins have drained. -/
def State.cancelTask (s : State) (i : CtxId) : State :=
  let s1 := (s.dropContextWatches i).endDemand i
  let s2 := (s1.dropCopies i.crew (s.ctxAt i).queues).updCtx i fun c => {
    c with queues := Vector.replicate 4 CopyQueue.fresh, cnt := { c.cnt with copies := 0 } }
  s2.endTask i false

/-- The KIND 0x11 report of a task that a fatal fault ends (R35, R390). -/
def State.fatalReport (s : State) (i : CtxId) (code aux : Nat) (pc : Word) : State :=
  let c := s.ctxAt i
  s.post (taskReport 0x11 c.record.toNat aux c.launch.toNat c.serial.toNat pc.toNat code)

/-- A trap at depth 2 or in the boot context (R35, R454): the task is reported and retired as faulted; a context without a task
becomes FREE; the boot context stops, and BOOTFAIL is set while the boot is not complete. [DEDUCED, log 37] -/
def State.fatalStop (s : State) (i : CtxId) : State :=
  let c := s.ctxAt i
  if c.boot then
    let f := s.pkg.fields
    let s1 := s.updCtx i fun c => { c with stopped := true }
    if f.booted || f.bootfail then s1
    else ({ s1 with pkg := { s1.pkg with fields := { f with bootfail := true } } }).signal 16
  else if c.hasTask then
    (s.fatalReport i c.trap.tcause.toNat c.trap.tval.toNat c.trap.tepc).endTask i true
  else s.freeContext i

/-- The context that runs a record, if any. -/
def State.runner (s : State) (r : Word) : Option CtxId :=
  s.crews.findSome? fun p => (p.2.ctxs.find? fun q => q.2.record == r && r != 0).map fun q => { crew := p.1, n := q.1 }

/-! Writes that are counted late (R199, R229, R232). -/

/-- The serial of a record's task while it is on no context. -/
def State.parkedSerial (s : State) (r : Word) : Nat :=
  match mget? s.homes r.toNat with | some h => h.serial.toNat | none => 0
/-- Failures of unit writes of a task's engines (R230, R254, R268): to its context's status word, or to a report while it is parked; a loss
that rolls its job back starts the rollback (R409). [DEDUCED, log 53] -/
def State.unitFails (s : State) (i : Option CtxId) (r : Word) (launch : Nat) (f : Failures) : State :=
  if f.total = 0 then s
  else
    let rolls := decide (f.lost + f.poisoned + f.timedout ≠ 0)
    match (if rolls then s.rollbackFor launch else none) with
    | some job => s.push (.rollbackRestart job)
    | none =>
      let s1 := if rolls then s.noteAbandoned launch else s
      match i with
      | some c => s1.updCtx c fun x => { x with fails := x.fails.merge f }
      | none => s1.post (taskReport 0x10 r.toNat f.status.toNat launch (s.parkedSerial r) 0 0)

/-- The context that work of a record counts for: the one that runs it, or the taskless handler `i` that started it. -/
def State.worker (s : State) (r : Word) (i : CtxId) : Option CtxId :=
  if r = 0 then (if (s.ctxAt i).hasTask then none else some i) else s.runner r
/-- The launch of such work: none of a taskless handler's. -/
def State.workLaunch (s : State) (r : Word) : Nat := s.recordLaunch r
/-- The context that an entry's writes count for. -/
def State.creditor (s : State) (o : Owed) : Option CtxId := o.record.bind fun r => s.worker r o.ctx

/-- Every write of an entry is counted or resolved: an instruction's count goes back to its context, an engine's failures to its task. -/
def State.payOwed (s : State) (o : Owed) : State :=
  match o.maker with
  | .store tag =>
    match s.creditor o with
    | some i =>
      if o.tagged then s.counted i tag o.home o.fails
      else s.updCtx i fun c => { c with
        hostWrites := c.hostWrites - 1, cnt := { c.cnt with stores := c.cnt.stores - 1 }, fails := c.fails.merge o.fails }
    | none => s
  | _ =>
    match o.record with
    | some r => s.unitFails (s.creditor o) r (s.workLaunch r) o.fails
    | none => s

/-- Takes an entry to what is left of it. -/
def State.settleOwed (s : State) (o : Owed) : State :=
  if o.parts = 0 ∧ o.host = 0 then { s with owed := s.owed.filter fun x => x.id != o.id }.payOwed o
  else { s with owed := s.owed.map fun x => if x.id = o.id then o else x }
/-- One write of an entry is counted at its home, or resolved with a failure (R230). -/
def State.resolvePart (s : State) (id : Option Nat) (f : Option Fail) : State :=
  match id.bind fun n => s.owed.find? fun o => o.id == n with
  | some o => s.settleOwed { o with parts := o.parts - 1, fails := o.fails.merge (failsOf f) }
  | none => s

/-- The joins on their way to a line, each with the entry that counts it: those a slice holds, those in its home's busy list or to be sent
again, and those on a link. -/
def State.joinsToward (s : State) (l : Nat) : List (JoinMsg × Option Nat) :=
  let queued := fun (q : List (Nat × HomeRequest)) => q.filterMap fun r => if r.1 == l then r.2.joinOf?.map fun j => (j, none) else none
  ((s.heldJoins.filter fun h => h.line == l).map fun h => (h.join, h.owed)) ++
    queued (mget [] s.busyList (homeOf l)) ++ queued (mget [] s.retry (homeOf l)) ++
    s.flying.filterMap fun f => match f.cargo with | .join j => if f.line == l then some (j, f.owed) else none | _ => none
/-- The same without them. -/
def State.withoutJoins (s : State) (l : Nat) : State :=
  let keep := fun (q : List (Nat × HomeRequest)) => q.filter fun r => r.1 != l || r.2.joinOf?.isNone
  { s with
    heldJoins := s.heldJoins.filter fun h => h.line != l
    flying := s.flying.filter fun f => !(f.joins && f.line == l)
    busyList := s.busyList.map fun (p : Nat × List (Nat × HomeRequest)) => (p.1, keep p.2)
    retry := s.retry.map fun (p : Nat × List (Nat × HomeRequest)) => (p.1, keep p.2) }
/-- The joins that reach a line between the phase boundary and its reset (R227, R301): each is refused with its report, KIND 3 on a frozen
line, else KIND 4, and discarded. -/
def State.discardJoins (s : State) (l : Nat) : State :=
  let kind := if (s.metaOf l).frozen then 3 else 4
  (s.joinsToward l).foldl (fun s h =>
    (if h.1.fromHost then s.hostReport l (joinReport kind l h.1) else s.post (joinReport kind l h.1)).resolvePart h.2 none) (s.withoutJoins l)
/-- Resets a line of an arena (R227): the joins on their way to it are discarded first, and what else waits for it is served after it. -/
def State.resetArenaLine (s : State) (l : Nat) : State :=
  let t := (s.discardJoins l).resetLine l
  if s.joinsToward l = [] then t else t.releaseLines [l]

/-- Retires a record that is on no context (R48, R361): it leaves its queue, its watch is removed, and a pinned continuation gives
its resources up. -/
def State.retireRecord (s : State) (r : Word) (e : Ending) : State :=
  let f := s.recRead r 0x2E 2
  if f / 32 % 2 = 1 then s
  else
    let ls := (s.watches.filter fun w => match w.waiter with | .parked q _ => q == r | _ => false).map Watch.line
    let s1 := ls.foldl (fun s l => s.dropWatches (fun w => match w.waiter with | .parked q _ => q == r | _ => false) l) s
    let s2 := (s1.crews.filter fun p => (p.2.queue.entries ++ p.2.queue.waiting).any fun x => x.record == r).foldl
      (fun s p => s.removeEntry p.1 r) s1
    let ps := s2.recRead r 0x3E 2
    let s3 := if f / 2 % 2 = 1 ∧ f / 4 % 2 = 1 then
        match s2.crewOfLogical (ps / 64 % 32) (ps / 2048 % 32) with
        | some k => ((s2.dropCopies k (mget (Vector.replicate 4 CopyQueue.fresh) (s2.crewAt k).parked (ps % 64))).dropTiles k r).freePin k (ps % 64)
        | none => s2
      else s2
    s3.closeRecord r e 0

/-- A record that may not run (R39): reported and counted as faulted. -/
def State.refuseRecord (s : State) (r : Word) : State :=
  (s.post (taskReport 0x12 r.toNat 0 (s.recRead r 0x24 4) 0 0 0)).retireRecord r .faulted

end Sys2Proof.Machine
end

