-- ==== Sys2Proof/Machine/Ops.lean ====
section
/-!
DEFINITION. The shared operations of instructions: draining the vector side, taking an exception and returning from one
(R57, R159, R387), the interrupts of a context (R388), and closing a meaning into a step's outcome.
-/
namespace Sys2Proof.Machine

/-- Completes a context's vector commands (R168, R170): their flags are ORed into `FPFLAGS`. -/
def Ctx.drainVec (c : Ctx) : Ctx :=
  let f := c.vq.foldl (fun a v => a ||| v.flags) 0
  { c with vq := [], fp := { c.fp with fpflags := c.fp.fpflags ||| f.setWidth 64 },
           cnt := { c.cnt with loads := c.cnt.loads - (c.vq.filter VCmd.isLoad).length } }

/-- `TSTATUS` at an entry (R387): the depth rises, INTR says which kind, BLOCK, TMR and TEXP are cleared, the reserved
fields keep their bits. -/
def statusAtEntry (t : Word) (intr : Bool) : Word :=
  (t &&& ~~~(0x3FF#64)) ||| ((t &&& 3#64) + 1#64) ||| (if intr then 8#64 else 0#64)

/-- The trap CSRs and the mode of a context that enters system mode (R57, R387). A debug interrupt releases a BLOCKED one (R388). -/
def Ctx.enter (c : Ctx) (cause : Nat) (tval epc dpc vec : Word) (intr : Bool) : Ctx :=
  { c with
    st := .handler, wait := none, answer := none, freezeAt := none, pc := vec, ublock := false
    inSplits := c.inSplits || (intr && cause == 0x161)
    trap := { c.trap with
      tcause := BitVec.ofNat 64 cause, tval := tval, tepc := epc, tdpc := dpc
      tstatus := statusAtEntry c.trap.tstatus intr } }

/-- The RECORD word of a context's image (R387, R397). -/
def Crew.saveRecord (k : Crew) (n : Nat) (r : Word) : Crew :=
  { k with sysbank := k.sysbank.writeN (0x3000 + 1024 * n) 8 r.toNat }

/-- Whether a cause is a consumption of poison (R196, R405). -/
def poisonCause (c : Nat) : Bool := c == 0x87 || c == 0x97 || c == 0xA7 || c == 0xB7

/-- Taking an exception or interrupt (R57, R387): earlier vector commands complete first. At depth 2, and in the boot
context, the context stops instead (R35). -/
def State.enterTrap (s : State) (i : CtxId) (cause : Nat) (tval epc dpc : Word) (intr : Bool) : State :=
  let s0 := if poisonCause cause then s.noteAbandoned (s.ctxAt i).launchId else s
  let s1 := s0.updCtx i Ctx.drainVec
  let c := s1.ctxAt i
  if c.boot || c.depth == 2 then
    (s1.updCtx i fun c => { c with
      st := .handler, wait := none
      trap := { c.trap with tcause := BitVec.ofNat 64 cause, tval := tval, tepc := epc, tdpc := dpc } }).fatalStop i
  else
    let vec := (s1.crewAt i.crew).thvec
    (s1.updCtx i fun c => c.enter cause tval epc dpc vec intr).updCrew i.crew fun k => k.saveRecord i.n c.record

/-- Stalls the issuing context (R18). -/
def Ctx.stall (c : Ctx) (w : Wait) : Ctx := { c with st := .stalled, wait := some w }

/-- Whether a cancellation ends a wait (R48, R49): any but the drains of a park, of `DONE` and of a retirement, which are its points of
delivery themselves. -/
def Wait.cancellable : Wait → Bool
  | .stores | .engines | .retiring _ => false
  | _ => true

/-- The state a meaning's result leaves. An instruction whose request its crew holds issues again (R365). A task that a cancellation has reached is retired when it stalls in task mode (R49). -/
def Res.finish : Res Next → State
  | .ok n s => s.upd fun c => c.advance n
  | .trap cause tval s =>
    if cause = heldCause then s.upd fun c => { c with wait := some .requests } else s.enterTrap s.cur cause tval s.pc 0 false
  | .thunk cause tval epc s => s.enterTrap s.cur cause tval epc s.pc false
  | .wait w s =>
    if s.cx.cancelled && s.cx.depth == 0 && s.cx.hasTask && w.cancellable then s.cancelTask s.cur
    else s.upd fun c => c.stall w
  | .hold w s => s.upd fun c => { c with wait := w }

/-- The outcome of an instruction. -/
def Res.close (r : Res Next) : Host.Outcome State Fault Refusal := .next r.finish

/-- An instruction that writes x(d) and goes on. -/
def State.writesX (s : State) (d : BitVec 6) (v : Word) : Host.Outcome State Fault Refusal :=
  (Res.ok .seq (s.setX d v)).close
/-- An instruction that writes p(d) and goes on. -/
def State.writesP (s : State) (d : BitVec 3) (v : Bool) : Host.Outcome State Fault Refusal :=
  (Res.ok .seq (s.setP d v)).close
/-- A taken transfer, or none (R142). -/
def State.transfers (s : State) (taken : Bool) (t : Word) : Host.Outcome State Fault Refusal :=
  (Res.ok (if taken then .jump t else .seq) s).close

/-- Sets one loop (R146). -/
def State.setLoop (s : State) (n : BitVec 1) (l : Loop) : State :=
  s.upd fun c => if n = 0 then { c with l0 := l } else { c with l1 := l }
def State.loopAt (s : State) (n : BitVec 1) : Loop := if n = 0 then s.cx.l0 else s.cx.l1

/-- A pending interrupt of a context, in the order debug, pre-emption, splits-full (R388): its cause and `TVAL`. -/
def State.nextInterrupt (s : State) (i : CtxId) : Option (Nat × Word) :=
  let c := s.ctxAt i
  if c.pendDbg then some (0x162, 0)
  else if c.pendPre then some (0x160, 0)
  else if c.pendSplits then some (0x161, BitVec.ofNat 64 (splitsHead (s.crewAt i.crew).splitctl))
  else none

/-- Whether a context holds a pending interrupt. -/
def Ctx.pending (c : Ctx) : Bool := c.pendDbg || c.pendPre || c.pendSplits

/-- `TSTATUS` as it reads (R386): the pending interrupts in [18:16]. -/
def Ctx.tstatus (c : Ctx) : Word :=
  (c.trap.tstatus &&& ~~~(0x70000#64)) ||| (if c.pendPre then 0x10000#64 else 0) ||| (if c.pendSplits then 0x20000#64 else 0)
    ||| (if c.pendDbg then 0x40000#64 else 0)

/-- The cycles of a block with a timer (R389): 2^(TEXP + 10). -/
def blockTime (t : Word) : Nat := 2 ^ ((t.extractLsb' 5 5).toNat + 10)

/-- The reserved bits of `TSTATUS` (R386). -/
def statusReserved : Word := 0xFFFFFFFFFFF8FC00#64

/-- Records a lane grant in the splits buffer (R166): the state, or none when it does not fit. -/
def State.logGrant (s : State) (g : Nat) : Option State :=
  let k := s.cur.crew
  let c := (s.crewAt k).splitctl
  if splitsGrants c then
    if splitsFull? c then none else some (s.splitsPut k 6 (whoOf s.cur.n) g 0)
  else some s

/-- The grant `LCLAIM` computes (R164), counting this context among the crew's claims. -/
def State.grantFor (s : State) (n : Nat) : Nat :=
  let others := (s.crewAt s.cur.crew).ctxs.countP fun p => p.1 != s.cur.n && p.2.grant != 0
  min n (8 * max 1 (8 / (others + 1)))

/-- Fixes the grant of the issuing context (R164–R166). -/
def State.claim (s : State) (n : Nat) : Option (Nat × State) :=
  let g := s.grantFor n
  (s.logGrant g).map fun s => (g, s.upd fun c => { c with grant := g, req := n })

/-- Faults that a context's task has been told of are owed no longer once it returns to task mode (R346). -/
def State.forgetTold (s : State) (i : CtxId) : State :=
  let r := (s.ctxAt i).record
  s.updCrew i.crew fun c => { c with nodes := c.nodes.map fun p =>
    (p.1, if p.2.record = r ∧ p.2.told then { p.2 with owed := none, told := false } else p.2) }

/-- What waits for room in a crew's splits buffer is tried again when a handler of splits-full has returned (R327). -/
def State.retrySplits (s : State) (k : Nat) : State :=
  let s1 := s.push (.contextTakesRecord k)
  if s.splitsWaits k then s1.push (.splitsFull k) else s1

/-- `TRET` (R159): the return from an exception. Illegal in task mode; refused by a reserved bit or a misaligned `TEPC`; else back
to the interrupted handler, or to task mode with the loop step, blocked if BLOCK asks for it, with its grant recomputed after an
interrupt (R165) unless the splits buffer has no room to record it (R327). A taskless handler returns its context to FREE whatever
`TEPC` holds (R388), and a cancelled task is retired in place of the return (R49). -/
def State.trapReturn (s : State) : Res Next :=
  let c := s.cx
  let t := c.trap.tstatus
  if c.depth = 0 then .trap 0x0B 0 s
  else if t &&& statusReserved ≠ 0 then .trap 0x0C c.tstatus s
  else if c.depth = 1 && !c.hasTask then
    let s1 := s.upd fun c => { c with trap := { c.trap with tstatus := (t &&& ~~~(7#64)) ||| ((t &&& 3#64) - 1#64) }, st := .free, pc := 0, boot := false, inSplits := false }
    let s2 := if c.pending then s1.push (.interruptEntry s.cur) else s1
    .ok .placed (s2.retrySplits s.cur.crew)
  else if c.trap.tepc &&& 3#64 ≠ 0 then .trap 0x0F c.trap.tepc s
  else
    let back := fun (c : Ctx) => { c with trap := { c.trap with tstatus := (t &&& ~~~(7#64)) ||| ((t &&& 3#64) - 1#64) } }
    if c.depth = 2 then .ok .placed (s.upd fun c => { back c with pc := c.trap.tepc })
    else if c.cancelled then .ok .placed (s.cancelTask s.cur)
    else
      let blk := t.getLsbD 2
      let s1 := (s.forgetTold s.cur).upd fun c =>
        let c1 := (back c).stepTo c.trap.tepc c.trap.tepc false
        { c1 with
          inSplits := false
          st := if blk then .blocked else .active
          blockUntil := if blk && t.getLsbD 4 then some (s.clock + blockTime t) else none }
      match (if t.getLsbD 3 && c.req != 0 then (s1.claim c.req).map Prod.snd else some s1) with
      | none => .trap 0x150 6 s
      | some s2 =>
        let s3 := if blk && t.getLsbD 4 then s2.after (blockTime t) (.blockTimerExpiry s.cur) else s2
        let s4 := (if c.inSplits then s3.retrySplits s.cur.crew else s3).push (.asyncFaultDelivery s.cur)
        .ok .placed (if c.pending then s4.push (.interruptEntry s.cur) else s4)

end Sys2Proof.Machine
end

