-- ==== Sys2Proof/Machine/Thunk.lean ====
section
/-!
DEFINITION. The thunk table and the stroke sequencer (R328–R353): the demand walk, the steps of a node, forcing, and the faults
of deferred work. A demand runs one step at a time: each step is an event of its own, and the stalled instruction is issued
again after it, which walks again from the masks and the saved progress (R256, R335).
-/
namespace Sys2Proof.Machine

/-- What a node computes. -/
inductive NodeOp where
  | tload
  | tmm (acc : Bool)
  | tmmx (acc : Bool)
  | tew (o : Nat)
  | tred (col : Bool) (o : Nat)
  | tcvt | ttrans | tgath | tqnt
  deriving DecidableEq, Repr

/-- The operation of a creating instruction. -/
def nodeOp : Instr → NodeOp
  | .tload _ _ => .tload
  | .tmm _ _ _ c => .tmm (c == 1)
  | .tmmx _ _ _ c => .tmmx (c == 1)
  | .tew _ _ _ o => .tew o.toNat
  | .tred _ _ x o => .tred (x == 1) o.toNat
  | .tcvt _ _ => .tcvt
  | .ttrans _ _ => .ttrans
  | .tgath _ _ _ => .tgath
  | _ => .tqnt
def Node.op (n : Node) : NodeOp :=
  match decode n.word with | .ok i => nodeOp i | .error _ => .tqnt

def State.nodeAt? (s : State) (k i : Nat) : Option Node := mget? (s.crewAt k).nodes i
def State.putNode (s : State) (k i : Nat) (n : Node) : State := s.updCrew k fun c => { c with nodes := mput c.nodes i n }
def State.dropNode (s : State) (k i : Nat) : State := s.updCrew k fun c => { c with nodes := mdel c.nodes i }
/-- The live node that writes a slot. -/
def State.writerOf (s : State) (k slot : Nat) : Option (Nat × Node) :=
  (s.crewAt k).nodes.find? fun p => hSlot p.2.out == slot && hGen p.2.out == (s.tileAt k slot).gen

/-- The age of a creation number in a crew (R328): numbers compare modulo 2^32, and an older node's is smaller. -/
def State.age (s : State) (k cno : Nat) : Nat := (cno + 2 ^ 32 - (s.crewAt k).cno % 2 ^ 32) % 2 ^ 32

/-- The view an input position gives. -/
def State.inView (s : State) (k : Nat) (n : Node) (p : Nat) : View :=
  match mget? n.ins p with
  | some i => s.view k i.handle i.map
  | none => s.view k 0 TMap.ident
/-- The bank format of a node's output. -/
def State.outBank (s : State) (k : Nat) (n : Node) : Word := s.bankFmt k (s.tileAt k (hSlot n.out)).bank

/-! The memory window (R243, R244). -/

/-- A memory window through TSH0–TSH2. -/
structure Window where
  base : Nat
  pitch : Nat
  fmt : Nat
  scale : Nat
  rows : Nat
  cols : Nat
  rm : Nat
  seed : Nat
  sbase : Nat
  spitch : Nat

/-- The window of shape registers at a base; `rows` and `cols` count elements. -/
def windowOf (tsh : Vector Word 8) (base : Nat) : Window where
  base := base
  pitch := (tsh[0].extractLsb' 0 32).toNat
  fmt := (tsh[0].extractLsb' 32 4).toNat
  scale := (tsh[0].extractLsb' 36 2).toNat
  rows := (tsh[0].extractLsb' 40 6).toNat + 1
  cols := (tsh[0].extractLsb' 48 6).toNat + 1
  rm := (tsh[0].extractLsb' 56 3).toNat
  seed := (tsh[2].extractLsb' 32 8).toNat
  sbase := (tsh[1].extractLsb' 0 55).toNat
  spitch := (tsh[2].extractLsb' 0 32).toNat

/-- The bits an element of a format takes in memory (R62, R65). -/
def memBits (f : Nat) : Nat := if f ≤ 1 then 32 else fmtBits f
/-- The bytes of a window row's elements (R244). -/
def Window.rowBytes (w : Window) : Nat :=
  if memBits w.fmt = 6 then 3 * ((w.cols + 3) / 4) else (memBits w.fmt * w.cols + 7) / 8
/-- The address of an element's first byte and the bit in it. -/
def Window.bitAt (w : Window) (r c : Nat) : Nat := 8 * (w.base + r * w.pitch) + memBits w.fmt * c
/-- The address of a scale byte: X of half-row (r, c), or q of row r. -/
def Window.scaleAt (w : Window) (r c : Nat) : Nat :=
  if w.scale = 1 then w.sbase + r * w.spitch + c / 32 else w.sbase + 4 + r * w.spitch
/-- The bytes from the first of row 0 to the last of the last row (R348). -/
def Window.range (w : Window) : Nat × Nat := (w.base, w.base + (w.rows - 1) * w.pitch + w.rowBytes)

/-- The base of a `TLOAD` or `TSTORE` (R253): x(a) + TBASE, a 55-bit address when it is canonical. -/
def tileBase (xa : Word) (tsh : Vector Word 8) : Nat := (xa + (tsh[4].extractLsb' 0 55).setWidth 64).toNat

/-! Engine accesses (R53, R196). -/

/-- The reason that stands for a task-mode access to a system page, which is the privileged operation's cause wherever it is met (R34).
[DEDUCED, log 105] -/
def reasonPrivileged : Nat := 16

/-- Translates an engine's access and checks the page kind: the leaf, or the reason. System pages take engine accesses in
system mode only. -/
def State.engineLeaf (s : State) (k va : Nat) (wr sys : Bool) : Except Nat (Leaf × State) :=
  let u : Use := if wr then .engineWrite else .engineRead
  match (if s.requestsHeld k then .error heldReason else s.leafFor (s.sliceFor k (BitVec.ofNat 64 va)) (BitVec.ofNat 64 va) u.need) with
  | .error r => .error r
  | .ok (l, s1) =>
    match pageVerdict u l.kind (!sys) with
    | none => .ok (l, s1)
    | some .privileged => .error reasonPrivileged
    | some (.cause c) => .error (c % 16)

/-- The cause of a fault of work that runs after its instruction has issued: `0x0B0` plus the reason (R270, R352), and the
privileged operation's cause for a task-mode access to a system page (R34). [DEDUCED, log 105] -/
def deferredCause (r : Nat) : Nat := if r = reasonPrivileged then 0x06 else 0xB0 + r

/-- Whether a lattice page's line may be read by an engine: frozen lines only (R53). -/
def State.engineMayRead (s : State) (leaf : Leaf) (va : Nat) : Bool :=
  leaf.kind != 2 ||
    (match s.bytesAt (leaf.addr (BitVec.ofNat 64 va)) with | some p => (s.metaOf (lineOf p)).frozen | none => true)

/-- `n` bytes of one line as an engine reads them: the value, or the reason. -/
def State.engineRead (s : State) (k va n : Nat) (sys : Bool) : Except Nat (Nat × State) :=
  match s.engineLeaf k va false sys with
  | .error r => .error r
  | .ok (leaf, s1) => if s1.engineMayRead leaf va then s1.dataAt none false k leaf (BitVec.ofNat 64 va) n else .error 4

/-- `n` bytes from an address that may cross lines, all of which an engine has found readable (`State.linesFault`). -/
def State.looseRead (s : State) (k va : Nat) (sys : Bool) : Nat → Nat
  | 0 => 0
  | n + 1 =>
    (match s.engineRead k va 1 sys with | .ok p => p.1 % 256 | .error _ => 0) + 256 * s.looseRead k (va + 1) sys n

/-- The code, and the exact value, of a memory element of a window. -/
def State.memCode (s : State) (k : Nat) (w : Window) (sys : Bool) (r c : Nat) : Nat :=
  let b := w.bitAt r c
  let n := (b % 8 + memBits w.fmt + 7) / 8
  s.looseRead k (b / 8) sys n / 2 ^ (b % 8) % 2 ^ memBits w.fmt
def State.memValue (s : State) (k : Nat) (w : Window) (k4 : BitVec 128) (sys : Bool) (r c : Nat) : Num × Flags :=
  let code := s.memCode k w sys r c
  match w.scale with
  | 1 => let v := bx32Decode w.fmt k4 (BitVec.ofNat 8 (s.looseRead k (w.scaleAt r c) sys 1)) code; (f32 v.1, v.2)
  | 2 =>
    let v := nq4Decode (BitVec.ofNat 32 (s.looseRead k w.sbase sys 4)) (BitVec.ofNat 8 (s.looseRead k (w.scaleAt r c) sys 1)) code
    (f32 v.1, v.2)
  | _ => (valOf w.fmt k4 code, 0)

/-- Inserts into an ascending list without repeats. -/
def insertSorted (x : Nat) : List Nat → List Nat
  | [] => [x]
  | y :: r => if x < y then x :: y :: r else if x = y then y :: r else y :: insertSorted x r

/-- The source lines of an element: every line that holds a bit of it or of a scale it takes. -/
def Window.elemLines (w : Window) (r c : Nat) : List Nat :=
  let b := w.bitAt r c
  [b / 1024, (b + memBits w.fmt - 1) / 1024] ++
    (match w.scale with
      | 1 => [w.scaleAt r c / 128]
      | 2 => [w.sbase / 128, (w.sbase + 3) / 128, w.scaleAt r c / 128]
      | _ => [])
/-- The source lines of some elements, ascending. -/
def Window.linesOf (w : Window) (es : List (Nat × Nat)) : List Nat :=
  (es.flatMap fun e => w.elemLines e.1 e.2).foldl (fun a l => insertSorted l a) []
/-- The source lines of a window region, ascending, with those of its scales (R336). -/
def Window.lines (w : Window) (rows cols : List Nat) : List Nat :=
  w.linesOf ((rows.filter (· < w.rows)).flatMap fun r => (cols.filter (· < w.cols)).map fun c => (r, c))
/-- The first of some source lines that an engine cannot read: the reason and the line's address; none when all can be read. -/
def State.linesFault (s : State) (k : Nat) (sys : Bool) (ls : List Nat) : Option (Nat × Nat) :=
  ls.findSome? fun l => match s.engineRead k (128 * l) 128 sys with | .error r => some (r, 128 * l) | .ok _ => none

/-! What a node's elements are. -/

/-- The row index a `TGATH` reads (R264). -/
def View.rowIndex (v : View) (r : Nat) : Int :=
  match v.pos r 0 with | some p => v.tile.intAt v.bf p.1 p.2 | none => 0

/-- Whether a node's conversion copies codes (R251): a scaled `TGATH` does only when every row it takes is a view row inside the
tile, and through a row-preserving map only when every row of the map lies inside. [DEDUCED, log 133] -/
def State.nodeCopies (s : State) (k : Nat) (n : Node) : Bool :=
  let bf := s.outBank k n
  let v := s.inView k n 0
  let keeps := v.map.rowPreserving && v.rowsInside
  match n.op with
  | .tload => let w := windowOf n.tsh 0; copiesCodes w.fmt w.scale true bf
  | .tcvt => copiesCodes (bfFmt v.bf) (bfScale v.bf) keeps bf
  | .tgath =>
    let inside := bfScale bf == 0 || (List.range 64).all fun r =>
      let i := (s.inView k n 1).rowIndex r
      decide (0 ≤ i) && decide (i ≤ 63)
    copiesCodes (bfFmt v.bf) (bfScale v.bf) (keeps && inside) bf
  | .ttrans => copiesCodes (bfFmt v.bf) (bfScale v.bf) false bf
  | _ => false

/-- Whether the rows that a `TGATH` takes decide its conversion: with other formats, or a map that moves columns, it converts whichever
they are (R251). -/
def State.mayCopy (s : State) (k : Nat) (n : Node) : Bool :=
  let v := s.inView k n 0
  copiesCodes (bfFmt v.bf) (bfScale v.bf) v.map.rowPreserving (s.outBank k n)

/-- The kind of a node's conversion groups (R334, R353). -/
def State.groupKind (s : State) (k : Nat) (n : Node) : Nat :=
  if s.nodeCopies k n then 0 else bfScale (s.outBank k n)

/-- The source positions of a matrix cell or element: pairs of input position and view element. -/
def State.reads (s : State) (k : Nat) (n : Node) (r c : Nat) : List (Nat × Nat × Nat) :=
  match n.op with
  | .tload => []
  | .tmm acc | .tmmx acc =>
    ((List.range 64).flatMap fun j => [(0, r, j), (1, c, j)]) ++ (if acc then [(2, r, c)] else [])
  | .tew _ => if (mget? n.ins 1).isSome then [(0, r, c), (1, r, c)] else [(0, r, c)]
  | .tred col _ =>
    if col then (if r = 0 then (List.range 64).map fun j => (0, j, c) else [])
    else (if c = 0 then (List.range 64).map fun j => (0, r, j) else [])
  | .ttrans => [(0, c, r)]
  | .tgath =>
    let i := (s.inView k n 1).rowIndex r
    (1, r, 0) :: (if 0 ≤ i ∧ i ≤ 63 then [(0, i.toNat, c)] else [])
  | _ => [(0, r, c)]

/-- The lowest poisoned slot element some outputs read (R352): slot, row and column. -/
def State.poisonedRead (s : State) (k : Nat) (n : Node) (outs : List (Nat × Nat)) : Option (Nat × Nat × Nat) :=
  (outs.flatMap fun o => s.reads k n o.1 o.2).findSome? fun q =>
    (s.inView k n q.1).poisoned q.2.1 q.2.2

/-- The FP32 or INT32 value of a matrix cell (R259): its flags are those of `AddRNE` alone (R94). -/
def State.cell (s : State) (k : Nat) (n : Node) (acc : Bool) (r c : Nat) : Num × Flags :=
  let a := s.inView k n 0
  let b := s.inView k n 1
  let fam := familyOf (bfFmt a.bf) (bfScale a.bf) (bfFmt b.bf) (bfScale b.bf)
  let ps := (List.range 64).map fun j => (a.operand n.k4 r j, b.operand n.k4 c j)
  if fam = .integer then
    let start := if acc then (toInt32 ((s.inView k n 2).value n.k4 r c).1).1 else 0
    (.ofInt (cellInt start (ps.map fun p => (p.1.toInt, p.2.toInt))), 0)
  else
    let start : BitVec 32 := if acc then ((s.inView k n 2).bits n.k4 r c).1 else 0
    let v := cellSum fam start ps
    (f32 v.1, v.2)

/-- The value of a `TMMX` cell (R260): its flags are those of its micro-operations. -/
def State.cellX (s : State) (k : Nat) (n : Node) (acc : Bool) (r c : Nat) : Num × Flags :=
  let a := s.inView k n 0
  let b := s.inView k n 1
  let ps := (List.range 64).map fun j => ((a.bits n.k4 r j).1, (b.bits n.k4 c j).1)
  let start : BitVec 32 := if acc then ((s.inView k n 2).bits n.k4 r c).1 else initConst (n.tsh[3].extractLsb' 8 4).toNat
  let v := cellProgram n.mprog start ps
  (f32 v.1, v.2)

/-- The exact value of output element (r, c), with its flags (R259–R264). -/
def State.elemVal (s : State) (k : Nat) (n : Node) (sys : Bool) (r c : Nat) : Num × Flags :=
  let v := s.inView k n 0
  let mode := fpMode' n.fpctl
  match n.op with
  | .tload =>
    let w := windowOf n.tsh (tileBase n.xa n.tsh)
    if r < w.rows ∧ c < w.cols then s.memValue k w n.k4 sys r c else (.zero, 0)
  | .tmm acc => s.cell k n acc r c
  | .tmmx acc => s.cellX k n acc r c
  | .tew o =>
    let a := v.bits n.k4 r c
    let b : BitVec 32 × Flags := if (mget? n.ins 1).isSome then (s.inView k n 1).bits n.k4 r c else (0, 0)
    let x := tewVal o a.1 b.1 mode
    (f32 x.1, a.2 ||| b.2 ||| x.2)
  | .tred col o =>
    if (if col then r else c) = 0 then
      let xs := (List.range 64).map fun j => if col then v.bits n.k4 j c else v.bits n.k4 r j
      let x := tredVal o (xs.map Prod.fst) mode
      (f32 x.1, xs.foldl (fun f p => f ||| p.2) x.2)
    else (.zero, 0)
  | .ttrans => v.value n.k4 c r
  | .tgath =>
    let i := (s.inView k n 1).rowIndex r
    if 0 ≤ i ∧ i ≤ 63 then v.value n.k4 i.toNat c else (.zero, 0)
  | _ => v.value n.k4 r c
where
  /-- RM with SR acting as RNE (R72). -/
  fpMode' (fpctl : Word) : Mode :=
    let rm := (fpctl.extractLsb' 0 3).toNat
    if rm = 4 then .rne else modeOf rm 0

/-- The source position whose code and scales a copying conversion takes. -/
def State.copySource (s : State) (k : Nat) (n : Node) (r c : Nat) : Option (Nat × Nat) :=
  let v := s.inView k n 0
  match n.op with
  | .ttrans => v.pos c r
  | .tgath =>
    let i := (s.inView k n 1).rowIndex r
    if 0 ≤ i ∧ i ≤ 63 then v.pos i.toNat c else none
  | _ => v.pos r c

/-- The code that stands for +0 in a format (R88: the nearest entry of a K4 table). [DEDUCED, log 32] -/
def zeroCode (bf : Word) (k4 : BitVec 128) : Nat := if bfFmt bf = 9 then 8 else (roundTo (bfFmt bf) k4 .zero .rne).1

/-- One output element written into an unscaled slot, or copied with its row's scales (R251); a copied FP24 container has bits [7:0]
0 (R65). -/
def State.writeElem (s : State) (k : Nat) (n : Node) (sys copies : Bool) (acc : Tile × Flags) (rc : Nat × Nat) : Tile × Flags :=
  let (r, c) := rc
  let bf := s.outBank k n
  if copies then
    match n.op with
    | .tload =>
      let w := windowOf n.tsh (tileBase n.xa n.tsh)
      if r < w.rows ∧ c < w.cols then
        let t := acc.1.setCode r c (cleanCode w.fmt (s.memCode k w sys r c))
        (match w.scale with
          | 1 => { t with scales := mput t.scales (2 * r + c / 32) (s.looseRead k (w.scaleAt r c) sys 1) }
          | 2 => { t with scales := mput t.scales r (s.looseRead k (w.scaleAt r c) sys 1),
                          super := BitVec.ofNat 32 (s.looseRead k w.sbase sys 4) }
          | _ => t, acc.2)
      else (acc.1.setCode r c (zeroCode bf n.k4), acc.2)
    | _ =>
      let v := s.inView k n 0
      match s.copySource k n r c with
      | none => (acc.1.setCode r c (zeroCode bf n.k4), acc.2)
      | some (r', c') =>
        let t := acc.1.setCode r c (cleanCode (bfFmt v.bf) (v.tile.code r' c'))
        (match bfScale v.bf with
          | 1 => { t with scales := mput t.scales (2 * r + c / 32) (mget 0 v.tile.scales (2 * r' + c' / 32)) }
          | 2 => { t with scales := mput t.scales r (mget 0 v.tile.scales r'), super := v.tile.super }
          | _ => t, acc.2)
  else
    let x := s.elemVal k n sys r c
    let y := bankCode bf n.k4 x.1 r c
    (acc.1.setCode r c y.1, acc.2 ||| x.2 ||| y.2)

/-! Steps (R336). -/

/-- A step of a group. -/
inductive Step where
  | beat (line : Nat)
  | sweep (sub : Nat)
  | lanes (outs : List (Nat × Nat))
  | convert
  /-- A group whose window region is empty. -/
  | blank
  deriving DecidableEq, Repr

/-- The elements of a sub-tile. -/
def subElems (n : Nat) : List (Nat × Nat) := (subRows n).flatMap fun r => (subCols n).map fun c => (r, c)

/-- The steps of a group, in order. -/
def Node.stepsOf (n : Node) (kind first : Nat) : List Step :=
  let g := groupOf kind first
  let work := match n.op with
    | .tload =>
      let w := windowOf n.tsh (tileBase n.xa n.tsh)
      let ls := (g.flatMap fun t => w.lines (subRows t) (subCols t)).foldl (fun a l => insertSorted l a) []
      if ls = [] ∧ kind = 0 then [.blank] else ls.map .beat
    | .tmm _ | .tmmx _ => g.map .sweep
    | .tred col _ =>
      g.flatMap fun t =>
        if (if col then t / 4 else t % 4) = 0 then
          (List.range 16).map fun j => .lanes (if col then (subRows t).map fun r => (r, 16 * (t % 4) + j)
            else (subCols t).map fun c => (16 * (t / 4) + j, c))
        else (List.range 4).map fun j => .lanes ((subElems t).filter fun e => e.1 % 16 / 4 == j)
    | _ => g.flatMap fun t => (List.range 4).map fun j => .lanes ((subElems t).filter fun e => e.1 % 16 / 4 == j)
  work ++ (if kind = 0 then [] else [.convert])

/-- The elements a beat completes: those whose last source line it reads. -/
def beatElems (w : Window) (kind first line : Nat) : List (Nat × Nat) :=
  ((groupOf kind first).flatMap subElems).filter fun e =>
    decide (e.1 < w.rows) && decide (e.2 < w.cols) && (w.elemLines e.1 e.2).foldl max 0 == line

/-- Whether a demand runs in system mode, which lets it read system pages (R53). -/
def State.demandSys (s : State) (n : Node) : Bool :=
  match n.demand with | some i => (s.ctxAt i).depth != 0 | none => false

/-- Values of a widened group's elements go to the staging buffer (R339). -/
def State.stageElems (s : State) (k : Nat) (n : Node) (sys : Bool) (es : List (Nat × Nat)) : Node :=
  es.foldl (fun n e =>
    let v := s.elemVal k n sys e.1 e.2
    { n with stage := mput n.stage (64 * e.1 + e.2) v.1, flags := n.flags ||| v.2 }) n

/-- Elements written into the slot by a step of a group of one sub-tile. -/
def State.writeElems (s : State) (k : Nat) (n : Node) (sys : Bool) (es : List (Nat × Nat)) : Node × Tile :=
  let r := es.foldl (s.writeElem k n sys (s.nodeCopies k n)) (s.tileAt k (hSlot n.out), 0)
  ({ n with flags := n.flags ||| r.2 }, r.1)

/-- The conversion step (R251, R339). -/
def State.convertGroup (s : State) (k : Nat) (n : Node) : Node × Tile :=
  let g := groupOf n.group n.sub
  let rows := if n.group = 2 then List.range 64 else subRows n.sub
  let cols := (List.range 64).filter fun c => g.any fun t => c / 16 == t % 4
  let r := scaledCodes (s.tileAt k (hSlot n.out)) (s.outBank k n) n.k4 (fun r c => mget .zero n.stage (64 * r + c)) rows cols
  ({ n with flags := n.flags ||| r.2 }, r.1)

/-- Performs a step: the node and the slot afterwards, or the reason and `TVAL` of its fault (R351, R352). -/
def State.doStep (s : State) (k : Nat) (n : Node) (st : Step) : Except (Nat × Word) (Node × Tile) :=
  let sys := s.demandSys n
  let put := fun (es : List (Nat × Nat)) =>
    if n.group = 0 then s.writeElems k n sys es else (s.stageElems k n sys es, s.tileAt k (hSlot n.out))
  let lanes := fun (es : List (Nat × Nat)) =>
    match s.poisonedRead k n es with
    | some p => .error (7, poisonTval p)
    | none => .ok (put es)
  match st with
  | .beat l =>
    let w := windowOf n.tsh (tileBase n.xa n.tsh)
    let es := beatElems w n.group n.sub l
    match s.linesFault k sys (l :: w.linesOf es) with
    | some (r, va) => .error (r, BitVec.ofNat 64 va)
    | none => .ok (put es)
  | .sweep t => lanes (subElems t)
  | .lanes es => lanes es
  | .convert => .ok (s.convertGroup k n)
  | .blank => .ok (put (subElems n.sub))

/-- Elements of a `TLOAD` group that lie outside the window are +0. -/
def State.fillOutside (s : State) (k : Nat) (n : Node) (t : Tile) : Tile :=
  match n.op with
  | .tload =>
    let w := windowOf n.tsh 0
    if n.group ≠ 0 then t
    else (subElems n.sub).foldl (fun t e =>
      if e.1 < w.rows ∧ e.2 < w.cols then t else t.setCode e.1 e.2 (zeroCode (s.outBank k n) n.k4)) t
  | _ => t

/-- Delivers flags to a context (R78). -/
def Ctx.orFlags (c : Ctx) (f : BitVec 5) : Ctx := { c with fp := { c.fp with fpflags := c.fp.fpflags ||| f.setWidth 64 } }

/-- Whether a context still runs the task that owns a node. -/
def State.ownsNode (s : State) (i : CtxId) (n : Node) : Bool :=
  let c := s.ctxAt i
  c.record == n.record && c.hasTask

/-- Delivers a node's flags: to the demanding context, or to the owner of another task's node while its context runs it; a
parked owner's are discarded (R78, R346). -/
def State.deliverFlags (s : State) (dmd : CtxId) (n : Node) : State :=
  if s.ownsNode dmd n then s.updCtx dmd fun c => c.orFlags n.flags
  else if s.ownsNode n.ctx n then s.updCtx n.ctx fun c => c.orFlags n.flags
  else s

/-- The mask of a group. -/
def groupMask (kind first : Nat) : BitVec 16 :=
  (groupOf kind first).foldl (fun m t => m ||| (1#16 <<< t)) 0

/-- The staging buffers in use (R339). -/
def Crew.stagedNodes (c : Crew) : Nat := c.nodes.countP fun p => p.2.staged

/-- The staging buffers in use, those of `CPYMM` follow-ons among them (R344). -/
def Crew.stagingUsed (c : Crew) : Nat := c.stagedNodes + c.copyQueues.countP fun q => q.entries.any fun e => e.staged
/-- The lowest staging buffer that is free. [DESIGN CHOICE, log 118] -/
def Crew.freeStaging (c : Crew) : Nat :=
  let used := ((c.nodes.filter fun p => p.2.staged).map fun p => p.2.buf) ++
    c.copyQueues.flatMap fun q => (q.entries.filter fun e => e.staged).map fun e => e.buf
  ((List.range 4).find? fun b => !used.contains b).getD 0
/-- The hardware writes a staging buffer (R339). -/
def State.stages (s : State) (k : Nat) (on : Bool) (b : Nat) : State :=
  if on then s.updCrew k fun c => { c with staging := mput c.staging b { epoch := s.tick, patch := [] } } else s

/-- A step that completes (R330, R339, R250): progress is saved, and a node that no demand continues is LIVE; a group's last step
sets its MASK bits, and the last group retires the node. -/
def State.stepDone (s : State) (k i : Nat) (n : Node) (t : Tile) (total : Nat) : State :=
  let slot := hSlot n.out
  if n.step + 1 < total then
    ((s.updTile k slot fun _ => t).putNode k i { n with step := n.step + 1, st := if n.demand.isSome then .eval else .live }).stages k n.staged n.buf
  else
    let mask := n.mask ||| groupMask n.group n.sub
    let t1 := { s.fillOutside k n t with mask := mask }
    let n1 := { n with mask := mask, step := 0, st := .live, stage := [], staged := false, cause := 0 }
    if mask = BitVec.allOnes 16 then
      let s1 := s.updTile k slot fun _ => { t1 with st := if t1.st = .filling then .ready else t1.st }
      (((match n.demand with | some d => s1.deliverFlags d n1 | none => s1).dropNode k i).freeDrained k).progress n.launch.toNat
    else ((s.updTile k slot fun _ => t1).putNode k i n1).progress n.launch.toNat

/-- The TNODE window (R353). -/
def Node.window (n : Node) (i : Nat) : Vector Word 64 :=
  let inAt := fun (p : Nat) => mget? n.ins p
  let stc : Nat := match n.st with | .live => 1 | .eval => 2 | .faulted => 3
  let w : Nat → Nat := fun j =>
    if j = 0 then n.word.toNat + 2 ^ 32 * i + 2 ^ 40 * n.mask.toNat + 2 ^ 56 * stc
    else if j = 1 then n.cpc.toNat
    else if j = 2 then n.cno % 2 ^ 32 + 2 ^ 32 * n.serial.toNat
    else if j = 3 then n.out.toNat + 2 ^ 32 * n.outReg + 2 ^ 36 * n.ins.length
    else if j ≤ 6 then
      match inAt (j - 4) with | some p => p.handle.toNat + 2 ^ 32 * p.map.kind + 2 ^ 36 * p.reg | none => 0
    else if j ≤ 9 then
      match inAt (j - 7) with | some p => p.map.param.toNat % 2 ^ 30 + 2 ^ 32 * p.map.index.toNat | none => 0
    else if j = 10 then n.xa.toNat
    else if j = 11 then 0
    else if h : 12 ≤ j ∧ j ≤ 19 then (n.tsh[j - 12]'(by omega)).toNat
    else if j = 20 then n.k4.toNat % 2 ^ 64
    else if j = 21 then n.k4.toNat / 2 ^ 64
    else if j = 22 then n.fpctl.toNat
    else if j = 23 then n.mprog.toNat
    else if j = 24 then n.sub + 2 ^ 4 * n.step + 2 ^ 16 * n.flags.toNat + 2 ^ 21 * n.group
    else if j = 25 then n.cause
    else 0
  Vector.ofFn fun j => BitVec.ofNat 64 (w j.val)

/-- The trap of a thunk fault at a context (R57, R352): the TNODE window is loaded. -/
def State.thunkTrap (s : State) (i : CtxId) (k idx : Nat) (n : Node) (tval : Word) : State :=
  let s1 := (s.updCtx i fun c => { c with tnode := n.window idx }).putNode k idx { n with told := true }
  (s1.endDemand i).enterTrap i n.cause tval n.cpc (s.ctxAt i).pc false

/-- A step that faults (R346, R350, R352): the demanding context traps when the node is its task's; otherwise the fault is owed
to the owner. A consumption of poison in a phase that can roll back starts the rollback instead (R405). -/
def State.stepFault (s : State) (k i : Nat) (n : Node) (reason : Nat) (tval : Word) : State :=
  let n1 := { n with st := .faulted, cause := deferredCause reason }
  match (if reason = 7 then s.rollbackFor n.launch.toNat else none) with
  | some job => (s.putNode k i n1).push (.rollbackRestart job)
  | none =>
    match n.demand with
    | none => s.putNode k i n1
    | some d =>
      if s.ownsNode d n then (s.putNode k i n1).thunkTrap d k i n1 tval
      else (s.putNode k i { n1 with owed := some tval, told := false }).push (.asyncFaultDelivery n.ctx)

/-- Whether a step reads memory. -/
def Step.isBeat : Step → Bool | .beat _ => true | _ => false
/-- Runs the next step of a node, when it is of the kind that `sel` accepts; a beat waits while its crew holds its requests (R365). -/
def State.runStep (s : State) (k i : Nat) (sel : Step → Bool) : State :=
  match (if (s.crewAt k).enginesStopped || (s.crewAt k).leaving then none else s.nodeAt? k i) with
  | none => s
  | some n =>
    let steps := n.stepsOf n.group n.sub
    match steps[n.step]? with
    | none => s
    | some st =>
      if !sel st then s
      else if s.requestsHeld k && st.isBeat then s.after 16 (.tloadBeat k i)
      else
        let s0 := { s with actor := n.launch.toNat }
        match s0.doStep k n st with
        | .ok (n1, t) => s0.stepDone k i n1 t steps.length
        | .error (r, v) => s0.stepFault k i n r v

/-- The event that performs a step. -/
def Step.event (k i : Nat) : Step → Instr
  | .beat _ | .blank => .tloadBeat k i
  | .sweep _ => .sweepPass k i
  | .lanes _ => .lanePass k i
  | .convert => .conversionStep k i

/-! The walk (R331–R334). -/

/-- What a demand needs next. -/
inductive Walk where
  | done
  /-- The next step of a node, in a group. -/
  | step (node kind first : Nat)
  /-- A slot that another task or crew will make READY. -/
  | wait (crew slot : Nat)
  deriving DecidableEq, Repr

/-- The view region of an input that output rows and columns need (R332). -/
def State.inputRegion (s : State) (k : Nat) (n : Node) (p : Nat) (rows cols : List Nat) : List Nat × List Nat :=
  let all := List.range 64
  match n.op with
  | .tmm _ | .tmmx _ => if p = 0 then (rows, all) else if p = 1 then (cols, all) else (rows, cols)
  | .tred col _ =>
    if col then (if rows.contains 0 then (all, cols) else ([], []))
    else (if cols.contains 0 then (rows, all) else ([], []))
  | .ttrans => (cols, rows)
  | .tgath =>
    if p = 1 then (rows, [0])
    else ((rows.map (s.inView k n 1).rowIndex).filterMap (fun i => if 0 ≤ i ∧ i ≤ 63 then some i.toNat else none), cols)
  | _ => (rows, cols)

/-- The first of a list of walks that is not done. -/
def firstWalk : List Walk → Walk
  | [] => .done
  | .done :: r => firstWalk r
  | w :: _ => w

/-- Whether a slot's content is complete. -/
def Tile.complete (t : Tile) : Bool := t.st == .ready || (t.st == .draining && t.mask == BitVec.allOnes 16)

/-- `Need` (R331): what evaluating sub-tiles of a slot takes next. The first argument bounds the depth, which the age of inputs
bounds by the number of nodes. -/
def State.need (s : State) (k : Nat) : Nat → Nat → Nat → List Nat → Walk
  | 0, _, _, _ => .done
  | f + 1, kc, slot, subs =>
    if (s.tileAt kc slot).complete then .done
    else if kc ≠ k then .wait kc slot
    else
      match s.writerOf k slot with
      | none => .wait k slot
      | some (i, n) =>
        let kind := s.groupKind k n
        let missing := subs.filter fun t => !n.mask.getLsbD t
        -- the rows a scaled `TGATH` takes decide its conversion (R251), before its first group
        let choice := match n.op, mget? n.ins 1 with
          | .tgath, some inp =>
            if bfScale (s.outBank k n) = 0 || !s.mayCopy k n then Walk.done
            else s.need k f (ownerCrew k inp.handle) (hSlot inp.handle) ((s.inView k n 1).backMap (List.range 64) [0])
          | _, _ => .done
        if missing = [] then .done
        else if n.step ≠ 0 then .step i n.group n.sub
        else if choice ≠ .done then choice
        else
          let firsts := missing.foldl (fun a t => insertSorted ((groupOf kind t).headD t) a) []
          firstWalk (firsts.map fun g =>
            let subs := groupOf kind g
            let rows := (List.range 64).filter fun r => subs.any fun t => r / 16 == t / 4
            let cols := (List.range 64).filter fun c => subs.any fun t => c / 16 == t % 4
            let order := match n.op with | .tgath => [1, 0] | _ => [0, 1, 2]
            let ins := order.flatMap fun p =>
              match mget? n.ins p with
              | none => []
              | some inp =>
                let idx := if inp.map.kind = 5
                  then s.need k f (ownerCrew k inp.map.index) (hSlot inp.map.index) (List.range 16) else .done
                let reg := s.inputRegion k n p rows cols
                [idx, if idx = .done then
                    s.need k f (ownerCrew k inp.handle) (hSlot inp.handle) ((s.inView k n p).backMap reg.1 reg.2)
                  else .done]
            match firstWalk ins with
            | .done => .step i kind g
            | w => w)

/-- `DemandRegion` (R331) of a handle read through a map. -/
def State.demandWalk (s : State) (k : Nat) (h : BitVec 32) (m : TMap) (rows cols : List Nat) : Walk :=
  let idx := if m.kind = 5 then s.need k 300 (ownerCrew k m.index) (hSlot m.index) (List.range 16) else .done
  match idx with
  | .done => s.need k 300 (ownerCrew k h) (hSlot h) ((s.view k h m).backMap rows cols)
  | w => w

/-- The full evaluation of a node. -/
def State.forceWalk (s : State) (k i : Nat) : Walk :=
  match s.nodeAt? k i with
  | none => .done
  | some n => s.need k 300 k (hSlot n.out) (List.range 16)

/-- The context whose demand the sequencer serves next (R337): the first after the one it served last, in ascending seat and then
context, among the crew's active demands and the issuing context's. -/
def State.nextServed (s : State) : Nat :=
  let c := s.crewAt s.cur.crew
  (((List.range 32).map fun j => (c.served + 1 + j) % 32).find? fun n =>
    n == s.cur.n || ((c.ctxAt n).st == .stalled && (c.ctxAt n).wait == some .step)).getD s.cur.n

/-- Starts the next step of a node on behalf of the issuing context, which waits for it, when its turn has come (R337). A group that needs a staging buffer
waits for a free one, and a node in EVAL for another demand makes this one wait (R335). A FAULTED node of another task is retried by a demand that reaches it (R335); when the retry has faulted too,
its demand waits until the owner has returned to task mode (R349). Copies take no turn against it. [DESIGN CHOICE, log 124] -/
def State.startStep (s0 : State) (forcing : Bool) (i kind first : Nat) : Res Unit :=
  let k := s0.cur.crew
  if s0.nextServed ≠ s0.cur.n then .wait .step s0
  else
  let s := s0.updCrew k fun c => { c with served := s0.cur.n }
  match s.nodeAt? k i with
  | none => .wait .step s
  | some n =>
    if n.st = .faulted ∧ n.owed.isSome ∧ n.demand = some s.cur ∧ !s.ownsNode s.cur n then .wait (.faulted k i) s
    else if n.st = .eval ∧ n.demand.isSome ∧ n.demand ≠ some s.cur then .wait .step s
    else if n.aborted then
      -- a step that a shoot-down aborted (R402): its fault is delivered now, and the step runs again at the next demand
      let tval := BitVec.ofNat 64 (match (n.stepsOf n.group n.sub)[n.step]? with | some (.beat l) => 128 * l | _ => 0)
      if s.ownsNode s.cur n then
        .thunk 0xBB tval n.cpc (((s.upd fun c => { c with tnode := n.window i }).putNode k i { n with aborted := false }).endDemand s.cur)
      else .wait (.faulted k i)
        ((s.putNode k i { n with aborted := false, owed := some tval, told := false, demand := some s.cur }).push (.asyncFaultDelivery n.ctx))
    else if kind ≠ 0 && !n.staged && 4 ≤ (s.crewAt k).stagingUsed then .wait .step s
    else
      let n1 := { n with
        sub := first, group := kind, st := .eval, staged := kind != 0 || n.staged, buf := if n.staged then n.buf else (s.crewAt k).freeStaging, demand := some s.cur, owed := none, told := false
        evaluators := (s.cur, forcing) :: n.evaluators.filter fun x => x != (s.cur, forcing) }
      let s1 := s.putNode k i n1
      match (n1.stepsOf kind first)[n1.step]? with
      | some st => .wait .step (s1.push (st.event k i))
      | none => .wait .step s1

/-- A completed demand, or a completed forcing, delivers the flags of the nodes it evaluated (R78). -/
def State.finishDemand (s : State) (forcing : Bool) : State :=
  let k := s.cur.crew
  let mine := (s.crewAt k).nodes.filter fun p => p.2.evaluators.contains (s.cur, forcing)
  mine.foldl (fun s p => (s.deliverFlags s.cur p.2).putNode k p.1 { p.2 with
    flags := 0, demand := if p.2.demand = some s.cur then none else p.2.demand
    evaluators := p.2.evaluators.filter fun x => x != (s.cur, forcing) }) s

/-- Runs a demand of the issuing context to its next wait, or to completion. -/
def State.runDemand (s : State) (w : Walk) (forcing : Bool := false) : Res Unit :=
  match w with
  | .done => .ok () (s.finishDemand forcing)
  | .step i kind first => s.startStep forcing i kind first
  | .wait kc slot => .wait (.slot kc slot) s

/-- The live nodes of a crew that a test selects, oldest first (R328). -/
def State.nodesBy (s : State) (k : Nat) (p : Node → Bool) : List Nat :=
  let ns := (s.crewAt k).nodes.filter fun q => p q.2
  (ns.foldl (fun acc q => insertSorted (s.age k q.2.cno * 256 + q.1) acc) []).map (· % 256)

/-- Whether a node's recorded source range holds a byte of a range (R348). -/
def Node.readsBytes (n : Node) (lo hi : Nat) : Bool :=
  match n.range with | some (a, b) => decide (a < hi) && decide (lo < b) && decide (lo < hi) | none => false

/-- The nodes whose recorded source range overlaps bytes that an event would write, oldest first (R349). -/
def State.overlapping (s : State) (k : Nat) (rs : List (Nat × Nat)) : List Nat :=
  s.nodesBy k fun n => rs.any fun r => n.readsBytes r.1 r.2

/-- Forces nodes in order (R345, R349). -/
def State.forceNodes (s : State) (is : List Nat) : Res Unit :=
  s.runDemand (firstWalk (is.map (s.forceWalk s.cur.crew))) true

/-- Forces the nodes of the crew that read bytes about to be written (R349). -/
def State.forceRanges (s : State) (rs : List (Nat × Nat)) : Res Unit :=
  match s.overlapping s.cur.crew rs with
  | [] => .ok () s
  | is => s.forceNodes is

/-! The steps as events. -/

def execTloadBeat (crew node : Nat) (s : State) : Host.Outcome State Fault Refusal :=
  .next (s.runStep crew node fun | .beat _ | .blank => true | _ => false)
def execSweepPass (crew node : Nat) (s : State) : Host.Outcome State Fault Refusal :=
  .next (s.runStep crew node fun | .sweep _ => true | _ => false)
def execLanePass (crew node : Nat) (s : State) : Host.Outcome State Fault Refusal :=
  .next (s.runStep crew node fun | .lanes _ => true | _ => false)
def execConversionStep (crew node : Nat) (s : State) : Host.Outcome State Fault Refusal :=
  .next (s.runStep crew node fun | .convert => true | _ => false)

end Sys2Proof.Machine
end

