-- ==== Sys2Proof/Machine/Alu.lean ====
section
/-!
DEFINITION. The results of the scalar instructions of R136–R141 that are not one bit-vector operation: division, bit counts,
extensions and bit fields.
-/
namespace Sys2Proof.Machine

/-- The high half of a product (R136: MULH, MULHU). -/
def mulHighS (a b : Word) : Word := ((a.signExtend 128 * b.signExtend 128).extractLsb' 64 64)
def mulHighU (a b : Word) : Word := ((a.setWidth 128 * b.setWidth 128).extractLsb' 64 64)

/-- Division of R137: the quotient and remainder of signed operands. -/
def divS (a b : Word) : Word := if b = 0 then BitVec.allOnes 64 else a.sdiv b
def remS (a b : Word) : Word := if b = 0 then a else a.srem b
/-- Division of R137: the quotient and remainder of unsigned operands. -/
def divU (a b : Word) : Word := if b = 0 then BitVec.allOnes 64 else a / b
def remU (a b : Word) : Word := if b = 0 then a else a % b

/-- Whether a bit of a word is set, counted over all its bits (R136: POPC). -/
def popCount (a : Word) : Word := BitVec.ofNat 64 ((List.range 64).countP (fun i => a.getLsbD i))
/-- The trailing zero bits, 64 for zero (R136: CTZ). -/
def trailingZeros (a : Word) : Word := BitVec.ofNat 64 (((List.range 64).find? (fun i => a.getLsbD i)).getD 64)
/-- The leading zero bits, 64 for zero (R136: CLZ). -/
def leadingZeros (a : Word) : Word := BitVec.ofNat 64 (((List.range 64).find? (fun i => a.getLsbD (63 - i))).getD 64)

/-- The shift or rotate amount (R136). -/
def shiftAmt (b : Word) : Nat := b.toNat % 64

/-- The bits an extension keeps (R136: SEXT, ZEXT). -/
def extBits (w : BitVec 2) : Nat := 8 <<< w.toNat
/-- Sign-extends the low `n` bits. -/
def signExtendLow (n : Nat) (a : Word) : Word := (a.setWidth n).signExtend 64
/-- Zero-extends the low `n` bits. -/
def zeroExtendLow (n : Nat) (a : Word) : Word := (a.setWidth n).setWidth 64

/-- The bit field of `len + 1` bits at `pos` (R136: BFX, BFXU). -/
def bitField (a : Word) (p l : BitVec 6) : BitVec (l.toNat + 1) := a.extractLsb' p.toNat (l.toNat + 1)
/-- A mask of `n` low ones. -/
def lowMask (n : Nat) : Word := (BitVec.allOnes n).setWidth 64
/-- `BFI`: a bit field of the destination replaced (R136). -/
def bitInsert (d a : Word) (p l : BitVec 6) : Word :=
  let m := lowMask (l.toNat + 1) <<< p.toNat
  (d &&& ~~~m) ||| ((a <<< p.toNat) &&& m)

end Sys2Proof.Machine
end

