-- ==== Sys2Proof/Machine/Scalar.lean ====
section
/-!
DEFINITION. The scalar instructions: register and immediate arithmetic, constants, compares and predicates, branches, jumps
and hardware loops (R135–R152).
-/
namespace Sys2Proof.Machine

/-- The outcome type of a meaning. -/
abbrev Out := Host.Outcome State Fault Refusal

def execAdd (d a b : BitVec 6) (s : State) : Out := s.writesX d (s.X a + s.X b)
def execSub (d a b : BitVec 6) (s : State) : Out := s.writesX d (s.X a - s.X b)
def execMul (d a b : BitVec 6) (s : State) : Out := s.writesX d (s.X a * s.X b)
def execMulh (d a b : BitVec 6) (s : State) : Out := s.writesX d (mulHighS (s.X a) (s.X b))
def execMulhu (d a b : BitVec 6) (s : State) : Out := s.writesX d (mulHighU (s.X a) (s.X b))
/-- Division never traps (R89, R137). -/
def execDiv (d a b : BitVec 6) (s : State) : Out := s.writesX d (divS (s.X a) (s.X b))
def execDivu (d a b : BitVec 6) (s : State) : Out := s.writesX d (divU (s.X a) (s.X b))
def execRem (d a b : BitVec 6) (s : State) : Out := s.writesX d (remS (s.X a) (s.X b))
def execRemu (d a b : BitVec 6) (s : State) : Out := s.writesX d (remU (s.X a) (s.X b))
def execAnd (d a b : BitVec 6) (s : State) : Out := s.writesX d (s.X a &&& s.X b)
def execOr (d a b : BitVec 6) (s : State) : Out := s.writesX d (s.X a ||| s.X b)
def execXor (d a b : BitVec 6) (s : State) : Out := s.writesX d (s.X a ^^^ s.X b)
def execAndn (d a b : BitVec 6) (s : State) : Out := s.writesX d (s.X a &&& ~~~s.X b)
def execSll (d a b : BitVec 6) (s : State) : Out := s.writesX d (s.X a <<< shiftAmt (s.X b))
def execSrl (d a b : BitVec 6) (s : State) : Out := s.writesX d (s.X a >>> shiftAmt (s.X b))
def execSra (d a b : BitVec 6) (s : State) : Out := s.writesX d ((s.X a).sshiftRight (shiftAmt (s.X b)))
def execRol (d a b : BitVec 6) (s : State) : Out := s.writesX d ((s.X a).rotateLeft (shiftAmt (s.X b)))
def execRor (d a b : BitVec 6) (s : State) : Out := s.writesX d ((s.X a).rotateRight (shiftAmt (s.X b)))
def execMin (d a b : BitVec 6) (s : State) : Out := s.writesX d (if (s.X b).slt (s.X a) then s.X b else s.X a)
def execMax (d a b : BitVec 6) (s : State) : Out := s.writesX d (if (s.X a).slt (s.X b) then s.X b else s.X a)
def execMinu (d a b : BitVec 6) (s : State) : Out := s.writesX d (if (s.X b).ult (s.X a) then s.X b else s.X a)
def execMaxu (d a b : BitVec 6) (s : State) : Out := s.writesX d (if (s.X a).ult (s.X b) then s.X b else s.X a)
def execSlt (d a b : BitVec 6) (s : State) : Out := s.writesX d (if (s.X a).slt (s.X b) then 1 else 0)
def execSltu (d a b : BitVec 6) (s : State) : Out := s.writesX d (if (s.X a).ult (s.X b) then 1 else 0)
def execClz (d a : BitVec 6) (s : State) : Out := s.writesX d (leadingZeros (s.X a))
def execCtz (d a : BitVec 6) (s : State) : Out := s.writesX d (trailingZeros (s.X a))
def execPopc (d a : BitVec 6) (s : State) : Out := s.writesX d (popCount (s.X a))
def execLea (d a b : BitVec 6) (h : BitVec 2) (s : State) : Out := s.writesX d (s.X a + s.X b <<< h.toNat)
def execSext (d a : BitVec 6) (w : BitVec 2) (s : State) : Out := s.writesX d (signExtendLow (extBits w) (s.X a))
def execZext (d a : BitVec 6) (w : BitVec 2) (s : State) : Out := s.writesX d (zeroExtendLow (extBits w) (s.X a))
def execSel (d a b : BitVec 6) (k : BitVec 3) (s : State) : Out := s.writesX d (if s.P k then s.X a else s.X b)
def execBfx (d a p l : BitVec 6) (s : State) : Out := s.writesX d ((bitField (s.X a) p l).signExtend 64)
def execBfxu (d a p l : BitVec 6) (s : State) : Out := s.writesX d ((bitField (s.X a) p l).setWidth 64)
/-- BFI reads x(d) as a third source (R136). -/
def execBfi (d a p l : BitVec 6) (s : State) : Out := s.writesX d (bitInsert (s.X d) (s.X a) p l)

/-! Immediates and constants (R138, R139). -/

def execAddi (d a : BitVec 6) (i : BitVec 14) (s : State) : Out := s.writesX d (s.X a + imm i)
def execAndi (d a : BitVec 6) (i : BitVec 14) (s : State) : Out := s.writesX d (s.X a &&& imm i)
def execOri (d a : BitVec 6) (i : BitVec 14) (s : State) : Out := s.writesX d (s.X a ||| imm i)
def execXori (d a : BitVec 6) (i : BitVec 14) (s : State) : Out := s.writesX d (s.X a ^^^ imm i)
def execSlli (d a h : BitVec 6) (s : State) : Out := s.writesX d (s.X a <<< h.toNat)
def execSrli (d a h : BitVec 6) (s : State) : Out := s.writesX d (s.X a >>> h.toNat)
def execSrai (d a h : BitVec 6) (s : State) : Out := s.writesX d ((s.X a).sshiftRight h.toNat)
def execRoli (d a h : BitVec 6) (s : State) : Out := s.writesX d ((s.X a).rotateLeft h.toNat)
def execSlti (d a : BitVec 6) (i : BitVec 13) (s : State) : Out := s.writesX d (if (s.X a).slt (imm i) then 1 else 0)
def execSltiu (d a : BitVec 6) (i : BitVec 13) (s : State) : Out := s.writesX d (if (s.X a).ult (imm i) then 1 else 0)
def execMovi (d : BitVec 6) (i : BitVec 20) (s : State) : Out := s.writesX d (imm i)
def execAddhi (d : BitVec 6) (i : BitVec 20) (s : State) : Out := s.writesX d (s.X d + imm i <<< 20)
def execAddtop (d : BitVec 6) (i : BitVec 20) (s : State) : Out := s.writesX d (s.X d + imm i <<< 40)
def execPcadd (d : BitVec 6) (i : BitVec 20) (s : State) : Out := s.writesX d (s.pc + imm i <<< 12)

/-! Compares and predicates (R140, R141). -/

def execCmp (p : BitVec 3) (a b : BitVec 6) (c : BitVec 3) (s : State) : Out := s.writesP p (cond c.toNat (s.X a) (s.X b))
def execCmpi (c p : BitVec 3) (a : BitVec 6) (i : BitVec 14) (s : State) : Out :=
  s.writesP p (cond c.toNat (s.X a) (imm i))
def execPand (d a b : BitVec 3) (s : State) : Out := s.writesP d (s.P a && s.P b)
def execPor (d a b : BitVec 3) (s : State) : Out := s.writesP d (s.P a || s.P b)
def execPxor (d a b : BitVec 3) (s : State) : Out := s.writesP d (s.P a != s.P b)
def execPandn (d a b : BitVec 3) (s : State) : Out := s.writesP d (s.P a && !s.P b)
def execPnot (d a : BitVec 3) (s : State) : Out := s.writesP d (!s.P a)
def execPmov (d a : BitVec 3) (s : State) : Out := s.writesP d (s.P a)

/-! Branches and jumps (R142–R145). -/

/-- BRC is taken when pk ≠ n. -/
def execBrc (p : BitVec 3) (n : BitVec 1) (o : BitVec 22) (s : State) : Out :=
  s.transfers (s.P p != (n == 1)) (s.pc + wordOffset o)
def execBz (a : BitVec 6) (o : BitVec 19) (s : State) : Out := s.transfers (s.X a == 0) (s.pc + wordOffset o)
def execBnz (a : BitVec 6) (o : BitVec 19) (s : State) : Out := s.transfers (s.X a != 0) (s.pc + wordOffset o)
def execJ (o : BitVec 26) (s : State) : Out := s.transfers true (s.pc + wordOffset o)
/-- JAL writes the link address to x1 and calls. -/
def execJal (o : BitVec 26) (s : State) : Out :=
  (Res.ok (.call (s.pc + wordOffset o)) (s.setX 1 s.cx.linkAddr)).close
/-- JALR: a call when d is not 0, else a jump; a misaligned target traps before the link is written (R143). -/
def execJalr (d a : BitVec 6) (i : BitVec 14) (s : State) : Out :=
  let t := s.X a + imm i
  if t &&& 3#64 ≠ 0 then (Res.trap 0x0F t s).close
  else (Res.ok (if d = 0 then .jump t else .call t) (s.setX d s.cx.linkAddr)).close

/-! Hardware loops (R146–R151). -/

/-- Sets up loop n with a count and a body length (R147); a zero trip goes to the end. -/
def State.setUpLoop (s : State) (n : BitVec 1) (count : Word) (len : Nat) : Res Next :=
  let le := s.pc + 4#64 + BitVec.ofNat 64 (4 * len)
  let s1 := s.setLoop n { ls := s.pc + 4#64, le := le, lc := count }
  .ok (if count = 0 then .jump le else .seq) s1

def execLoop (n : BitVec 1) (a : BitVec 6) (l : BitVec 14) (s : State) : Out :=
  if s.taskMode then (s.setUpLoop n (s.X a) l.toNat).close
  else (Res.trap 0x10 (wordOf (.loop n a l)) s).close
def execLoopi (n : BitVec 1) (c : BitVec 8) (l : BitVec 6) (s : State) : Out :=
  if s.taskMode then (s.setUpLoop n (c.setWidth 64) l.toNat).close
  else (Res.trap 0x10 (wordOf (.loopi n c l)) s).close
/-- LBRK ends an active loop and leaves its body (R148). -/
def execLbrk (n : BitVec 1) (s : State) : Out :=
  if s.taskMode then
    let l := s.loopAt n
    if l.active then (Res.ok (.jump l.le) (s.setLoop n { l with lc := 0 })).close else (Res.ok .seq s).close
  else (Res.trap 0x10 (wordOf (.lbrk n)) s).close

end Sys2Proof.Machine
end

