-- ==== Sys2Proof/Machine/System.lean ====
section
/-!
DEFINITION. The CSR instructions (R28–R32, R153–R156, R163, R325, R363, R386) and the system instructions (R157–R161).
-/
namespace Sys2Proof.Machine

/-- The assigned CSRs (R28). -/
inductive Csr where
  | fpctl | fpflags | k4lo | k4hi | lgrant | ocnt | cycle | taskid | tcoord | seatid | crewid
  | bfmt (i : Nat)
  | tstatus | tcause | tval | tepc | tdpc | thvec | tscratch | splitctl | hashctl
  | tnode (i : Nat)
  deriving DecidableEq, Repr

/-- The named CSRs with their numbers (R28). -/
def csrNumbers : List (Nat × Csr) :=
  [(0x001, .fpctl), (0x002, .fpflags), (0x003, .k4lo), (0x004, .k4hi), (0x010, .lgrant), (0x011, .ocnt), (0x012, .cycle),
   (0x020, .taskid), (0x021, .tcoord), (0x022, .seatid), (0x023, .crewid),
   (0x800, .tstatus), (0x801, .tcause), (0x802, .tval), (0x803, .tepc), (0x804, .tdpc), (0x805, .thvec), (0x806, .tscratch),
   (0x810, .splitctl), (0x811, .hashctl)]

/-- The CSR a number names, if it is assigned (R28). -/
def csrOf (n : Nat) : Option Csr :=
  if 0x30 ≤ n ∧ n ≤ 0x3F then some (.bfmt (n - 0x30))
  else if 0x840 ≤ n ∧ n ≤ 0x87F then some (.tnode (n - 0x840))
  else (csrNumbers.find? fun p => p.1 == n).map Prod.snd

/-- Whether a CSR's access is RO (R28). -/
def Csr.readOnly : Csr → Bool
  | .lgrant | .ocnt | .cycle | .taskid | .tcoord | .seatid | .crewid | .bfmt _ | .tnode _ => true
  | _ => false

/-- A field of a CSR word. -/
def csrField (v sh : Nat) : Word := BitVec.ofNat 64 v <<< sh

/-- `LGRANT` (R163). -/
def Ctx.lgrant (c : Ctx) : Word :=
  csrField c.grant 0 ||| csrField (if c.vq = [] then 0 else 1) 7 ||| csrField c.req 8 ||| csrField c.vq.length 16
/-- `OCNT` (R29). -/
def Ctx.ocnt (c : Ctx) : Word :=
  csrField (c.cnt.loads % 256) 0 ||| csrField (c.cnt.stores % 256) 8 ||| csrField (c.cnt.copies % 256) 16 |||
    csrField (c.cnt.demands % 256) 24
/-- `SEATID` (R29). -/
def seatId (n : Nat) : Word := csrField (n / 4) 0 ||| csrField (n % 4) 3
/-- `CREWID` (R29). -/
def State.crewId (s : State) (k : Nat) : Word :=
  csrField ((s.crewAt k).logical.getD 0 % 1024) 0 ||| csrField (crewPx k) 10 ||| csrField (crewPy k) 15 ||| csrField (crewDie k) 20 |||
    csrField (crewSquad k) 22 ||| csrField (crewQuad k) 26 ||| csrField (crewInQuad k) 28
/-- `HASHCTL` as a crew reads it: the domain of its squad (R363). -/
def State.hashctl (s : State) (k : Nat) : Word :=
  let d := s.dieAt (crewDie k)
  let dm := d.domainOf (crewSquad k)
  csrField dm.2.members.toNat 0 ||| csrField dm.2.mode.toNat 32 ||| csrField dm.1 33 ||| csrField dm.2.squads.toNat 36 |||
    csrField d.busy.toNat 52

/-- The value of a CSR (R28). -/
def State.csr (s : State) (i : CtxId) (n : Csr) : Word :=
  let c := s.ctxAt i
  let k := s.crewAt i.crew
  match n with
  | .fpctl => c.fp.fpctl
  | .fpflags => c.fp.fpflags
  | .k4lo => c.fp.k4lo
  | .k4hi => c.fp.k4hi
  | .lgrant => c.lgrant
  | .ocnt => c.ocnt
  | .cycle => BitVec.ofNat 64 (s.cycle i.crew)
  | .taskid => c.launch ++ c.serial
  | .tcoord => c.coord
  | .seatid => seatId i.n
  | .crewid => s.crewId i.crew
  | .bfmt j => mget 0 k.bfmt j
  | .tstatus => c.tstatus
  | .tcause => c.trap.tcause
  | .tval => c.trap.tval
  | .tepc => c.trap.tepc
  | .tdpc => c.trap.tdpc
  | .thvec => k.thvec
  | .tscratch => c.trap.tscratch
  | .splitctl => k.splitctl
  | .hashctl => s.hashctl i.crew
  | .tnode j => if h : j < 64 then c.tnode[j]'h else 0

/-- The code of R326 for a CSR whose task-mode reads are recorded (R30). -/
def csrLogCode : Csr → Option Nat
  | .taskid => some 0 | .seatid => some 1 | .crewid => some 2 | .cycle => some 3 | .ocnt => some 4 | .lgrant => some 5 | _ => none

/-- Records a task-mode read of a placement- or timing-dependent CSR (R30); none when the record does not fit (R327). -/
def State.logCsr (s : State) (n : Csr) (v : Word) : Option State :=
  match csrLogCode n with
  | none => some s
  | some a =>
    let c := (s.crewAt s.cur.crew).splitctl
    if s.taskMode && splitsCsrs c then
      if splitsFull? c then none else some (s.splitsPut s.cur.crew 7 (whoOf s.cur.n) a v.toNat)
    else some s

/-- Whether a write of `HASHCTL` is refused (R363). -/
def hashctlRefused (ds : Map Domain) (v : Word) : Bool :=
  let a := domainsAfter ds v
  let dom := (v.extractLsb' 33 3).toNat
  decide (v.extractLsb' 53 11 ≠ 0) ||
    a.any (fun p => decide (p.2.squads ≠ 0) && decide (p.2.members = 0)) ||
    (decide (v.extractLsb' 0 32 ≠ 0) && decide ((mget { members := 0, mode := false, squads := 0 } a dom).squads = 0)) ||
    decide ((a.foldl (fun q p => q ||| p.2.squads) (0 : BitVec 16)) ≠ BitVec.allOnes 16)

/-- The bits of `FPCTL` and `FPFLAGS` that are not reserved (R11, R31, R32). -/
def fpctlMask : Word := 0x1FFF07#64
def fpflagsMask : Word := 0x1F#64

/-- Writes a CSR of the issuing context (R153, R155). The RO CSRs are refused before. `TVAL` of an illegal `FPCTL` value is the word as it was
formed, reserved bits and all (R134). [DEDUCED, log 35; DEDUCED, log 128] -/
def State.csrPut (s : State) (n : Csr) (v : Word) : Res Next :=
  match n with
  | .fpctl => if 5 ≤ (v.extractLsb' 0 3).toNat then .trap 0x0A v s
              else .ok .seq (s.upd fun c => { c with fp := { c.fp with fpctl := v &&& fpctlMask } })
  | .fpflags => .ok .seq (s.upd fun c => { c with fp := { c.fp with fpflags := v &&& fpflagsMask } })
  | .k4lo => .ok .seq (s.upd fun c => { c with fp := { c.fp with k4lo := v } })
  | .k4hi => .ok .seq (s.upd fun c => { c with fp := { c.fp with k4hi := v } })
  | .tstatus => .ok .seq (s.upd fun c => { c with trap := { c.trap with
               tstatus := (v &&& ~~~(0x70003#64)) ||| (c.trap.tstatus &&& 3#64) } })
  | .tcause => .ok .seq (s.upd fun c => { c with trap := { c.trap with tcause := v } })
  | .tval => .ok .seq (s.upd fun c => { c with trap := { c.trap with tval := v } })
  | .tepc => .ok .seq (s.upd fun c => { c with trap := { c.trap with tepc := v } })
  | .tdpc => .ok .seq (s.upd fun c => { c with trap := { c.trap with tdpc := v } })
  | .thvec => .ok .seq (s.updCrew s.cur.crew fun k => { k with thvec := v &&& ~~~(3#64) })
  | .tscratch => .ok .seq (s.upd fun c => { c with trap := { c.trap with tscratch := v } })
  | .splitctl => .ok .seq (s.push (.splitctlWrite s.cur.crew v))
  | .hashctl =>
    if s.cx.answer.isSome then .ok .seq (s.upd fun c => { c with answer := none })
    else
      let die := crewDie s.cur.crew
      if hashctlRefused (s.dieAt die).domains v then .trap 0x0A v s
      else .wait .domain ((s.updDie die fun d => { d with owners := d.owners ++ [s.cur] }).push (.hashctlWrite die v))
  | _ => .ok .seq s

/-- The checks of a CSR instruction (R154): the CSR, or the cause of the first check that fails. -/
def csrCheck (taskMode write : Bool) (n : Nat) : Except Nat Csr :=
  if taskMode && decide (0x800 ≤ n) then .error 0x07
  else
    match csrOf n with
    | none => .error 0x08
    | some r => if write && r.readOnly then .error 0x09 else .ok r

/-- An access of `FPFLAGS` waits for every earlier vector instruction's flags (R155). -/
def State.beforeCsr (s : State) (n : Csr) : State := if n = .fpflags then s.upd Ctx.drainVec else s

/-- A write of a CSR: checked, then the value formed from the old one. -/
def State.csrWrite (s : State) (i : Instr) (n : Nat) (f : Word → Word) : Res Next :=
  match csrCheck s.taskMode true n with
  | .error cause => .trap cause (wordOf i) s
  | .ok r =>
    let s1 := s.beforeCsr r
    s1.csrPut r (f (s1.csr s.cur r))

/-- A read of a CSR into x(d) (R153). -/
def State.csrRead (s : State) (i : Instr) (n : Nat) (d : BitVec 6) : Res Next :=
  match csrCheck s.taskMode false n with
  | .error cause => .trap cause (wordOf i) s
  | .ok r =>
    let s1 := s.beforeCsr r
    let v := s1.csr s.cur r
    match s1.logCsr r v with
    | none => .trap 0x150 7 s
    | some s2 => .ok .seq (s2.setX d v)

def execCsrr (d : BitVec 6) (c : BitVec 12) (s : State) : Out := (s.csrRead (.csrr d c) c.toNat d).close
def execCsrw (a : BitVec 6) (c : BitVec 12) (s : State) : Out := (s.csrWrite (.csrw a c) c.toNat fun _ => s.X a).close
def execCsrs (a : BitVec 6) (c : BitVec 12) (s : State) : Out := (s.csrWrite (.csrs a c) c.toNat fun v => v ||| s.X a).close
def execCsrc (a : BitVec 6) (c : BitVec 12) (s : State) : Out := (s.csrWrite (.csrc a c) c.toNat fun v => v &&& ~~~s.X a).close

/-! System instructions (R157–R161). -/

def execEcall (s : State) : Out := (Res.trap 0x0D 0 s).close
def execEbreak (s : State) : Out := (Res.trap 0x0E 0 s).close
def execTret (s : State) : Out := s.trapReturn.close

/-- `HALT` (R161): system mode only; it waits until earlier stores and joins are counted, then stops its context, which resumes
at the next instruction. -/
def execHalt (s : State) : Out :=
  if s.taskMode then (Res.trap 0x06 (wordOf .halt) s).close
  else
    let s1 := s.upd Ctx.drainVec
    if !s1.cx.settled then (Res.wait .settled s1).close
    else (Res.ok .seq (s1.upd fun c => { c with halted := true, st := .handler })).close

end Sys2Proof.Machine
end

