-- ==== Sys2Proof/Machine/Vector.lean ====
section
/-!
DEFINITION. The vector instructions but those of memory (R162–R191): each is issued as a command of the lane pool, whose
results are written at issue; its flags reach `FPFLAGS` when the command completes (R170).
-/
namespace Sys2Proof.Machine

/-- FP32 rounding mode of the vector side: `FPCTL`.RM, with SR acting as RNE (R72). -/
def fpMode (fpctl : Word) : Mode :=
  let rm := (fpctl.extractLsb' 0 3).toNat
  if rm = 4 then .rne else modeOf rm 0
/-- `FPCTL`'s RM and SEED, and the K4 table (R31, R88). -/
def Ctx.rm (c : Ctx) : Nat := (c.fp.fpctl.extractLsb' 0 3).toNat
def Ctx.seed (c : Ctx) : Nat := (c.fp.fpctl.extractLsb' 8 8).toNat
def Ctx.k4 (c : Ctx) : BitVec 128 := c.fp.k4hi ++ c.fp.k4lo

/-- The flags of all elements together. -/
def orFlags (fs : List (Nat × Flags)) : Flags := fs.foldl (fun a f => a ||| f.2) 0

/-- A vector instruction with no claim claims 64 lanes first (R165); none when the grant cannot be recorded (R327). -/
def State.implicitClaim (s : State) : Option State :=
  if s.cx.grant = 0 then (s.claim 64).map Prod.snd else some s

/-- A vector command is queued (R162), its completion an event of its own. -/
def Ctx.queue (c : Ctx) (v : VCmd) : Ctx := { c with vq := c.vq ++ [v] }

/-- A full command queue (R162): the instruction does not issue, and the oldest command completes. -/
def State.vectorFull (s : State) : Bool := decide (16 ≤ s.cx.vq.length)
def State.holdForPool (s : State) : Res Next := .hold none (s.push (.vectorCommandComplete s.cur))

/-- Issues a vector command (R162, R165, R167): the flag trap of R77 comes before any write, but not before the
claim of lanes (R57). [DESIGN CHOICE, log 126] -/
def State.vectorOp (s : State) (fs : List (Nat × Flags)) (write : State → State) : Res Next :=
  if s.vectorFull then s.holdForPool
  else
    match s.implicitClaim with
    | none => .trap 0x150 6 s
    | some s1 =>
      match flagTrap (trapEnables s1.cx.fp.fpctl) fs with
      | some (cause, tval) => .trap cause tval s1
      | none =>
        .ok .seq (((write s1).upd fun c => c.queue { flags := orFlags fs, isLoad := false }).push (.vectorCommandComplete s.cur))

/-- A vector command whose only result is a vector register. -/
def State.writesV (s : State) (d : BitVec 5) (r : Lanes) : Out := (s.vectorOp r.2 fun s => s.setV d r.1).close

/-! Lanes and synchronisation (R164, R171). -/

/-- A claim is fixed at issue (R165), and its command takes a place in the queue (R162). -/
def State.queueClaim (s : State) : State := (s.upd fun c => c.queue { flags := 0, isLoad := false }).push (.vectorCommandComplete s.cur)
/-- `LCLAIM`: the lanes granted go to x(d). [DEDUCED, log 34] -/
def execLclaim (d : BitVec 6) (n : BitVec 3) (s : State) : Out :=
  (if s.vectorFull then s.holdForPool
   else
    match s.claim (8 * (n.toNat + 1)) with
    | none => .trap 0x150 6 s
    | some (g, s1) => .ok .seq ((s1.setX d (BitVec.ofNat 64 g)).queueClaim)).close
/-- `LFREE`: the claim is given up (R165); the grant it fixes is recorded (R166). Without a grant it makes no claim first, nor does `VSYNC`.
[DESIGN CHOICE, log 129] -/
def execLfree (s : State) : Out :=
  (if s.vectorFull then s.holdForPool
   else
    match s.logGrant 0 with
    | none => .trap 0x150 6 s
    | some s1 => .ok .seq ((s1.upd fun c => { c with grant := 0 }).queueClaim)).close
/-- `VSYNC` stalls its context while a vector command of it is incomplete (R171), once the queue has a place for it (R162); it makes no
implicit claim (R165). [DESIGN CHOICE, log 129] -/
def execVsync (s : State) : Out :=
  (if s.vectorFull then s.holdForPool else if s.cx.vq = [] then .ok .seq s else .wait .vector s).close

/-! Scalar–vector exchange (R177). -/

/-- The width of .w, .h and .b. -/
def etWidth (e : BitVec 2) : Nat := 32 >>> e.toNat

def execVbcast (d : BitVec 5) (a : BitVec 6) (e : BitVec 2) (s : State) : Out :=
  let w := etWidth e
  s.writesV d (vofList (List.replicate (2048 / w) ((s.X a).setWidth w)), [])
def execVext (d : BitVec 6) (a : BitVec 5) (i : BitVec 6) (j e : BitVec 2) (s : State) : Out :=
  (s.vectorOp [] fun t => t.setX d ((velem (s.V a) (etWidth e) (i.toNat + 64 * j.toNat)).setWidth 64)).close
def execVins (d : BitVec 5) (a i : BitVec 6) (j e : BitVec 2) (s : State) : Out :=
  s.writesV d (vset (s.V d) (etWidth e) (i.toNat + 64 * j.toNat) ((s.X a).setWidth (etWidth e)), [])

/-! Element-wise arithmetic (R178–R180). -/

/-- A two-source operation by type, on the issuing context's registers. -/
def State.elementwise (s : State) (d a b : BitVec 5) (m t : BitVec 3) (fi : Bool → (w : Nat) → BitVec w → BitVec w → BitVec w)
    (ff : BitVec 32 → BitVec 32 → BitVec 32 × Flags) : Out :=
  s.writesV d (laneArith t.toNat m (s.mask m) (s.V d) (s.V a) (s.V b) fi ff)

/-- The FP32 operation of an instruction that has none. -/
def noF32 (_ _ : BitVec 32) : BitVec 32 × Flags := (0, 0)
/-- The magnitude of an element; the most negative one is unchanged. -/
def absElem (w : Nat) (a : BitVec w) : BitVec w := if a.slt 0 then -a else a

def execVadd (d a b : BitVec 5) (m t : BitVec 3) (s : State) : Out :=
  s.elementwise d a b m t (fun _ _ x y => x + y) (fun x y => fAdd x y (fpMode s.cx.fp.fpctl))
def execVsub (d a b : BitVec 5) (m t : BitVec 3) (s : State) : Out :=
  s.elementwise d a b m t (fun _ _ x y => x - y) (fun x y => fSub x y (fpMode s.cx.fp.fpctl))
def execVmul (d a b : BitVec 5) (m t : BitVec 3) (s : State) : Out :=
  s.elementwise d a b m t (fun _ _ x y => x * y) (fun x y => fMul x y (fpMode s.cx.fp.fpctl))
def execVmulh (d a b : BitVec 5) (m t : BitVec 3) (s : State) : Out :=
  s.elementwise d a b m t (mulHigh) (noF32)
def execVmin (d a b : BitVec 5) (m t : BitVec 3) (s : State) : Out :=
  s.elementwise d a b m t (minInt) (minMaxF32 false)
def execVmax (d a b : BitVec 5) (m t : BitVec 3) (s : State) : Out :=
  s.elementwise d a b m t (maxInt) (minMaxF32 true)
/-- `VABS` and `VNEG` on FP32 act on the sign bit alone (R80). -/
def execVabs (d a : BitVec 5) (m t : BitVec 3) (s : State) : Out :=
  s.elementwise d a a m t (fun _ w x _ => absElem w x) (fun x _ => (x &&& 0x7FFFFFFF#32, 0))
def execVneg (d a : BitVec 5) (m t : BitVec 3) (s : State) : Out :=
  s.elementwise d a a m t (fun _ _ x _ => -x) (fun x _ => (x ^^^ 0x80000000#32, 0))
def execVsat (d a : BitVec 5) (m t : BitVec 3) (s : State) : Out :=
  s.writesV d (laneMap 32 m (s.mask m) (s.V d) fun j => satElem t.toNat (velem (s.V a) 32 j), [])
def execVand (d a b : BitVec 5) (m t : BitVec 3) (s : State) : Out :=
  s.elementwise d a b m t (fun _ _ x y => x &&& y) noF32
def execVor (d a b : BitVec 5) (m t : BitVec 3) (s : State) : Out :=
  s.elementwise d a b m t (fun _ _ x y => x ||| y) noF32
def execVxor (d a b : BitVec 5) (m t : BitVec 3) (s : State) : Out :=
  s.elementwise d a b m t (fun _ _ x y => x ^^^ y) noF32
def execVshl (d a b : BitVec 5) (m t : BitVec 3) (s : State) : Out :=
  s.elementwise d a b m t (fun _ w x y => x <<< (y.toNat % w)) noF32
def execVshr (d a b : BitVec 5) (m t : BitVec 3) (s : State) : Out :=
  s.elementwise d a b m t (fun _ w x y => x >>> (y.toNat % w)) noF32
def execVsra (d a b : BitVec 5) (m t : BitVec 3) (s : State) : Out :=
  s.elementwise d a b m t (fun _ w x y => x.sshiftRight (y.toNat % w)) noF32

/-! Fused multiply-add (R181). -/

/-- One fused multiply-add of the active elements. -/
def State.fused (s : State) (d a b c : BitVec 5) (m : BitVec 3) (negP negC : Bool) : Out :=
  s.writesV d (laneMapF m (s.mask m) (s.V d) fun j =>
    fFma (velem (s.V a) 32 j) (velem (s.V b) 32 j) (velem (s.V c) 32 j) negP negC (fpMode s.cx.fp.fpctl))
def execVfma (d a b c : BitVec 5) (m : BitVec 3) (s : State) : Out := s.fused d a b c m false false
def execVfms (d a b c : BitVec 5) (m : BitVec 3) (s : State) : Out := s.fused d a b c m false true
def execVfnma (d a b c : BitVec 5) (m : BitVec 3) (s : State) : Out := s.fused d a b c m true false

/-! Compare, select and movement (R183, R184). -/

def execVcmp (d a b : BitVec 5) (m c : BitVec 3) (t : BitVec 2) (s : State) : Out :=
  s.writesV d (laneCmp t.toNat c.toNat m (s.mask m) (s.V a) (s.V b))
def execVsel (d a b : BitVec 5) (m : BitVec 3) (s : State) : Out := s.writesV d (laneSel (s.mask m) (s.V a) (s.V b), [])
def execVmov (d a : BitVec 5) (m : BitVec 3) (s : State) : Out :=
  s.writesV d (laneMap 32 m (s.mask m) (s.V d) fun j => velem (s.V a) 32 j, [])
def execViota (d : BitVec 5) (m : BitVec 3) (s : State) : Out :=
  s.writesV d (laneMap 32 m (s.mask m) (s.V d) fun j => BitVec.ofNat 32 j, [])
def execVperm (d a b : BitVec 5) (m : BitVec 3) (s : State) : Out :=
  s.writesV d (lanePerm m (s.mask m) (s.V d) (s.V a) (s.V b), [])
def execVslideUp (d a : BitVec 5) (k : BitVec 6) (m : BitVec 3) (s : State) : Out :=
  s.writesV d (laneSlideUp k.toNat m (s.mask m) (s.V d) (s.V a), [])
def execVslideDn (d a : BitVec 5) (k : BitVec 6) (m : BitVec 3) (s : State) : Out :=
  s.writesV d (laneSlideDn k.toNat m (s.mask m) (s.V d) (s.V a), [])

/-! Reductions, scans and special functions (R186, R187). -/

def State.reduces (s : State) (o : Nat) (d a : BitVec 5) (m : BitVec 3) (t : BitVec 2) : Out :=
  s.writesV d (laneReduce o t.toNat m (s.mask m) (s.V a) (fpMode s.cx.fp.fpctl))
def State.scans (s : State) (o : Nat) (d a : BitVec 5) (m : BitVec 3) (t : BitVec 2) : Out :=
  s.writesV d (laneScan o t.toNat m (s.mask m) (s.V a) (fpMode s.cx.fp.fpctl))
def execVredsum (d a : BitVec 5) (m : BitVec 3) (t : BitVec 2) (s : State) : Out := s.reduces 0 d a m t
def execVredmin (d a : BitVec 5) (m : BitVec 3) (t : BitVec 2) (s : State) : Out := s.reduces 1 d a m t
def execVredmax (d a : BitVec 5) (m : BitVec 3) (t : BitVec 2) (s : State) : Out := s.reduces 2 d a m t
def execVscanAdd (d a : BitVec 5) (m : BitVec 3) (t : BitVec 2) (s : State) : Out := s.scans 0 d a m t
def execVscanMin (d a : BitVec 5) (m : BitVec 3) (t : BitVec 2) (s : State) : Out := s.scans 1 d a m t
def execVscanMax (d a : BitVec 5) (m : BitVec 3) (t : BitVec 2) (s : State) : Out := s.scans 2 d a m t
/-- A special function of each active element (R90, R187). -/
def State.special (s : State) (fn : Nat) (d a : BitVec 5) (m : BitVec 3) : Out :=
  s.writesV d (laneMapF m (s.mask m) (s.V d) fun j => specialFn fn (velem (s.V a) 32 j))
def execVexp2 (d a : BitVec 5) (m : BitVec 3) (s : State) : Out := s.special 0 d a m
def execVlog2 (d a : BitVec 5) (m : BitVec 3) (s : State) : Out := s.special 1 d a m
def execVrcp (d a : BitVec 5) (m : BitVec 3) (s : State) : Out := s.special 2 d a m
def execVrsq (d a : BitVec 5) (m : BitVec 3) (s : State) : Out := s.special 3 d a m
def execVsqrt (d a : BitVec 5) (m : BitVec 3) (s : State) : Out := s.special 4 d a m
def execVtanh (d a : BitVec 5) (m : BitVec 3) (s : State) : Out := s.special 5 d a m
def execVsigm (d a : BitVec 5) (m : BitVec 3) (s : State) : Out := s.special 6 d a m

/-! Conversion, packing and quantisation (R188–R191). -/

def execVcvt (d a : BitVec 5) (m : BitVec 3) (f g : BitVec 4) (s : State) : Out :=
  s.writesV d (laneCvt f.toNat g.toNat s.cx.rm s.cx.seed s.cx.k4 m (s.mask m) (s.V d) (s.V a))
def execVpack (d a b : BitVec 5) (m : BitVec 3) (f : BitVec 4) (s : State) : Out :=
  s.writesV d (lanePack f.toNat m (s.mask m) (s.V d) (s.V a) (s.V b), [])
def execVunpack (d a b : BitVec 5) (m : BitVec 3) (f : BitVec 4) (s : State) : Out :=
  s.writesV d (laneUnpack f.toNat m (s.mask m) (s.V d) (s.V a) (s.V b), [])
/-- `VQNT` writes the codes and then the scale word into vb.e[0] (R190). -/
def execVqnt (d a b : BitVec 5) (m : BitVec 3) (c : BitVec 2) (f : BitVec 4) (s : State) : Out :=
  let r := laneQnt c.toNat f.toNat s.cx.rm s.cx.seed s.cx.k4 m (s.mask m) (s.V d) (s.V a) (s.V b)
  (s.vectorOp r.1.2 fun t =>
    let t1 := t.setV d r.1.1
    t1.setV b (vset (t1.V b) 32 0 r.2)).close
def execVdqnt (d a b : BitVec 5) (m : BitVec 3) (c : BitVec 2) (f : BitVec 4) (s : State) : Out :=
  s.writesV d (laneDqnt c.toNat f.toNat s.cx.k4 m (s.mask m) (s.V d) (s.V a) (s.V b))

/-- A vector command of a context completes (R170): its flags are ORed into `FPFLAGS`. -/
def Ctx.completeOne (c : Ctx) : Ctx :=
  match c.vq with
  | [] => c
  | v :: r => { c with vq := r, fp := { c.fp with fpflags := c.fp.fpflags ||| v.flags.setWidth 64 },
                       cnt := { c.cnt with loads := c.cnt.loads - v.isLoad.toNat } }
def execVectorCommandComplete (c : CtxId) (s : State) : Out := .next (s.updCtx c Ctx.completeOne)

end Sys2Proof.Machine
end

