-- ==== Sys2Proof/Machine/Memory.lean ====
section
/-!
DEFINITION. The memory instructions (R196–R208, R224, R228, R234), vector memory (R192–R195), the ordering instructions
(R229–R233) and the events that count writes (R379, R380).
-/
namespace Sys2Proof.Machine

/-! Loads. -/

/-- A checked read of `n` bytes (R198): alignment, translation and page kind, then the data. -/
def State.loadData (s : State) (i : Instr) (u : Use) (va : Word) (n : Nat) : Res Nat :=
  if va.toNat % n ≠ 0 then .trap (memCause u.kind 5) va s
  else
    match s.translate i u va with
    | .error e => .trap e.1 e.2 s
    | .ok (leaf, s1) =>
      match s1.readVia s.cur.crew leaf va n with
      | .error r => s1.readStops u leaf r va
      | .ok (v, s2) => .ok v (s2.readDone leaf va)

/-- A load: its checked read, then what it does with the data. -/
def State.finishLoad (s : State) (i : Instr) (u : Use) (va : Word) (n : Nat) (f : Nat → State → Res Next) : Res Next :=
  (s.loadData i u va n).bind f

/-- The address of a form M access (R201): its size in bytes is 2^sz. -/
def State.formM (s : State) (a : BitVec 6) (i : BitVec 11) (sz : Nat) : Word := memAddr (s.X a) i (2 ^ sz)

def execLd (d a : BitVec 6) (i : BitVec 11) (z : BitVec 3) (s : State) : Out :=
  (s.finishLoad (.ld d a i z) .load (s.formM a i z.toNat) (2 ^ z.toNat) fun v t => .ok .seq (t.setX d (BitVec.ofNat 64 v))).close
def execLds (d a : BitVec 6) (i : BitVec 11) (z : BitVec 3) (s : State) : Out :=
  (s.finishLoad (.lds d a i z) .load (s.formM a i z.toNat) (2 ^ z.toNat) fun v t =>
    .ok .seq (t.setX d (signExtendLow (8 * 2 ^ z.toNat) (BitVec.ofNat 64 v)))).close
/-- `LDP` (R205): bytes 0–7 to x(d), bytes 8–15 to x(d + 1). -/
def execLdp (d a : BitVec 6) (i : BitVec 11) (s : State) : Out :=
  (s.finishLoad (.ldp d a i) .load (s.formM a i 4) 16 fun v t =>
    .ok .seq ((t.setX d (BitVec.ofNat 64 v)).setX (d ||| 1) (BitVec.ofNat 64 (v / 2 ^ 64)))).close

/-! Stores. -/

/-- A write to host memory alone: counted until the host acknowledges it (R229). -/
def Ctx.sentHost (c : Ctx) : Ctx := { c with cnt := { c.cnt with stores := c.cnt.stores + 1 }, hostWrites := c.hostWrites + 1 }

/-- The accounting of one store instruction by what its writes came to: counted at once, under an entry that waits for the host alone, or
under its tag. -/
def State.account (s : State) (o : Stored) : State :=
  if o.parts = 0 ∧ o.host = 0 then s.sentAndCounted o.homes o.fails
  else (if o.parts = 0 then s.upd Ctx.sentHost else s.upd fun c => c.sent o.homes).owe 0 s.cur s.cx.record (.store s.cx.tag) (o.parts != 0) o
/-- A store instruction whose writes are done: one that found the code shadow full is not performed, and its task is retired at its next
boundary (R361). -/
def State.stored (s : State) (o : Stored) : State :=
  match o.full with
  | some va => s.push (.codeShadowFullRetire s.cx.record (va &&& ~~~(127#64)) s.pc)
  | none => s

/-- Completes an accepted write (R199). -/
def State.finishWrite (s : State) (leaf : Leaf) (va : Word) (n data mask : Nat) : Res Next :=
  match s.writeVia s.cur.crew leaf va n data mask with
  | (s1, .shadowFull) => .ok .seq (s1.stored (Stored.none.add va .shadowFull))
  | (s1, w) => .ok .seq (s1.account ((Stored.none.add va w).toward (s.homeBit leaf va)))

/-- The bytes of a write with an enabled bit (R349). -/
def enabledBytes (va : Word) (n mask : Nat) : List (Nat × Nat) :=
  ((List.range n).filter fun i => mask / 256 ^ i % 256 != 0).map fun i => (va.toNat + i, va.toNat + i + 1)
/-- A checked ordinary write of `n` bytes under a bit mask (R198, R199): the nodes that read the bytes are forced first (R349). -/
def State.storeData (s : State) (i : Instr) (va : Word) (n data mask : Nat) : Res Next :=
  if va.toNat % n ≠ 0 then .trap (memCause akStore 5) va s
  else
    match s.translate i .store va with
    | .error e => .trap e.1 e.2 s
    | .ok (leaf, s1) => (s1.forceRanges (enabledBytes va n mask)).bind fun _ s2 => s2.finishWrite leaf va n data mask

def execSt (d a : BitVec 6) (i : BitVec 11) (z : BitVec 3) (s : State) : Out :=
  (s.storeData (.st d a i z) (s.formM a i z.toNat) (2 ^ z.toNat) (s.X d).toNat (allBits (2 ^ z.toNat))).close
def execStp (d a : BitVec 6) (i : BitVec 11) (s : State) : Out :=
  (s.storeData (.stp d a i) (s.formM a i 4) 16 ((s.X d).toNat + 2 ^ 64 * (s.X (d ||| 1)).toNat) (allBits 16)).close
/-- Each of the low 16 bits of a mask, four times (R204). -/
def nibbleMask (m : Word) : Nat := (List.range 16).foldl (fun a i => a + (if m.getLsbD i then 15 * 16 ^ i else 0)) 0
def execStnBit (d a b : BitVec 6) (s : State) : Out :=
  (s.storeData (.stnBit d a b) (s.X a) 8 (s.X b).toNat (s.X d).toNat).close
def execStnNib (d a b : BitVec 6) (s : State) : Out :=
  (s.storeData (.stnNib d a b) (s.X a) 8 (s.X b).toNat (nibbleMask (s.X d))).close

/-! System atomics (R207, R208). -/

/-- An atomic whose read fails after the checks traps nothing but poison (R199, R392): it is counted with its failure, and x(d) holds no
value the manual gives. [DESIGN CHOICE, log 114] -/
def State.atomicFails (s : State) (leaf : Leaf) (d : BitVec 6) (va : Word) (r : Nat) : Res Next :=
  if r = 7 then s.readFault .load 7 va
  else
    let f : Fail := if r = 8 then .refused else if r = 9 then .timedout else .lost
    .ok .seq ((s.account ((Stored.none.add va (.done (some f))).toward (s.homeBit leaf va))).setX d (Config.freeWord s.tick))
/-- An atomic on a word of another package (R207, R208): it is sent to the word's home, which reads and writes it as one action, and completes
when the old value has returned. -/
def State.atomicRemote (s : State) (leaf : Leaf) (d : BitVec 6) (va : Word) (pk p n : Nat) (a : AtomicMsg) : Res Next :=
  match s.replyAt s.reader (lineOf p) with
  | none => if s.routeUp pk then .hold (some .reply) (s.ask pk (lineOf p) va.toNat (.atomic a)) else s.atomicFails leaf d va 10
  | some .pending => .hold (some .reply) s
  | some (.failed r) => s.dropReplies.atomicFails leaf d va r
  | some (.data x) =>
    .ok .seq ((s.dropReplies.account ((Stored.none.add va (.done none)).toward (s.homeBit leaf va))).setX d (BitVec.ofNat 64 (bytesOf x p n)))
/-- An atomic (R207, R208): it starts once every earlier store and join is counted, and the read and the write are one
action. -/
def State.atomic (s : State) (i : Instr) (op : Nat) (d a b : BitVec 6) (w : BitVec 1) : Res Next :=
  let n := 4 * (w.toNat + 1)
  let va := s.X a
  if s.taskMode then .trap 0x06 (wordOf i) s
  else if va.toNat % n ≠ 0 then .trap (memCause akStore 5) va s
  else
    match s.translate i .atomic va with
    | .error e => .trap e.1 e.2 s
    | .ok (leaf, s1) =>
      if !s1.cx.settled then .hold (some .settled) s1
      else
        match (if leaf.sbank then .nowhere else s1.place (leaf.addr va)) with
        | .remote pk p =>
          s1.atomicRemote leaf d va pk p n { pa := p, op := BitVec.ofNat 3 op, dbl := n == 8, cmp := s.X d, new := s.X b }
        | _ =>
          match s1.readVia s.cur.crew leaf va n with
          | .error r => s1.atomicFails leaf d va r
          | .ok (old, s2) =>
            let new := atomicNew op n old (s.X d).toNat (s.X b).toNat
            if new = old ∧ op = 1 then .ok .seq (s2.setX d (BitVec.ofNat 64 old))
            else (s2.finishWrite leaf va n new (allBits n)).bind fun x t => .ok x (t.setX d (BitVec.ofNat 64 old))

def execAmoswap (d a b : BitVec 6) (w : BitVec 1) (s : State) : Out := (s.atomic (.amoswap d a b w) 0 d a b w).close
def execAmocas (d a b : BitVec 6) (w : BitVec 1) (s : State) : Out := (s.atomic (.amocas d a b w) 1 d a b w).close
def execAmoadd (d a b : BitVec 6) (w : BitVec 1) (s : State) : Out := (s.atomic (.amoadd d a b w) 2 d a b w).close

/-! Exact reads (R195, R224) and the view of `LQUERY` (R228). -/

/-- Whether `XREAD` may read a line (R210, R224): any line of a frozen page, a frozen lattice line, a filled FILL1 line. An untyped line
that is not frozen gives exact-read-of-growing. [DEDUCED, log 120] -/
def State.exactOk (s : State) (leaf : Leaf) (va : Word) : Bool :=
  leaf.kind != 2 ||
    (match s.bytesAt (leaf.addr va) with
      | some p => let m := s.metaOf (lineOf p); m.frozen || (m.type == 6 && m.filled)
      | none => true)

/-- The line an access reaches, and whether its busy bit is set (R327, R374). -/
def State.lineAt (s : State) (leaf : Leaf) (va : Word) : Nat := lineOf ((s.bytesAt (leaf.addr va)).getD 0)
def State.busyAt (s : State) (leaf : Leaf) (va : Word) : Bool := leaf.kind == 2 && s.lineTaken (s.lineAt leaf va)
/-- The line that an access of the issuing context reaches, if it reaches one. -/
def State.turnLine (s : State) (u : Use) (va : Word) : Option Nat :=
  match s.leafAt s.cur.crew u va with
  | .ok (leaf, s1) => (s1.bytesAt (leaf.addr va)).map lineOf
  | .error _ => none
/-- The instruction waits for its turn at the line an access reaches (R374); its context is not STALLED meanwhile (R199). -/
def State.holdAt {α : Type} (s : State) (leaf : Leaf) (va : Word) : Res α := .hold (some (.line (s.lineAt leaf va))) (s.awaitTurn (s.lineAt leaf va))
/-- The instruction's turn at some lines is over when it completes or traps. -/
def Res.turnsOver {α : Type} (r : Res α) (ls : List Nat) : Res α :=
  match r with
  | .ok a s => .ok a (s.endTurn ls)
  | .trap c v s => .trap c v (s.endTurn ls)
  | r => r

def execXread (d a : BitVec 6) (i : BitVec 11) (z : BitVec 3) (s : State) : Out :=
  let va := s.formM a i z.toNat
  let ins : Instr := .xread d a i z
  (if va.toNat % 2 ^ z.toNat ≠ 0 then Res.trap (memCause akLoad 5) va s
   else
    match s.translate ins .exact va with
    | .error e => .trap e.1 e.2 s
    | .ok (leaf, s1) =>
      if s1.busyAt leaf va then s1.holdAt leaf va
      else
        (if s1.exactOk leaf va then
          s1.finishLoad ins .exact va (2 ^ z.toNat) fun v t => .ok .seq (t.setX d (BitVec.ofNat 64 v))
        else .trap 0x0C1 va s1).turnsOver [s1.lineAt leaf va]).close

/-- The home's view of a line. -/
def State.queryWord (s : State) (l : Nat) : Word :=
  let n := s.watches.countP fun w => w.line == l
  BitVec.ofNat 64 ((s.metaOf l).bits.toNat + 2 ^ 32 * min n 0xFFFF + ctlBit ((s.copiesOf l).any fun p => p.2.st == .d) 48)
def execLquery (d a : BitVec 6) (s : State) : Out :=
  let va := s.X a
  (if s.taskMode then Res.trap 0x06 (wordOf (.lquery d a)) s
   else
    match s.translate (.lquery d a) .query va with
    | .error e => .trap e.1 e.2 s
    | .ok (leaf, s1) =>
      match s1.bytesAt (leaf.addr va) with
      | some p =>
        match (if s1.isRemote leaf va then s1.readVia s.cur.crew leaf va 1 else .ok (0, s1)) with
        | .error r => s1.readStops .query leaf r va
        | .ok (_, s2) => .ok .seq ((s2.readDone leaf va).setX d (s1.queryWord (lineOf p)))
      | none => .trap (memCause akLoad 8) va s1).close

/-! Prefetches (R234). -/

/-- A prefetch brings the line to the slice, and to the crew's L1 when it is asked for there, or is dropped. -/
def State.prefetch (s : State) (a : BitVec 6) (l1 : Bool) : State :=
  let va := s.X a
  match s.leafAt s.cur.crew .load va with
  | .error _ => s
  | .ok (leaf, s1) =>
    if leaf.sbank || leaf.hb || (leaf.kind == 1 && s.taskMode) then s
    else
      match s1.place (leaf.addr va) with
      | .device p => if (s1.metaOf (lineOf p)).poison then s
        else if l1 then s1.touch s.cur.crew leaf va (lineOf p) else s1.fillSlice s.cur.crew leaf va (lineOf p)
      | _ => s
def execPrefxL2 (a : BitVec 6) (s : State) : Out := (Res.ok .seq (s.prefetch a false)).close
def execPrefxL1 (a : BitVec 6) (s : State) : Out := (Res.ok .seq (s.prefetch a true)).close

/-! Joins (R194, R213–R215). -/

/-- The line a lattice access reaches: its number, or why it cannot. -/
def State.latticeAt (s : State) (leaf : Leaf) (va : Word) : Except Fail Nat :=
  match s.place (leaf.addr va) with
  | .device p => .ok (lineOf p)
  | .remote pk p => if s.routeUp pk then .ok (lineOf p) else .error .lost
  | _ => .error .refused

/-- Step 8 of R198 for a typed access: the cause. -/
def State.typeFault (s : State) (l : Nat) (t : LatType) (wc : Nat) : Option Nat :=
  let m := s.metaOf l
  if m.type.toNat ≠ latCode t then some 0x0C3 else if m.width.toNat ≠ wc then some 0x0C4 else none

/-- The trap of a join that its line refuses: its arrival is recorded (R325), and a frozen line posts its report (R213). While the splits
buffer has no room, the join waits at the slice (R327). -/
def State.joinFault (s : State) (leaf : Leaf) (va : Word) (j : JoinMsg) : Res Unit :=
  match s.latticeAt leaf va with
  | .error _ => .ok () s
  | .ok l =>
    let refuses := fun (cause : Nat) => if (s.logJoin (homeOf l) l j).isNone then .hold none (s.push (.splitsFull (loggingCrew (homeOf l))))
      else .trap cause va (s.joinAtHome l j none).1
    match s.joinCheck l j.ltype j.width with
    | .typeMismatch => refuses 0x0C3
    | .widthMismatch => refuses 0x0C4
    | .frozen => refuses 0x0C0
    | _ => .ok () s

/-- A join that its checks have passed: absorbed by the delta of the slice that serves the crew, performed at the home (R214), held there
by a full splits buffer (R327), or sent to another package (R232). -/
def State.joinLine (s : State) (leaf : Leaf) (va : Word) (j : JoinMsg) : State × Written :=
  match s.place (leaf.addr va) with
  | .remote pk p => if s.routeUp pk then (s.fly pk (lineOf p) va.toNat (.join j) (some (s.entryId 0)), .sent) else (s, .done (some .lost))
  | .device p =>
    let l := lineOf p
    let a := s.sliceFor s.cur.crew va
    let r := match s.absorber a l with
      | some c =>
        let r := s.joinDelta a l (c.tagged va (s.domainTag s.cur.crew) leaf (s.recallTargets a c)) j (some (s.entryId 0))
        (r.1.fillL1 s.cur.crew leaf va l true, r.2)
      | none => s.joinAtHome l j (some (s.entryId 0))
    (r.1, match r.2 with | .held => .sent | .poisoned => .done (some .poisoned) | _ => .done none)
  | _ => (s, .done (some .refused))

/-- The joins of one instruction take effect, and are counted together (R194). -/
def State.joinLines (s : State) (ls : List (Leaf × JoinMsg)) : State :=
  let r := ls.foldl (fun (p : State × Stored) x =>
    let q := p.1.joinLine x.1 x.2.va x.2
    (q.1, (p.2.add x.2.va q.2).toward (s.homeBit x.1 x.2.va))) (s, Stored.none)
  r.1.account r.2

/-- Whether a join of a scope waits for earlier writes (R214). -/
def State.releaseWait (s : State) (sc : Nat) : Bool := sc != 0 && !s.cx.settled

/-- A join message of the issuing context (R212). -/
def State.joinMsg (s : State) (t : LatType) (wc : Nat) (data : BitVec 1024) (elem : Nat) (va : Word) : JoinMsg where
  ltype := t
  width := wc
  data := data
  elem := elem
  countOnly := false
  src := .context s.cur
  launch := s.cx.launchId
  serial := s.cx.serial.toNat
  pc := s.pc
  va := va

/-- The checks of some joins of a scope, in the order of R213 for each: alignment, translation and kind; the release wait; the line's busy
bit; then type, width and frozen state. It answers their leaves, the first trap (R194), or what the instruction waits for before it
is accepted (R167, R199). [DEDUCED, log 25] -/
def State.checkJoins (s : State) (i : Instr) (sc n : Nat) : List JoinMsg → Res (List (Leaf × JoinMsg))
  | [] => .ok [] s
  | j :: r =>
    if j.va.toNat % n ≠ 0 then .trap (memCause akStore 5) j.va s
    else
      match s.translate i .join j.va with
      | .error e => .trap e.1 e.2 s
      | .ok (leaf, s1) =>
        if s1.releaseWait sc then .hold (some .settled) s1
        else if s1.busyAt leaf j.va then s1.holdAt leaf j.va
        else
          (s1.joinFault leaf j.va j).bind fun _ s2 => (s2.checkJoins i sc n r).bind fun ls s3 => .ok ((leaf, j) :: ls) s3

def execJoin (a b : BitVec 6) (sc : BitVec 3) (w : BitVec 2) (t : BitVec 3) (s : State) : Out :=
  let va := s.X a
  let ty := latOfCode t.toNat
  let wc := w.toNat
  let i := elemIndex ty wc va
  let j := s.joinMsg ty wc (liftElem ty wc i (s.X b)) i va
  (((s.checkJoins (.join a b sc w t) sc.toNat (if ty = .fill1 then 128 else 2 ^ wc) [j]).bind fun ls s1 => .ok .seq (s1.joinLines ls)).turnsOver
    (s.turnLine .join va).toList).close

/-- A vector memory instruction begins (R162, R165): its queue has room, and a context without a claim claims 64 lanes, a claim that
stands when the instruction then traps (R57). [DESIGN CHOICE, log 126] -/
def State.beginVector (s : State) (f : State → Res Next) : Res Next :=
  if s.vectorFull then s.holdForPool
  else
    match s.implicitClaim with
    | none => .trap 0x150 6 s
    | some s1 => f s1
/-- Its checks have passed and its command is queued (R162, R169): it counts as a load in `OCNT` while it is incomplete. -/
def State.queueVector (s : State) (isLoad : Bool) (write : State → State) : Res Next :=
  .ok .seq (((write s).upd fun c => { c.queue { flags := 0, isLoad := isLoad } with
    cnt := { c.cnt with loads := c.cnt.loads + isLoad.toNat } }).push (.vectorCommandComplete s.cur))

/-- The halves of a `JOINV` or `XREADV` that have an active element (R194, R195). -/
def State.activeHalves (s : State) (m : BitVec 3) : List Nat :=
  [0, 1].filter fun h => (List.range 32).any fun i => activeBit m (s.mask m) (32 * h + i)

/-- A half's data for a join: inactive elements hold the bits of the type's bottom, except in a FILL1 line (R194). -/
def halfData (t : LatType) (wc : Nat) (v mask : VReg) (m : BitVec 3) (h : Nat) : BitVec 1024 :=
  (List.range 32).foldl (fun d i =>
    if t = .fill1 || activeBit m mask (32 * h + i) then d ||| ((velem v 32 (32 * h + i)).setWidth 1024 <<< (32 * i))
    else d ||| ((bottomLine t wc).extractLsb' (32 * i) 32).setWidth 1024 <<< (32 * i)) 0

def execJoinv (d a : BitVec 5) (sc m : BitVec 3) (w : BitVec 2) (t : BitVec 3) (s : State) : Out :=
  let va := s.X (a.setWidth 6)
  let ty := latOfCode t.toNat
  let js := (s.activeHalves m).map fun h =>
    s.joinMsg ty w.toNat (halfData ty w.toNat (s.V d) (s.mask m) m h) 0 (va + BitVec.ofNat 64 (128 * h))
  ((s.beginVector fun s1 => (s1.checkJoins (.joinv d a sc m w t) sc.toNat 128 js).bind fun ls s2 =>
    s2.queueVector false fun s3 => s3.joinLines ls).turnsOver (js.filterMap fun j => s.turnLine .join j.va)).close

/-! Vector memory (R192, R193, R195). -/

/-- The addresses of the active elements, in order. -/
def State.vectorAddrs (s : State) (a : BitVec 5) (m : BitVec 3) (off : Nat → Nat) : List (Nat × Word) :=
  ((List.range 64).filter fun i => activeBit m (s.mask m) i).map fun i => (i, s.X (a.setWidth 6) + BitVec.ofNat 64 (off i))
def indexedOff (v : VReg) (i : Nat) : Nat := (velem v 32 i).toNat

/-- Checks elements in order: their leaves, or the lowest failing element's trap (R192). A load's route is checked with them. -/
def State.checkElems (s : State) (i : Instr) (u : Use) : List (Nat × Word) → Res (List (Nat × Word × Leaf))
  | [] => .ok [] s
  | (e, va) :: r =>
    if va.toNat % 4 ≠ 0 then .trap (memCause u.kind 5) va s
    else
      match s.translate i u va with
      | .error x => .trap x.1 x.2 s
      | .ok (leaf, s1) =>
        match (if u = .load then s1.readVia s.cur.crew leaf va 4 else .ok (0, s1)) with
        | .error x => if x = 7 then (s1.checkElems i u r).bind fun ls s2 => .ok ((e, va, leaf) :: ls) s2 else s1.readStops u leaf x va
        | .ok (_, s2) => (s2.checkElems i u r).bind fun ls s3 => .ok ((e, va, leaf) :: ls) s3

/-- The poison a vector load read: its context traps before its next instruction, or its job rolls back (R206, R394). -/
def State.armPoison (s : State) (va : Option Word) : State :=
  match va with
  | none => s
  | some a =>
    match s.rollbackFor s.cx.launchId with
    | some job => s.push (.rollbackRestart job)
    | none => (s.upd fun c => { c with vpoison := some (c.vpoison.getD a) }).push (.asyncFaultDelivery s.cur)

/-- Reads checked elements into a register; a poisoned element reads 0. -/
def State.readElems (s : State) (d : BitVec 5) (es : List (Nat × Word × Leaf)) : State :=
  let r := es.foldl (fun (p : State × Option Word) e =>
    match p.1.readVia s.cur.crew e.2.2 e.2.1 4 with
    | .ok (v, s1) => (s1.setV d (vset (s1.V d) 32 e.1 (BitVec.ofNat 32 v)), p.2)
    | .error _ => (p.1.setV d (vset (p.1.V d) 32 e.1 0), some (p.2.getD e.2.1))) (s, none)
  (if es.any (fun e => s.isRemote e.2.2 e.2.1) then r.1.dropReplies else r.1).armPoison r.2

/-- A vector load (R192, R206). -/
def State.vectorLoad (s : State) (i : Instr) (d : BitVec 5) (es : List (Nat × Word)) : Res Next :=
  s.beginVector fun s0 => (s0.checkElems i .load es).bind fun ls s1 => s1.queueVector true fun s2 => s2.readElems d ls

/-- Writes part of a vector store. -/
def State.storePart (s : State) (o : Stored) (va : Word) (leaf : Leaf) (n data : Nat) : State × Stored :=
  let r := s.writeVia s.cur.crew leaf va n data (allBits n)
  (r.1, (o.add va r.2).toward (s.homeBit leaf va))

/-- Whether the next 32 elements fill one line of device memory in order; the line is then owned (R376, R464). A poisoned line takes
each element as a write of its own (R193, R404). -/
def State.fillsLine (s : State) (ls : List (Nat × Word × Leaf)) : Bool :=
  match ls with
  | [] => false
  | e :: _ =>
    e.2.1.toNat % 128 == 0 && !e.2.2.sbank &&
      (ls.take 32).map (fun x => x.2.1) == (List.range 32).map (fun j => e.2.1 + BitVec.ofNat 64 (4 * j)) &&
      (match s.place (e.2.2.addr e.2.1) with | .device p => !(s.metaOf (lineOf p)).poison | _ => false)

/-- Writes checked elements in order (R192); the number bounds how many. -/
def State.storeElems (s : State) (v : VReg) (o : Stored) (ls : List (Nat × Word × Leaf)) : Nat → State × Stored
  | 0 => (s, o)
  | n + 1 =>
    match ls with
    | [] => (s, o)
    | e :: r =>
      let k := if s.fillsLine ls then 32 else 1
      let data := (ls.take k).foldr (fun x d => (velem v 32 x.1).toNat + 2 ^ 32 * d) 0
      let t := s.storePart o e.2.1 e.2.2 (4 * k) data
      t.1.storeElems v t.2 (r.drop (k - 1)) n

/-- A vector store (R192, R193): every element checked, the nodes that read the bytes forced, then the elements in order. [DEDUCED, log 24] -/
def State.vectorStore (s : State) (i : Instr) (d : BitVec 5) (es : List (Nat × Word)) : Res Next :=
  s.beginVector fun s0 => (s0.checkElems i .store es).bind fun ls s1 =>
    (s1.forceRanges (es.map fun e => (e.2.toNat, e.2.toNat + 4))).bind fun _ s2 => s2.queueVector false fun s3 =>
      let r := s3.storeElems (s.V d) Stored.none ls 64
      (r.1.account r.2).stored r.2

def execVld (d a : BitVec 5) (m : BitVec 3) (s : State) : Out :=
  (s.vectorLoad (.vld d a m) d (s.vectorAddrs a m fun i => 4 * i)).close
def execVldx (d a b : BitVec 5) (m : BitVec 3) (s : State) : Out :=
  (s.vectorLoad (.vldx d a b m) d (s.vectorAddrs a m (indexedOff (s.V b)))).close
def execVst (d a : BitVec 5) (m : BitVec 3) (s : State) : Out :=
  (s.vectorStore (.vst d a m) d (s.vectorAddrs a m fun i => 4 * i)).close
def execVstx (d a b : BitVec 5) (m : BitVec 3) (s : State) : Out :=
  (s.vectorStore (.vstx d a b m) d (s.vectorAddrs a m (indexedOff (s.V b)))).close

/-- The checks of `XREADV`'s lines, L0's before L1's. -/
def State.checkLines (s : State) (i : Instr) (va : Word) : List Nat → Res (List (Nat × Leaf))
  | [] => .ok [] s
  | h :: r =>
    let a := va + BitVec.ofNat 64 (128 * h)
    if a.toNat % 128 ≠ 0 then .trap (memCause akLoad 5) a s
    else
      match s.translate i .exact a with
      | .error x => .trap x.1 x.2 s
      | .ok (leaf, s1) =>
        if s1.busyAt leaf a then s1.holdAt leaf a
        else if !s1.exactOk leaf a then .trap 0x0C1 a s1
        else
          match s1.readVia s.cur.crew leaf a 4 with
          | .error x => if x = 7 then (s1.checkLines i va r).bind fun ls s2 => .ok ((h, leaf) :: ls) s2 else s1.readStops .exact leaf x a
          | .ok (_, s2) => (s2.checkLines i va r).bind fun ls s3 => .ok ((h, leaf) :: ls) s3

def execXreadv (d a : BitVec 5) (m : BitVec 3) (s : State) : Out :=
  let va := s.X (a.setWidth 6)
  ((s.beginVector fun s0 => (s0.checkLines (.xreadv d a m) va (s.activeHalves m)).bind fun ls s1 =>
    s1.queueVector true fun s2 =>
      s2.readElems d (((s.vectorAddrs a m fun i => 4 * i)).filterMap fun e =>
        (ls.find? fun l => l.1 == e.1 / 32).map fun l => (e.1, e.2, l.2))).turnsOver
    ((s.activeHalves m).filterMap fun h => s.turnLine .exact (va + BitVec.ofNat 64 (128 * h)))).close

/-! Ordering (R229–R233). -/

/-- Every count of a context that is on its way back lands (R380). -/
def Ctx.land (c : Ctx) : Ctx :=
  { c with cnt := { c.cnt with stores := c.cnt.stores - c.arrived }, arrived := 0,
           fails := c.fails.merge c.arrFails, arrFails := .none }
def State.landAll (s : State) (i : CtxId) : State :=
  { s.updCtx i Ctx.land with
    arrivals := s.arrivals.map fun a => if a.ctx == i then { a with pending := 0, fails := Failures.none } else a }
/-- Whether a home's counts of an entry go back (R379): 16 of them, or 8 c after the latest arrival. -/
def Arrival.due (clock : Nat) (a : Arrival) : Bool := decide (16 ≤ a.pending) || decide (a.since + 8 ≤ clock)

/-- The writes of every tag but the current one have arrived (R380). [DEDUCED, log 29] -/
def Ctx.tagsClosed (c : Ctx) : Bool := c.tags.all fun p => p.1 == c.tag || p.2.sent == p.2.arrived
/-- The context takes up its next tag; what is kept of closed ones goes (R380). -/
def Ctx.nextTag (c : Ctx) : Ctx := { c with tag := (c.tag + 1) % 4, tags := c.tags.filter fun p => p.1 == c.tag }

/-- `FENCE` completes (R230): it writes the status word and clears the accumulator. -/
def State.fenceDone (s : State) (d : BitVec 6) : Res Next :=
  let v := s.cx.fails.status
  .ok .seq ((s.upd fun c => { c with fails := .none, answer := none }).setX d v)
/-- `FENCE` (R229, R230, R380): it closes its context's tag once the close before it has completed, so that two tags at most are in use,
and completes at its re-issue after the answers. -/
def execFence (d : BitVec 6) (sc : BitVec 3) (s0 : State) : Out :=
  let s := s0.upd Ctx.drainVec
  (if sc = 0 then s.fenceDone d
   else if s.cx.answer.isNone then
    if s.cx.tagsClosed then .wait .fence ((s.upd Ctx.nextTag).push (.tagClose s.cur s.cx.tag)) else .wait .tagOpen s
   else if sc = 5 ∧ s.cx.hostWrites ≠ 0 then .wait .hostAcks s
   else s.fenceDone d).close

/-- Whether the counters meet the limits of a `WAITC`; 15 is no limit. -/
def Ocnt.within (c : Ocnt) (l t p n : Nat) : Bool :=
  (l == 15 || decide (c.loads ≤ l)) && (t == 15 || decide (c.stores ≤ t)) && (p == 15 || decide (c.copies ≤ p)) &&
    (n == 15 || decide (c.demands ≤ n))
def execWaitc (t c z l : BitVec 4) (s : State) : Out :=
  (if s.cx.cnt.within l.toNat z.toNat c.toNat t.toNat then Res.ok .seq s
   else .wait (.counters l.toNat z.toNat c.toNat t.toNat) s).close

/-- A batch of counts reaches its context (R379). -/
def execArrivalBatch (c : CtxId) (s : State) : Out := .next (s.landCounts c (Arrival.due s.clock))
/-- A home returns what it has counted after 8 c without an arrival. -/
def execArrivalBatchTimer (c : CtxId) (s : State) : Out :=
  let t := s.landCounts c (Arrival.due s.clock)
  .next (match ((t.arrivals.filter fun a => a.ctx == c && a.pending != 0).map fun a => a.since + 8 - s.clock).min? with
    | some n => t.after n (.arrivalBatchTimer c)
    | none => t)

/-- The homes answer the close of a tag (R380) when its writes are counted; the fence then completes. -/
def execTagClose (c : CtxId) (_tag : Nat) (s : State) : Out :=
  .next (if (s.ctxAt c).tagsClosed then
    ((s.updCtx c fun x => { x with tags := x.tags.filter fun p => p.1 == x.tag }).dropArrivals c fun a => a.tag != (s.ctxAt c).tag).push
      (.fenceComplete c) else s)
/-- The answers equal the number sent (R380): the stalled fence has its status word. -/
def execFenceComplete (c : CtxId) (s : State) : Out :=
  .next (if (s.ctxAt c).wait = some .fence then (s.landAll c).updCtx c fun x => { x with answer := some 0 } else s)
/-- The writes of an entry are not counted within the store timeout (R232): they are resolved as timed out; one that is held or arrives
later is discarded. -/
def State.timeOut (s : State) (o : Owed) : State :=
  let late := fun (x : Option Nat) => x == some o.id
  let s1 := { s with
    heldJoins := s.heldJoins.filter fun h => !late h.owed
    flying := s.flying.filter fun f => !late f.owed }
  let busy := ((s.heldJoins.filter fun h => late h.owed).map HeldJoin.line) ++ ((s.flying.filter fun f => late f.owed && f.joins).map Flying.line)
  (s1.releaseLines busy).settleOwed { o with
    parts := 0, host := 0, fails := { o.fails with timedout := o.fails.timedout + o.parts + o.host } }
/-- What a reader has not heard within the store timeout fails as timed out (R196). -/
def State.replyTimeout (s : State) (c : CtxId) : State :=
  let late := fun (x : Reply) => x.reader == 32 * c.crew + c.n && x.answer == .pending && decide (x.since + 1750 * s.pkg.fields.sto ≤ s.clock)
  let gone := (s.replies.filter late).map Reply.id
  { s with
    replies := s.replies.map fun x => if late x then { x with answer := .failed 9 } else x
    flying := s.flying.filter fun f => !gone.contains f.id }
/-- The store timeout of a context's writes of a kind, `WriteBy.code` of it, has run out (R232), or that of its reads (R196). -/
def execStoreTimeout (c : CtxId) (tag : Nat) (s : State) : Out :=
  .next (if tag = 40 then s.replyTimeout c
    else (s.owed.filter fun o => o.ctx == c && o.maker.code == tag && decide (o.since + 1750 * s.pkg.fields.sto ≤ s.clock)).foldl
      State.timeOut s)
/-- The host acknowledges a context's oldest write that waits for it (R229). -/
def execHostWriteAck (c : CtxId) (s : State) : Out :=
  .next (match s.owed.find? fun o => o.ctx == c && o.host != 0 with
    | some o => s.settleOwed { o with host := o.host - 1 }
    | none => s)

/-- A system atomic reaches its home (R208). -/
def execSystemAtomicAtHome (pa : Nat) (op : BitVec 3) (dbl : Bool) (cmp new : Word) (s : State) : Out :=
  .next (s.request (lineOf pa) (.atomic pa op dbl cmp new))

end Sys2Proof.Machine
end

