-- ==== Sys2Proof/Machine/TileInstr.lean ====
section
/-!
DEFINITION. The tile instructions that allocate, shape, map and release slots, and those that record nodes or demand them
(R237–R264).
-/
namespace Sys2Proof.Machine

/-- The handle in a register. -/
def State.handleIn (s : State) (r : BitVec 4) : BitVec 32 := s.cx.getT r
/-- The map of a register (R246). -/
def Ctx.mapOf (c : Ctx) (r : BitVec 4) : TMap := (mget? c.maps r.toNat).getD TMap.ident
def Ctx.setMap (c : Ctx) (r : BitVec 4) (m : TMap) : Ctx := { c with maps := mput c.maps r.toNat m }
/-- Puts a handle with map ID into a register. -/
def Ctx.placeHandle (c : Ctx) (r : BitVec 4) (h : BitVec 32) : Ctx := (c.setT r h).setMap r TMap.ident

/-- The checks of R237 steps 1–2: the cause and `TVAL` of the first that fails. [DEDUCED, log 43] -/
def State.checkHandle (s : State) (r : BitVec 4) : Option (Nat × Word) :=
  let h := s.handleIn r
  if !hValid h then some (0x100, r.setWidth 64)
  else if s.stale s.cur.crew h then some (0x101, h.setWidth 64)
  else none
/-- A captured index tile whose slot holds another generation is a stale handle too (R25, R347). [DEDUCED, log 108] -/
def State.checkIndex (s : State) (r : BitVec 4) : Option (Nat × Word) :=
  let m := s.cx.mapOf r
  if m.kind == 5 && s.stale s.cur.crew m.index then some (0x101, m.index.setWidth 64) else none
/-- The checks of R237 on an output or copy destination. -/
def State.checkOutput (s : State) (r : BitVec 4) : Option (Nat × Word) :=
  let h := s.handleIn r
  let t := s.slotNamed s.cur.crew h
  match s.checkHandle r with
  | some e => some e
  | none =>
    if ownerCrew s.cur.crew h ≠ s.cur.crew then some (0x105, h.setWidth 64)
    else if t.owner ≠ s.cx.record || !s.cx.hasTask then some (0x103, h.setWidth 64)
    else if t.st ≠ .empty then some (0x104, h.setWidth 64)
    else none
/-- The first failure of a list of checks. -/
def firstFault : List (Option (Nat × Word)) → Option (Nat × Word)
  | [] => none
  | some e :: _ => some e
  | none :: r => firstFault r

/-- Whether an input is usable at issue (R238). -/
def State.usable (s : State) (h : BitVec 32) (pending : Bool) : Bool :=
  let k := s.cur.crew
  let t := s.slotNamed k h
  t.st == .ready ||
    (pending && t.st == .filling && ownerCrew k h == k &&
      (match s.writerOf k (hSlot h) with | some (_, n) => n.record == s.cx.record | none => false))
/-- Waits for the first input that is not usable (R238). -/
def State.awaitInputs (s : State) (pending : Bool) : List (BitVec 32) → Option Wait
  | [] => none
  | h :: r => if s.usable h pending then s.awaitInputs pending r else some (.slot (ownerCrew s.cur.crew h) (hSlot h))

/-! Shape registers (R242, R243). -/

/-- Whether a shape register's value breaks R243. -/
def shapeBad (k : Nat) (v : Word) : Bool :=
  match k with
  | 0 => decide (v &&& 0xF8C0C0C000000000#64 ≠ 0) || !scaleAllowed (v.extractLsb' 32 4).toNat (v.extractLsb' 36 2).toNat ||
      decide (4 < (v.extractLsb' 56 3).toNat)
  | 1 | 4 => decide (v.extractLsb' 55 9 ≠ 0)
  | 2 => decide (v.extractLsb' 40 24 ≠ 0)
  | 3 | 7 => decide (v.extractLsb' 12 52 ≠ 0) || (if k = 3 then decide (v.extractLsb' 4 4 ≠ 0) else decide (v.extractLsb' 6 2 ≠ 0))
  | 5 => decide (v.extractLsb' 56 8 ≠ 0)
  | _ => decide (v.extractLsb' 21 43 ≠ 0) || decide (v.toNat % 256 ≠ 0) || decide (2 ^ 20 < (v.extractLsb' 0 21).toNat)
/-- The shape fault of the first register in use that breaks R243. -/
def State.checkShapes (s : State) (ks : List (BitVec 3)) : Option (Nat × Word) :=
  (ks.find? fun k => shapeBad k.toNat (s.cx.getTsh k)).map fun k => (0x10A, k.setWidth 64)

/-- The checks of a memory window (R243, R244), with `TBASE` when the instruction adds it. A window is read or written through
TSH0–TSH2: it uses all three. [DEDUCED, log 106] -/
def State.checkWindow (s : State) (base : Nat) (useTbase write : Bool) : Option (Nat × Word) :=
  let w := windowOf s.cx.tsh base
  firstFault [
    s.checkShapes (if useTbase then [0, 1, 2, 4] else [0, 1, 2]),
    if w.scale = 2 ∧ (w.rows ≠ 64 ∨ w.cols ≠ 64) then some (0x10A, 0) else none,
    if write && decide (w.pitch < w.rowBytes) then some (0x10A, 0) else none,
    if base % (if memBits w.fmt = 32 then 4 else if memBits w.fmt = 16 then 2 else 1) ≠ 0
      then some (memCause akEngine 5, BitVec.ofNat 64 base) else none]

/-- A trap or a continuation. -/
def trapOr (e : Option (Nat × Word)) (s : State) (k : Res Next) : Res Next :=
  match e with | some (c, v) => .trap c v s | none => k

def execTshape (a : BitVec 6) (k : BitVec 3) (s : State) : Host.Outcome State Fault Refusal :=
  (Res.ok .seq (s.upd fun c => c.setTsh k (s.X a))).close

/-! Index maps (R246, R247). -/

/-- The bits of the parameter word a kind names (R247). -/
def mapMask (kind : Nat) : Word :=
  match kind with
  | 2 => 0x3F3F#64 | 3 => 0x3F3F3F3F#64 | 4 => 0x3F01#64 | 5 => 0x3F1F#64 | _ => 0

/-- Whether a slot's bank may hold an index tile (R247). -/
def State.indexBank (s : State) (h : BitVec 32) : Bool :=
  let bf := s.bankFmt (ownerCrew s.cur.crew h) (s.slotNamed s.cur.crew h).bank
  decide (11 ≤ bfFmt bf) && bfScale bf == 0

/-- `TMAP` (R247). -/
def State.mapTile (s : State) (i : Instr) (kind : Nat) (e a : BitVec 4) (b : BitVec 6) : Res Next :=
  let v := s.X b
  let j : BitVec 4 := v.extractLsb' 0 4
  if kind = 0 ∧ v ≠ 0 then
    if v.extractLsb' 32 32 ≠ 0 || v.extractLsb' 26 5 ≠ 0 || !v.getLsbD 31 then .trap 0x102 v s
    else .ok .seq (s.upd fun c => c.placeHandle e (v.setWidth 32))
  else
    trapOr (firstFault [
      s.checkHandle a,
      if v &&& ~~~mapMask kind ≠ 0 then some (0x109, v) else none,
      if kind = 5 then s.checkHandle j else none,
      if kind = 5 && !s.indexBank (s.handleIn j) then some (0x108, wordOf i) else none]) s
      (.ok .seq (s.upd fun c => (c.setT e (s.handleIn a)).setMap e {
        kind := kind, param := v, index := if kind = 5 then s.handleIn j else 0 }))

def execTmapId (e a : BitVec 4) (b : BitVec 6) (s : State) : Host.Outcome State Fault Refusal :=
  (s.mapTile (.tmapId e a b) 0 e a b).close
def execTmapTrans (e a : BitVec 4) (b : BitVec 6) (s : State) : Host.Outcome State Fault Refusal :=
  (s.mapTile (.tmapTrans e a b) 1 e a b).close
def execTmapSlice (e a : BitVec 4) (b : BitVec 6) (s : State) : Host.Outcome State Fault Refusal :=
  (s.mapTile (.tmapSlice e a b) 2 e a b).close
def execTmapStride (e a : BitVec 4) (b : BitVec 6) (s : State) : Host.Outcome State Fault Refusal :=
  (s.mapTile (.tmapStride e a b) 3 e a b).close
def execTmapBcast (e a : BitVec 4) (b : BitVec 6) (s : State) : Host.Outcome State Fault Refusal :=
  (s.mapTile (.tmapBcast e a b) 4 e a b).close
def execTmapGather (e a : BitVec 4) (b : BitVec 6) (s : State) : Host.Outcome State Fault Refusal :=
  (s.mapTile (.tmapGather e a b) 5 e a b).close

/-! Allocation and release (R239–R241, R265). -/

/-- The lowest free offset of a size in a bank, in KiB (R239). -/
def State.freeOffset (s : State) (k bank size : Nat) : Option Nat :=
  let used := (s.crewAt k).tiles.filterMap fun p => if p.2.alloc && p.2.bank == bank then some p.2.off else none
  (List.range (257 - size)).find? fun o => used.all fun u => decide (o + size ≤ u) || decide (u + size ≤ o)
/-- The lowest unallocated tile-table entry. -/
def State.freeEntry (s : State) (k : Nat) : Option Nat :=
  (List.range 1024).find? fun n => !(s.tileAt k n).alloc

def execTalloc (e k : BitVec 4) (s : State) : Host.Outcome State Fault Refusal :=
  let q := s.cur.crew
  let bf := s.bankFmt q k.toNat
  match s.freeEntry q, s.freeOffset q k.toNat (slotSize (bfFmt bf) (bfScale bf)) with
  | some n, some o =>
    let g := (s.tileAt q n).gen
    let s1 := s.updTile q n fun _ => { Tile.fresh with
      alloc := true, gen := g, owner := s.cx.record, launch := s.cx.launch, bank := k.toNat, off := o }
    (Res.ok .seq (s1.upd fun c => c.placeHandle e (mkHandle n g (crewInSquad q)))).close
  | _, _ => (Res.wait .alloc s).close

/-- Live nodes of a crew that read a slot, in whichever crew of the squad it lies, oldest first (R240). -/
def State.readersOf (s : State) (k kc slot : Nat) : List Nat :=
  s.nodesBy k fun n => n.ins.any fun i =>
    (ownerCrew k i.2.handle == kc && hSlot i.2.handle == slot) ||
      (i.2.map.kind == 5 && ownerCrew k i.2.map.index == kc && hSlot i.2.map.index == slot)

/-- `TREL` (R240): readers are forced, the slot's own undemanded work is discarded, and the slot drains. -/
def execTrel (e : BitVec 4) (s : State) : Host.Outcome State Fault Refusal :=
  let h := s.handleIn e
  let t := s.slotNamed s.cur.crew h
  let k := ownerCrew s.cur.crew h
  let mine := (s.cx.hasTask && t.owner == s.cx.record) || (t.owner == 0 && t.launch == s.cx.launch && s.cx.hasTask)
  (trapOr (firstFault [s.checkHandle e, if mine then none else some (0x103, h.setWidth 64)]) s
    ((s.forceNodes (s.readersOf s.cur.crew k (hSlot h))).bind fun _ s1 =>
      let s2 := match s1.writerOf k (hSlot h) with | some (i, _) => s1.dropNode k i | none => s1
      .ok .seq ((s2.updTile k (hSlot h) fun t => { t with st := .draining }).freeDrained k))).close

/-- `TSTAT` (R241). -/
def State.tileStatus (s : State) (h : BitVec 32) : Word :=
  let t := s.slotNamed s.cur.crew h
  let st : Nat := match t.st with | .empty => 0 | .filling => 1 | .ready => 2 | .draining => 3
  if !hValid h then 0
  else if s.stale s.cur.crew h then BitVec.ofNat 64 (h.toNat + 2 ^ 32 * st + 2 ^ 34)
  else
    BitVec.ofNat 64 (h.toNat + 2 ^ 32 * st + (if s.cx.hasTask && t.owner == s.cx.record then 2 ^ 35 else 0) +
      2 ^ 36 * t.mask.toNat + 2 ^ 52 * t.bank + 2 ^ 56 * t.off)
/-- [DEDUCED, log 44] -/
def execTstat (e : BitVec 4) (a : BitVec 6) (s : State) : Host.Outcome State Fault Refusal :=
  s.writesX a (s.tileStatus (s.handleIn e))

/-- Whether a bank format request is refused as bad-format (R265). -/
def bankFmtBad (v : Word) : Bool :=
  decide (v &&& 0xFFFFFFFFFF00F8C0#64 ≠ 0) || decide (4 < bfRm v) || !scaleAllowed (bfFmt v) (bfScale v)
def execBankfmt (b : BitVec 6) (k : BitVec 4) (s : State) : Host.Outcome State Fault Refusal :=
  let v := s.X b
  (trapOr (firstFault [
    if k = 15 && s.taskMode then some (0x107, 15) else none,
    if bankFmtBad v then some (0x108, wordOf (.bankfmt b k)) else none,
    if (s.crewAt s.cur.crew).tiles.any (fun p => p.2.alloc && p.2.bank == k.toNat) then some (0x106, k.setWidth 64) else none]) s
    (.ok .seq (s.updCrew s.cur.crew fun c => { c with bfmt := mput c.bfmt k.toNat v }))).close

/-! Recording nodes (R249). -/

/-- The victim of overflow forcing (R345, R346), or none when the node can be recorded; the flag says that a candidate exists. A node
whose creation number would lie 2^31 or more behind the new one's is a victim too: the table never holds two such nodes (R328).
[DESIGN CHOICE, log 107] -/
def State.victim (s : State) (range : Bool) : Bool × Option Nat :=
  let k := s.cur.crew
  let ns := (s.crewAt k).nodes.map Prod.snd
  let own := fun (n : Node) => n.record == s.cx.record
  let far := fun (n : Node) => n.cno != (s.crewAt k).cno && decide (s.age k n.cno ≤ 2 ^ 31)
  let pick := fun (p : Node → Bool) => (true, (s.nodesBy k fun n => p n && !(n.st == .faulted && !own n)).head?)
  if 64 ≤ ns.countP own then pick own
  else if 256 ≤ ns.length then pick (if ns.any own then own else fun _ => true)
  else if range && 256 ≤ ns.countP fun n => n.range.isSome then pick fun n => n.range.isSome
  else if ns.any far then pick far
  else (false, none)

/-- The lowest FREE node entry. -/
def State.freeNode (s : State) (k : Nat) : Nat := ((List.range 256).find? fun i => (s.nodeAt? k i).isNone).getD 0

/-- Steps 4–6 of R249. -/
def State.record (s : State) (i : Instr) (e : BitVec 4) (regs : List (Nat × BitVec 4)) (xa : Word) (range : Option (Nat × Nat)) :
    Res Next :=
  match s.victim range.isSome with
  | (true, none) => .wait .tableFull s
  | (true, some v) => (s.forceNodes [v]).bind fun _ s1 => .wait .step s1
  | (false, _) =>
    let k := s.cur.crew
    let c := s.cx
    let h := s.handleIn e
    let n : Node := {
      word := (encode i).getD 0, cpc := c.pc, cno := (s.crewAt k).cno, ctx := s.cur, record := c.record, serial := c.serial
      launch := c.launch, out := h, outReg := e.toNat
      ins := regs.foldl (fun m p => mput m p.1 { handle := s.handleIn p.2, reg := p.2.toNat, map := c.mapOf p.2 }) []
      xa := xa, tsh := c.tsh, k4 := c.fp.k4hi ++ c.fp.k4lo, fpctl := c.fp.fpctl, mprog := c.mprog
      mask := 0, st := .live, sub := 0, step := 0, group := 0, flags := 0, cause := 0, range := range, stage := [], staged := false
      demand := none, evaluators := [], owed := none, told := false, aborted := false }
    let s1 := s.putNode k (s.freeNode k) n
    let s2 := s1.updCrew k fun c => { c with cno := (c.cno + 1) % 2 ^ 32 }
    let s3 := s2.updTile k (hSlot h) fun t => { t with st := .filling }
    .ok .seq (s3.upd fun c => c.setMap e TMap.ident)

/-- The index tiles of GATHER maps must be usable too, or evaluation would wait for a task (R347). [DEDUCED, log 108] -/
def State.indexesOf (s : State) (rs : List (BitVec 4)) : List (BitVec 32) :=
  ((rs.map s.cx.mapOf).filter fun m => m.kind == 5).map TMap.index

/-- A node-creating instruction: handle checks, the output's before the inputs' in the order of R329, the wait for inputs, its own
checks, then the record (R249). [DESIGN CHOICE, log 109] -/
def State.createNode (s : State) (i : Instr) (e : BitVec 4) (regs : List (Nat × BitVec 4)) (own : Option (Nat × Word)) (xa : Word)
    (range : Option (Nat × Nat)) : Res Next :=
  trapOr (firstFault (s.checkOutput e :: (regs.map fun p => s.checkHandle p.2) ++ regs.map fun p => s.checkIndex p.2)) s
    (match s.awaitInputs true ((regs.map fun p => s.handleIn p.2) ++ s.indexesOf (regs.map Prod.snd)) with
      | some w => .wait w s
      | none => trapOr own s (s.record i e regs xa range))

def execTload (e : BitVec 4) (a : BitVec 6) (s : State) : Host.Outcome State Fault Refusal :=
  let base := tileBase (s.X a) s.cx.tsh
  (s.createNode (.tload e a) e [] (s.checkWindow base true false) (s.X a) (some (windowOf s.cx.tsh base).range)).close

/-- The bank format of a register's slot. -/
def State.bankOf (s : State) (r : BitVec 4) : Word :=
  s.bankFmt (ownerCrew s.cur.crew (s.handleIn r)) (s.slotNamed s.cur.crew (s.handleIn r)).bank

/-- The scaled-operand rule (R248). For a matrix instruction it binds A and B and not the accumulator input. [DEDUCED, log 122] -/
def State.operandRule (s : State) (i : Instr) (rs : List (BitVec 4)) : Option (Nat × Word) :=
  if rs.any fun r => bfScale (s.bankOf r) != 0 && !(s.cx.mapOf r).rowPreserving then some (0x108, wordOf i) else none

/-- The inputs of a matrix instruction (R329). -/
def State.matrixRegs (s : State) (a b : BitVec 4) (c : BitVec 1) : List (Nat × BitVec 4) :=
  [(0, a), (1, b)] ++ (if c = 1 then [(2, (s.cx.getTsh 3).extractLsb' 0 4)] else [])

def execTmm (e a b : BitVec 4) (c : BitVec 1) (s : State) : Host.Outcome State Fault Refusal :=
  let i : Instr := .tmm e a b c
  (s.createNode i e (s.matrixRegs a b c) (firstFault [if c = 1 then s.checkShapes [3] else none, s.operandRule i [a, b]]) 0 none).close
def execTmmx (e a b : BitVec 4) (c : BitVec 1) (s : State) : Host.Outcome State Fault Refusal :=
  let i : Instr := .tmmx e a b c
  let v := s.cx.getTsh 3
  let init := (v.extractLsb' 8 4).toNat
  (s.createNode i e (s.matrixRegs a b c) (firstFault [s.checkShapes [3],
    if c = 0 ∧ (init < 5 ∨ 8 < init) then some (0x10B, v) else none, s.operandRule i [a, b]]) 0 none).close
/-- `TMPROG` (R258). -/
def execTmprog (a : BitVec 6) (s : State) : Host.Outcome State Fault Refusal :=
  (if programOk (s.X a) then Res.ok .seq (s.upd fun c => { c with mprog := s.X a }) else .trap 0x10B (s.X a) s).close
/-- `TEW` (R262): the operations 0–4 take two inputs. -/
def execTew (e a b : BitVec 4) (o : BitVec 5) (s : State) : Host.Outcome State Fault Refusal :=
  (s.createNode (.tew e a b o) e ((0, a) :: (if o.toNat < 5 then [(1, b)] else [])) none 0 none).close
def execTred (e a : BitVec 4) (x : BitVec 1) (o : BitVec 2) (s : State) : Host.Outcome State Fault Refusal :=
  (s.createNode (.tred e a x o) e [(0, a)] none 0 none).close
def execTcvt (e a : BitVec 4) (s : State) : Host.Outcome State Fault Refusal :=
  (s.createNode (.tcvt e a) e [(0, a)] none 0 none).close
def execTtrans (e a : BitVec 4) (s : State) : Host.Outcome State Fault Refusal :=
  (s.createNode (.ttrans e a) e [(0, a)] none 0 none).close
def execTgath (e a b : BitVec 4) (s : State) : Host.Outcome State Fault Refusal :=
  (s.createNode (.tgath e a b) e [(0, a), (1, b)]
    (if s.indexBank (s.handleIn b) then none else some (0x108, wordOf (.tgath e a b))) 0 none).close
def execTqnt (e a : BitVec 4) (c : BitVec 2) (s : State) : Host.Outcome State Fault Refusal :=
  (s.createNode (.tqnt e a c) e [(0, a)]
    (if bfScale (s.bankOf e) = c.toNat then none else some (0x108, wordOf (.tqnt e a c))) 0 none).close

/-! Demands (R254, R255). -/

/-- `TFORCE` (R255). -/
def execTforce (e : BitVec 4) (a b : BitVec 6) (s : State) : Host.Outcome State Fault Refusal :=
  let va := s.X a
  let vb := s.X b
  let r0 := (va.extractLsb' 0 6).toNat
  let c0 := (va.extractLsb' 8 6).toNat
  let nr := (vb.extractLsb' 0 7).toNat
  let nc := (vb.extractLsb' 8 7).toNat
  let h := s.handleIn e
  (trapOr (firstFault [s.checkHandle e, s.checkIndex e,
    if va &&& ~~~(0x3F3F#64) ≠ 0 || vb &&& ~~~(0x7F7F#64) ≠ 0 || nr == 0 || nc == 0 || decide (64 < r0 + nr) || decide (64 < c0 + nc)
      then some (0x10A, 0x100) else none]) s
    (if (s.slotNamed s.cur.crew h).st = .ready then .ok .seq (s.finishDemand false)
      else
        match s.awaitInputs true [h] with
        | some w => .wait w s
        | none =>
          (s.runDemand (s.demandWalk s.cur.crew h (s.cx.mapOf e) (List.range' r0 nr) (List.range' c0 nc))).bind
            fun _ s1 => .ok .seq s1)).close

/-! Writing a tile to memory (R254 step 3, R268). -/

/-- A window's format fields as a bank format word. -/
def Window.bankWord (w : Window) : Word :=
  BitVec.ofNat 64 (w.fmt + 16 * w.scale + 256 * w.rm + 65536 * w.seed)

/-- The codes and scales a tile has in a window's format (R251, R254), held as a tile, with the flags raised. -/
def View.intoWindow (v : View) (w : Window) (k4 : BitVec 128) : Tile × Flags :=
  let rows := List.range w.rows
  let cols := List.range w.cols
  let cells := rows.flatMap fun r => cols.map fun c => (r, c)
  let bf := w.bankWord
  if copiesCodes (bfFmt v.bf) (bfScale v.bf) (v.map.rowPreserving && v.rowsInside) bf then
    (cells.foldl (fun t e =>
      match v.pos e.1 e.2 with
      | none => t.setCode e.1 e.2 (if w.fmt = 10 then (roundTo 10 k4 .zero .rne).1 else 0)
      | some p =>
        let t1 := t.setCode e.1 e.2 (cleanCode w.fmt (v.tile.code p.1 p.2))
        match w.scale with
        | 1 => { t1 with scales := mput t1.scales (2 * e.1 + e.2 / 32) (mget 0 v.tile.scales (2 * p.1 + p.2 / 32)) }
        | 2 => { t1 with scales := mput t1.scales e.1 (mget 0 v.tile.scales p.1), super := v.tile.super }
        | _ => t1) Tile.fresh, 0)
  else
    let df := cells.foldl (fun f e => f ||| (v.value k4 e.1 e.2).2) (0 : Flags)
    if w.scale = 0 then
      let r := cells.foldl (fun (acc : Tile × Flags) e =>
        let y := bankCode bf k4 (v.value k4 e.1 e.2).1 e.1 e.2
        (acc.1.setCode e.1 e.2 y.1, acc.2 ||| y.2)) (Tile.fresh, 0)
      (r.1, df ||| r.2)
    else
      let lo := cols.filter (· < 32)
      let hi := cols.filter (32 ≤ ·)
      let r := if w.scale = 2 then scaledCodes Tile.fresh bf k4 (fun r c => (v.value k4 r c).1) rows cols
        else
          let a := scaledCodes Tile.fresh bf k4 (fun r c => (v.value k4 r c).1) rows lo
          if hi = [] then a
          else let b := scaledCodes a.1 bf k4 (fun r c => (v.value k4 r c).1) rows hi; (b.1, a.2 ||| b.2)
      (r.1, df ||| r.2)

/-- Adds bits at a bit address to the lines being written; a value may cross lines. -/
def addBits (m : Map (Nat × Nat)) (bit n v : Nat) : Map (Nat × Nat) :=
  let l := bit / 1024
  let lo := bit % 1024
  let whole := v <<< lo
  let mask := (2 ^ n - 1) <<< lo
  let put := fun (m : Map (Nat × Nat)) (l d k : Nat) =>
    if k = 0 then m else let o := mget (0, 0) m l; mput m l (o.1 ||| d, o.2 ||| k)
  put (put m l (whole % 2 ^ 1024) (mask % 2 ^ 1024)) (l + 1) (whole >>> 1024) (mask >>> 1024)

/-- The destination lines of a window, ascending. [DEDUCED, log 46] -/
def Window.pieces (w : Window) (t : Tile) : List Piece :=
  let rows := List.range w.rows
  let cols := List.range w.cols
  let m1 := rows.foldl (fun m r => cols.foldl (fun m c => addBits m (w.bitAt r c) (memBits w.fmt) (t.code r c)) m) ([] : Map (Nat × Nat))
  let m2 := match w.scale with
    | 1 => rows.foldl (fun m r => (List.range ((w.cols + 31) / 32)).foldl (fun m b =>
        addBits m (8 * w.scaleAt r (32 * b)) 8 (mget 0 t.scales (2 * r + b))) m) m1
    | 2 => rows.foldl (fun m r => addBits m (8 * w.scaleAt r 0) 8 (mget 0 t.scales r)) (addBits m1 (8 * w.sbase) 32 t.super.toNat)
    | _ => m1
  m2.map fun p => { va := 128 * p.1, pa := 0, data := p.2.1, mask := p.2.2, ex := false, hb := false, bank := none }

/-- The bytes a window's rows and scales take. -/
def Window.byteRanges (w : Window) : List (Nat × Nat) :=
  (List.range w.rows).flatMap fun r =>
    (w.base + r * w.pitch, w.base + r * w.pitch + w.rowBytes) ::
      (match w.scale with
        | 1 => [(w.sbase + r * w.spitch, w.sbase + r * w.spitch + (w.cols + 31) / 32)]
        | 2 => [(w.sbase, w.sbase + 4), (w.scaleAt r 0, w.scaleAt r 0 + 1)]
        | _ => [])

/-- The bytes of a piece. -/
def Piece.bytes (p : Piece) : Nat := (List.range 128).countP fun i => p.mask / 256 ^ i % 256 != 0

/-- Whether a lattice page refuses an engine write (R53): a growing line mismatches, a frozen one is write-to-frozen. -/
def State.engineWriteLeaf (s : State) (k va : Nat) (sys : Bool) : Except Nat (Leaf × State) :=
  match s.engineLeaf k va true sys with
  | .error r => .error r
  | .ok (l, s1) =>
    if l.kind = 2 then
      (match s1.bytesAt (l.addr (BitVec.ofNat 64 va)) with
        | some p => if (s1.metaOf (lineOf p)).frozen then .error 6 else .error 4
        | none => .error 4)
    else .ok (l, s1)

/-- A piece with its line's place by a leaf. -/
def Piece.placed (p : Piece) (l : Leaf) : Piece :=
  let va := BitVec.ofNat 64 p.va
  { p with pa := l.addr va, ex := l.ex && l.kind == 0, hb := l.hb, sysPage := l.kind == 1, bank := if l.sbank then some (l.bankOff va) else none }
/-- Translates an instruction's destination lines: with their physical addresses, or the cause and `TVAL` of the first failure. A
task-mode access to a system page is privileged-operation (R34). -/
def State.translatePieces (s : State) (i : Instr) (k : Nat) (sys : Bool) : List Piece → Except (Nat × Word) (List Piece × State)
  | [] => .ok ([], s)
  | p :: r =>
    match s.engineWriteLeaf k p.va sys with
    | .error e => .error (if e = reasonPrivileged then (0x06, wordOf i) else (memCause akEngine e, BitVec.ofNat 64 p.va))
    | .ok (l, s1) =>
      match s1.translatePieces i k sys r with
      | .error e => .error e
      | .ok (ps, s2) => .ok (p.placed l :: ps, s2)

/-- The view elements of a region whose reading meets poison, in order, with the `TVAL` of each. -/
def View.poisonIn (v : View) (rows cols : List Nat) : List ((Nat × Nat) × Word) :=
  if v.tile.bad = [] ∧ v.index.bad = [] then []
  else (rows.flatMap fun r => cols.map fun c => (r, c)).filterMap fun e => (v.poisoned e.1 e.2).map fun p => (e, poisonTval p)
/-- The poisoned slot element a window's write reads first: `TVAL`. -/
def View.windowPoison (v : View) (rows cols : List Nat) : Option Word := (v.poisonIn rows cols).head?.map Prod.snd

/-- `TSTORE` (R254): a demand, the translation of every line, the forcing; then the write-out runs in the background. -/
def execTstore (e : BitVec 4) (a : BitVec 6) (s : State) : Host.Outcome State Fault Refusal :=
  let h := s.handleIn e
  let k := s.cur.crew
  let m := s.cx.mapOf e
  let base := tileBase (s.X a) s.cx.tsh
  let w := windowOf s.cx.tsh base
  let sys := !s.taskMode
  (trapOr (firstFault [s.checkHandle e, s.checkIndex e, s.checkWindow base true true]) s
    (match s.awaitInputs true [h] with
      | some q => .wait q s
      | none =>
        (s.runDemand (s.demandWalk k h m (List.range w.rows) (List.range w.cols))).bind fun _ s1 =>
          let v := s1.view k h m
          match v.windowPoison (List.range w.rows) (List.range w.cols) with
          | some t => s1.readFault .engineRead 7 t
          | none =>
            let r := v.intoWindow w (s.cx.fp.k4hi ++ s.cx.fp.k4lo)
            match s1.translatePieces (.tstore e a) k sys (w.pieces r.1) with
            | .error (c, t) => .trap c t s1
            | .ok (ps, s2) =>
              (s2.forceRanges w.byteRanges).bind fun _ s3 =>
                let wo : WriteOut := { ctx := s.cur, record := s.cx.record, pc := s.cx.pc, pieces := ps, flags := r.2 }
                .ok .seq (((s3.updCrew k fun c => { c with writeOuts := c.writeOuts ++ [wo] }).upd fun c =>
                  { c with cnt := { c.cnt with demands := c.cnt.demands + 1 } }).push (.writeOutLine k)))).close

end Sys2Proof.Machine
end

