-- ==== Sys2Proof/Machine/Task.lean ====
section
/-!
DEFINITION. The task instructions (R217–R221, R276–R285), parks (R42–R44), and the events of records, queues and stealing (R40,
R41, R48, R316–R322, R361).
-/
namespace Sys2Proof.Machine

/-! Records. -/

def State.recordFlags (s : State) (r : Word) : Nat := s.recRead r 0x2E 2
/-- Sets flags of a record. -/
def State.setFlags (s : State) (r : Word) (clear set : Nat) : State :=
  s.recWrite r 0x2E 2 ((s.recordFlags r &&& (0xFFFF - clear)) ||| set)
/-- Copies a record's 192 bytes, 64 at a time. -/
def State.copyRecord (s : State) (src dst : Word) : State :=
  [0, 64, 128].foldl (fun t o => t.recWrite dst o 64 (s.recRead src o 64)) s
/-- What is kept of a record that is on no context. -/
def State.homeOfRecord (s : State) (r : Word) : Home := mget { crew := 0, yielded := false, waits := false, serial := 0 } s.homes r.toNat
def State.setHome (s : State) (r : Word) (h : Home) : State := { s with homes := mput s.homes r.toNat h }
/-- The serial of a record's task, once it has started. [DEDUCED, log 56] -/
def State.serialOf (s : State) (r : Word) : BitVec 32 :=
  match s.runner r with | some i => (s.ctxAt i).serial | none => (s.homeOfRecord r).serial

/-- Whether the records of a launch may be placed: it runs, and its job is not swapped out (R324, R399). -/
def State.runs (s : State) (launch : Nat) : Bool :=
  match s.slotOf launch with
  | some i =>
    let x := s.slotAt i
    let job := x.field 0x18 4
    x.state == 2 && !s.pkg.recovery.out.contains job && !(s.pkg.recovery.busy && s.pkg.recovery.active == job)
  | none => false

/-- The crew that a message about a record reaches: the one that runs it, or holds it. -/
def State.crewOfRecord (s : State) (r : Word) : Option Nat :=
  match s.runner r with | some i => some i.crew | none => (mget? s.homes r.toNat).map Home.crew
/-- Whether a message about a record meets a crew that is swapped out (R400): that crew. -/
def State.swappedFor (s : State) (r : Word) : Option Nat := (s.crewOfRecord r).filter fun k => (s.crewAt k).away
/-- A decrement of JOIN at its home (R40, R282, R283): at 0 it is reported; the decrement that reaches 0 makes a record that has
not started, or that a `YIELD` parked, ready. [DEDUCED, log 38] -/
def State.decrement (s : State) (r : Word) (epc : Word) (src : Nat) : State :=
  let j := s.recRead r 0x20 4
  let launch := s.recordLaunch r
  if j = 0 then s.post (taskReport 0x13 r.toNat 0 launch 0 epc.toNat 0)
  else
    let s1 := { { s with actor := launch }.recWrite r 0x20 4 (j - 1) with actor := s.actor }
    let f := s1.recordFlags r
    let h := s1.homeOfRecord r
    if j == 1 && f / 32 % 2 == 0 && (f / 4 % 2 == 0 || h.yielded) then
      ((s1.setHome r { h with yielded := false }).enqueue r h.crew src)
    else s1
def execJoinCountDecrement (record epc : Word) (src : Nat) (s : State) : Out :=
  .next (match s.swappedFor record with
    | some k => s.push (.messageSpill k (.decrement record epc src))
    | none => s.decrement record epc src)

/-! Parks (R42–R44). -/

/-- Whether a park pins: a valid handle, an owned slot, a live node or an open copy queue (R44). -/
def State.holdsTiles (s : State) (i : CtxId) : Bool :=
  let c := s.ctxAt i
  let k := s.crewAt i.crew
  c.t.toList.any hValid || k.tiles.any (fun p => p.2.alloc && p.2.owner == c.record) ||
    k.nodes.any (fun p => p.2.record == c.record) || c.queues.toList.any fun q => q.entries != []
/-- The lowest free entry of the pinned-continuation store. -/
def Crew.freePinEntry (k : Crew) : Option Nat := (List.range 64).find? fun e => !k.pins.contains e

/-- Where a pinned continuation's copies and nodes are addressed: entry e as context 64 + e. -/
def pinId (k e : Nat) : CtxId := { crew := k, n := 64 + e }

/-- The handles and shapes of a context as the 128 bytes of a pinned-continuation entry (R44, R358). -/
def Ctx.pinBytes (c : Ctx) : Nat :=
  c.t.toList.foldr (fun h a => h.toNat + 2 ^ 32 * a) 0 + 2 ^ 512 * c.tsh.toList.foldr (fun h a => h.toNat + 2 ^ 64 * a) 0

/-- The queues of a context; the number 64 + e names pinned-continuation entry e. -/
def State.queuesOf (s : State) (i : CtxId) : Vector CopyQueue 4 :=
  if i.n < 64 then (s.ctxAt i).queues else mget (Vector.replicate 4 CopyQueue.fresh) (s.crewAt i.crew).parked (i.n - 64)
def State.queueAt (s : State) (i : CtxId) (q : Nat) : CopyQueue := (s.queuesOf i).toList.getD q CopyQueue.fresh
/-- The event of a queue's head entry: its next beat, or the follow-on of a `CPYMM` whose bytes have landed (R269). -/
def State.runQueue (s : State) (i : CtxId) (q : Nat) : State :=
  match (s.queueAt i q).entries with
  | [] => s
  | e :: _ => s.push (if e.mm && e.fence.isNone && decide (e.total ≤ e.done) then .cpymmFollowOn i q else .copyBeat i q)

/-- Saves tile state to an entry of the store (R44): the copies go on for the parked task. -/
def State.pinTo (s : State) (i : CtxId) (e : Nat) : State :=
  let c := s.ctxAt i
  let s1 := s.updCrew i.crew fun k => { k with
    pins := k.pins ++ [e], parked := mput k.parked e c.queues
    sysbank := k.sysbank.writeN (0x1000 + 128 * e) 128 c.pinBytes
    nodes := k.nodes.map fun p => (p.1, if p.2.record = c.record then { p.2 with ctx := pinId i.crew e } else p.2) }
  (List.range 4).foldl (fun s q => s.runQueue (pinId i.crew e) q) s1

/-- Writes the continuation to the record (R42). -/
def State.writeContinuation (s : State) (i : CtxId) (code : Word) (live : BitVec 16) (wake : Nat) (pin : Option Nat) (hostWait : Bool) :
    State :=
  let c := s.ctxAt i
  let r := c.record
  let l := (s.crewAt i.crew).logical.getD 0
  let ps := match pin with | some e => e + 64 * (l % 32) + 2048 * (l / 32 % 32) | none => 0
  let s1 := ((s.recWrite r 0 8 code.toNat).recWrite r 8 8 (c.getX 2).toNat).recWrite r 0x36 2 live.toNat
  let s2 := (List.range 16).foldl (fun s j =>
    if live.getLsbD j then s.recWrite r (0x40 + 8 * j) 8 (c.getX (if j = 15 then 1 else BitVec.ofNat 6 (4 + j))).toNat else s) s1
  let s3 := ((s2.recWrite r 0x3B 1 (c.p.toNat ||| 1)).recWrite r 0x3C 2 wake).recWrite r 0x3E 2 ps
  s3.setFlags r 0x12 ((if pin.isSome then 2 else 0) + (if hostWait then 16 else 0))

/-- How a park attempt stands before its effect. -/
inductive ParkStep where
  /-- The task is retired as cancelled instead (R48). -/
  | cancelled
  | wait (w : Wait)
  | trap (cause : Nat) (tval : Word)
  /-- It parks, with a pinned-continuation entry if it holds tile state. -/
  | go (pin : Option Nat)

/-- Whether a task has `TSTORE` write-outs whose lines are not all counted at their homes (R254). -/
def State.writesOut (s : State) (r : Word) : Bool :=
  s.crews.any (fun p => p.2.writeOuts.any fun w => w.record == r) || s.owed.any fun o => o.record == some r && o.maker == .writeOut
/-- What a park meets, in order. Its task resumes after all it did, write-outs too (R298). [DEDUCED, log 30] -/
def State.parkStep (s : State) : ParkStep :=
  let c := s.cx
  let k := s.crewAt s.cur.crew
  if c.cancelled then .cancelled
  else if !c.drained || s.writesOut c.record then .wait .stores
  else if splitsOn k.splitctl && splitsFull? k.splitctl then .trap 0x150 2
  else if splitsGrants k.splitctl && splitsShort k.splitctl 2 then .trap 0x150 6
  else if s.holdsTiles s.cur then
    match k.freePinEntry with | some e => .go (some e) | none => .wait .pinFull
  else .go none

/-- Parks the task of the issuing context (R42, R44, R231): the record holds the continuation and the context is FREE. -/
def State.park (s : State) (code : Word) (live : BitVec 16) (wake : Nat) (pin : Option Nat) (yields hostWait : Bool) : State :=
  let i := s.cur
  let c := s.cx
  let s1 := s.splitsCox i.crew 2 (whoOf i.n) yields.toNat (recordData c.record)
  let s2 := if splitsGrants (s.crewAt i.crew).splitctl then s1.splitsCox i.crew 6 (whoOf i.n) 0 0 else s1
  let s3 := s2.writeContinuation i code live wake pin hostWait
  let s4 := match pin with | some e => s3.pinTo i e | none => s3
  let s5 := (s4.reportFailures i).setHome c.record { crew := i.crew, yielded := yields, waits := !yields, serial := c.serial }
  s5.freeContext i

/-! `TREAD` and `TWAIT` (R217–R221). -/

/-- What a threshold read knows of its line. -/
structure Thresh where
  line : Nat
  leaf : Leaf
  code : Option Nat

/-- The checks of a threshold read and its first answer (R198, R218, R219). -/
def State.threshold (s : State) (i : Instr) (b : BitVec 6) (va : Word) (n : Nat) (t : LatType) (wc : Nat) : Res Thresh :=
  let trigs := (List.range n).map fun k => s.X (b + BitVec.ofNat 6 k)
  let el := elemIndex t wc va
  match triggerFault t wc el trigs with
  | some v => .trap 0x0C5 (BitVec.ofNat 64 v) s
  | none =>
    if va.toNat % (if t = .fill1 then 128 else 2 ^ wc) ≠ 0 then .trap (memCause akLoad 5) va s
    else
      match s.translate i .thresh va with
      | .error e => .trap e.1 e.2 s
      | .ok (leaf, s1) =>
        match s1.latticeAt leaf va with
        | .error f => .trap (memCause akLoad (if f = .lost then 10 else 8)) va s1
        | .ok l =>
          match (if s1.isRemote leaf va then s1.readVia s.cur.crew leaf va 1 else .ok (0, s1)) with
          | .error r => s1.readStops .thresh leaf r va
          | .ok (_, s1) =>
            ((match s1.typeFault l t wc with
            | some c => .trap c va s1
            | none =>
              if s1.lineTaken l then .hold (some (.line l)) (s1.awaitTurn l)
              else if (s1.metaOf l).poison then s1.readFault .thresh 7 va
              else
                let s2 := if leaf.hb || s1.isRemote leaf va then s1 else s1.touch s.cur.crew leaf va l
                .ok { line := l, leaf := leaf, code := answer t wc el trigs (s2.latLine l) (s2.metaOf l).frozen } (s2.readDone leaf va)) : Res Thresh).turnsOver [l]

/-- The watch of a threshold read. -/
def State.watchOf (s : State) (th : Thresh) (b : BitVec 6) (va : Word) (n : Nat) (t : LatType) (wc : Nat) (w : Waiter) : Watch where
  line := th.line
  elem := elemIndex t wc va
  ltype := t
  width := wc
  trigs := (List.range n).map fun k => s.X (b + BitVec.ofNat 6 k)
  waiter := w
  hostWait := th.leaf.hb

/-- An answer passes to x(d) and the instruction goes on; a threshold passed is progress (R324). -/
def State.answered (s : State) (d : BitVec 6) (c : Nat) : Res Next :=
  .ok .seq (((s.upd fun x => { x with answer := none }).progress s.cx.launchId).setX d (BitVec.ofNat 64 c))

/-- A threshold read: it waits for an answer, or parks (R220, R221, R391). -/
def State.thresholdRead (s : State) (i : Instr) (d a b : BitVec 6) (n wc : Nat) (t : LatType) (parks : Bool) : Res Next :=
  match s.cx.answer with
  | some c => s.answered d c
  | none =>
    let va := s.X a
    if parks && (s.cx.l0.active || s.cx.l1.active) then .trap 0x140 (wordOf i) s
    else (s.threshold i b va n t wc).bind fun th s1 =>
      match th.code with
      | some c => s1.answered d c
      | none =>
        if !parks then .wait .answer (s1.registerWatch (s1.watchOf th b va n t wc (.context s.cur)))
        else
          let s2 := s1.upd Ctx.drainVec
          match s2.parkStep with
          | .cancelled => .ok .placed (s2.cancelTask s2.cur)
          | .wait w => .wait w s2
          | .trap c v => .trap c v s2
          | .go pin =>
            let r := s2.cx.record
            let w := s2.watchOf th b va n t wc (.parked r s2.cur.crew)
            .ok .placed ((s2.park (s2.pc + 4) ((s2.X d).setWidth 16) d.toNat pin false th.leaf.hb).registerWatch w)

def execTread (d a b : BitVec 6) (c w : BitVec 2) (t : BitVec 3) (s : State) : Out :=
  (s.thresholdRead (.tread d a b c w t) d a b (c.toNat + 1) w.toNat (latOfCode t.toNat) false).close
def execTwait (d a b : BitVec 6) (c w : BitVec 2) (t : BitVec 3) (s : State) : Out :=
  (s.thresholdRead (.twait d a b c w t) d a b (c.toNat + 1) w.toNat (latOfCode t.toNat) s.taskMode).close

/-- `YIELD` (R282, R390): the task parks, and its record is enqueued when its JOIN is 0. -/
def execYield (a : BitVec 6) (s0 : State) : Out :=
  let s := s0.upd Ctx.drainVec
  (if !s.cx.hasTask then Res.ok .seq s
   else if s.cx.l0.active || s.cx.l1.active then .trap 0x140 (wordOf (.yield a)) s
   else
    match s.parkStep with
    | .cancelled => .ok .placed (s.cancelTask s.cur)
    | .wait w => .wait w s
    | .trap c v => .trap c v s
    | .go pin =>
      let r := s.cx.record
      let code := if s.taskMode then s.pc + 4 else s.cx.trap.tepc
      let s1 := s.park code ((s.X a).setWidth 16) 0 pin true false
      .ok .placed (if s1.recRead r 0x20 4 = 0
        then (s1.setHome r { s1.homeOfRecord r with yielded := false }).enqueue r s.cur.crew s.cur.n else s1)).close

/-- A park that waits for an entry is issued again when one is free (R44): a `TWAIT` takes its answer again before it parks. -/
def execParkAfterStoreEntry (c : CtxId) (s : State) : Out :=
  .next (if (s.ctxAt c).wait = some .pinFull ∧ (s.crewAt c.crew).freePinEntry.isSome then
    s.updCtx c fun x => { x with wait := none, st := if x.depth = 0 then .active else .handler } else s)

/-! `DONE` (R45, R280, R390). -/

/-- The queues of a context that cannot go on: halted ones, and those whose head is a fence that joins one of them (R271, R390). The
number bounds the chain of fences. -/
def Ctx.stuckQueues (c : Ctx) : Nat → List Nat
  | 0 => (List.range 4).filter fun q => (c.queues.toList.getD q CopyQueue.fresh).halted
  | n + 1 =>
    let old := c.stuckQueues n
    (List.range 4).filter fun q => old.contains q ||
      (match (c.queues.toList.getD q CopyQueue.fresh).entries with
        | e :: _ => (match e.fence with | some f => old.any fun p => p != q && f.1.getLsbD p | none => false)
        | [] => false)

/-- Whether a crew's round of a slot is open: under way, or its result not yet counted at its home, each contributor's own under `.BC`
(R275). -/
def State.roundOpen (s : State) (e : Nat) (x : CollSlot) : Bool :=
  x.busy || s.owed.any fun o => o.maker == .result e &&
    (match o.record with | some r => s.recordLaunch r == x.launch && (r == x.record || !x.bc) | none => false)
/-- Whether a task has a round open on a slot, on whichever crew it contributed (R275, R280). -/
def State.ownRoundOpen (s : State) (record : Word) (e : Nat) : Bool :=
  s.crews.any fun p => match mget? p.2.colls e with | some x => x.record == record && s.roundOpen e x | none => false
/-- Whether background work of the task is still awaited (R280, R390): copies of its queues, in system mode but those that cannot go on,
write-outs, collective rounds, and engine writes not yet counted. -/
def State.enginesBusy (s : State) : Bool :=
  let c := s.cx
  let stuck := if c.depth = 0 then [] else c.stuckQueues 4
  (List.range 4).any (fun q => (c.queues.toList.getD q CopyQueue.fresh).entries != [] && !stuck.contains q) ||
    s.writesOut c.record || (List.range 16).any (s.ownRoundOpen c.record)
def execDone (s0 : State) : Out :=
  let s := s0.upd Ctx.drainVec
  let k := (s.crewAt s.cur.crew).splitctl
  (if !s.cx.hasTask then Res.ok .seq s
   else if s.enginesBusy then .wait .engines s
   else if !s.cx.drained then .wait .stores s
   else if splitsOn k && splitsFull? k then .trap 0x150 3 s
   else if s.taskMode then .ok .placed (s.retireTask s.cur .done)
   else .ok .placed ((s.fatalReport s.cur s.cx.trap.tcause.toNat s.cx.trap.tval.toNat s.cx.trap.tepc).retireTask s.cur .faulted)).close

/-! `SPAWN` and `SPAWNR` (R277–R279). -/

/-- The 192 bytes of a descriptor, read as loads of the context. [DEDUCED, log 61] -/
def State.readDescriptor (s : State) (i : Instr) (va : Word) : List Nat → Res Nat
  | [] => .ok 0 s
  | o :: r =>
    let a := va + BitVec.ofNat 64 o
    match s.leafAt s.cur.crew .load a with
    | .error r => .trap (memCause akLoad r) a s
    | .ok (leaf, s1) =>
      if leaf.kind = 1 ∨ leaf.kind = 2 then .trap 0x141 va s1
      else
        match s1.readVia s.cur.crew leaf a 64 with
        | .error e => s1.readStops .load leaf e a
        | .ok (v, s2) => ((s2.readDone leaf a).readDescriptor i va r).bind fun w s3 => .ok (v * 256 ^ o + w) s3

/-- `n` bytes of a descriptor. -/
def dfield (v off n : Nat) : Nat := v / 256 ^ off % 256 ^ n

/-- Whether a descriptor breaks R277. -/
def State.badDescriptor (s : State) (v slot : Nat) (range : Bool) : Bool :=
  let ptr := fun (o : Nat) =>
    let p := dfield v o 8
    p == 0 || ((s.slotAt slot).recordIndex (BitVec.ofNat 64 p)).isSome
  let part := fun (o : Nat) => if range then decide (dfield v (0x20 + o) 2 ≤ dfield v (0x26 + o) 2) else dfield v (0x26 + o) 2 == 0
  let code := dfield v 0 8
  !(code % 4 == 0 && code / 2 ^ 55 == 0 && ptr 0x10 && ptr 0x18 && part 0 && part 2 && part 4 &&
    dfield v 0x2E 2 / 2 ^ 10 % 16 == 0 && dfield v 0x30 1 / 4 == 0 && dfield v 0x32 14 == 0)

/-- The 192 bytes of the record a descriptor gives (R37, R278). -/
def recordFrom (v join launch flags : Nat) : Nat :=
  v % 256 ^ 32 + 256 ^ 0x20 * (join % 2 ^ 32) + 256 ^ 0x24 * (launch % 2 ^ 32) + 256 ^ 0x28 * dfield v 0x20 6 + 256 ^ 0x2E * flags +
    256 ^ 0x30 * dfield v 0x26 6 + 256 ^ 0x36 * dfield v 0x2C 2 + 256 ^ 0x38 * dfield v 0x2E 2 + 256 ^ 0x3A * dfield v 0x30 1 +
    256 ^ 0x3B * (dfield v 0x31 1 ||| 1) + 256 ^ 0x40 * dfield v 0x40 128
/-- Writes a record's 192 bytes. -/
def State.putRecord (s : State) (r : Word) (v : Nat) : State :=
  [0, 64, 128].foldl (fun t o => t.recWrite r o 64 (v / 256 ^ o % 256 ^ 64)) s

/-- The crew whose queue a new record would join. -/
def State.spawnCrew (s : State) (v : Nat) : Nat :=
  let aff := dfield v 0x2E 2
  if aff / 2 ^ 14 ≠ 0 then
    match s.crewOfLogical (aff % 32) (aff / 32 % 32) with
    | some k => if s.takesPart s.cx.launchId k then k else s.cur.crew
    | none => s.cur.crew
  else s.cur.crew

/-- Creates a task record (R278, R279). -/
def State.spawn (s : State) (i : Instr) (d a b : BitVec 6) (range : Bool) : Res Next :=
  let va := s.X a
  let launch := s.cx.launchId
  if !s.cx.hasTask then .trap 0x143 0 s
  else if va.toNat % 64 ≠ 0 then .trap 0x141 va s
  else (s.readDescriptor i va [0, 64, 128]).bind fun v s1 =>
    match s1.slotOf launch with
    | none => .trap 0x142 0 s1
    | some x =>
      if s1.badDescriptor v x range then .trap 0x141 va s1
      else if 2 ^ 32 ≤ (s.X b).toNat then .trap 0x145 0 s1
      else
        match s1.takeRecord x with
        | none => .trap 0x142 0 s1
        | some (r, s2) =>
          if !s1.cx.drained then .wait .spawned s1
          else if (s.X b).toNat = 0 ∧ s1.queueFull (s1.spawnCrew v) then .wait .readyFull s1
          else
            let dead := (s1.slotAt x).cancelled
            let s3 := (s2.putRecord r (recordFrom v (s.X b).toNat launch (range.toNat + (if dead then 8 else 0)))).setHome r {
              crew := s.cur.crew, yielded := false, waits := false, serial := 0 }
            let s4 := if dead then s3.push (.cancelDelivery r)
              else if (s.X b).toNat = 0 then s3.enqueue r s.cur.crew s.cur.n else s3
            .ok .seq (s4.setX d r)

def execSpawn (d a b : BitVec 6) (s : State) : Out := (s.spawn (.spawn d a b) d a b false).close
def execSpawnr (d a b : BitVec 6) (s : State) : Out := (s.spawn (.spawnr d a b) d a b true).close

/-! `SIGNAL` and `ARM` (R283, R284). -/

/-- Whether an address names a record of the task's launch that is taken from its pool and not retired. -/
def State.liveRecord (s : State) (r : Word) : Bool :=
  match s.slotOf s.cx.launchId with
  | none => false
  | some i =>
    let x := s.slotAt i
    decide (r.toNat % 64 = 0) &&
      (match x.recordIndex r with | some j => x.taken.contains j | none => false) && s.recordFlags r / 32 % 2 == 0

def execSignal (a : BitVec 6) (s : State) : Out :=
  let r := s.X a
  (if !s.cx.hasTask then Res.trap 0x143 0 s
   else if !s.liveRecord r then .trap 0x143 r s
   else if !s.cx.settled then .wait .settled s
   else .ok .seq (s.decrement r s.cx.trap.tepc 32)).close
/-- [DEDUCED, log 60] -/
def execArm (a b : BitVec 6) (s : State) : Out :=
  let r := s.X a
  let j := s.recRead r 0x20 4
  let sum := j + (s.X b).toNat
  (if !s.cx.hasTask then Res.trap 0x143 0 s
   else if !(r == s.cx.record || s.liveRecord r) then .trap 0x143 r s
   else if 2 ^ 32 ≤ (s.X b).toNat ∨ 2 ^ 32 ≤ sum then .trap 0x145 r s
   else if r ≠ s.cx.record ∧ s.recordFlags r / 4 % 2 = 0 ∧ j = 0 then .trap 0x144 r s
   else .ok .seq (s.recWrite r 0x20 4 sum)).close

/-! Cancellation (R48, R49, R285). -/

/-- A launch is cancelled (R48, R308): its report is posted to its own queue, once for each launch that a cancel of a wider level reaches
[DESIGN CHOICE, log 115]. One that is cancelled already gets the report alone; a held launch completes at once, a running one has the
cancellation delivered to each of its records. -/
def State.cancelSlot (s : State) (i level ident : Nat) : State :=
  let x := s.slotAt i
  let s1 := s.fileReport (taskReport 0x14 0 (level + 2 ^ 32 * ident) x.launch 0 0 0)
  let s2 := s1.updSlot i fun x => { x with cancelled := true }
  if x.cancelled then s1
  else if x.state = 1 then s2.push (.launchComplete i)
  else x.taken.foldl (fun s j => s.push (.cancelDelivery (BitVec.ofNat 64 (x.pool + 192 * j)))) s2
/-- Cancels the live launches a test selects. The report of a cancel that finds none goes to the queue of the launch that asked for it, if
one did. [DESIGN CHOICE, log 115] -/
def State.cancelWhere (s : State) (level ident by_ : Nat) (p : Slot → Bool) : State :=
  match (s.slots.filter fun q => q.2.live? && p q.2).map Prod.fst with
  | [] => if by_ = noLaunch then s else s.fileReport (taskReport 0x14 0 (level + 2 ^ 32 * ident) by_ 0 0 0)
  | is => is.foldl (fun s i => s.cancelSlot i level ident) s

def State.jobAt (s : State) (j : Nat) : Job :=
  mget { phase := 0, nphase := 0, phases := [], graphs := [], gcancels := [], cancelled := false, resets := [] } s.pkg.jobs j
def State.updJob (s : State) (j : Nat) (f : Job → Job) : State :=
  { s with pkg := { s.pkg with jobs := mput s.pkg.jobs j (f (s.jobAt j)) } }
def Job.phaseAt (j : Job) (p : Nat) : Phase :=
  mget { ngraph := 0, undo := 0, undolen := 0, launches := [], cancelled := false, done := false } j.phases p
def Job.updPhase (j : Job) (p : Nat) (f : Phase → Phase) : Job := { j with phases := mput j.phases p (f (j.phaseAt p)) }

def Slot.job (x : Slot) : Nat := x.field 0x18 4
def Slot.phase (x : Slot) : Nat := x.field 0x16 2
def Slot.graph (x : Slot) : Nat := x.field 0x14 2

/-- Cancels a graph, a phase or a job: its launches, and those accepted later. -/
def State.cancelGraph (s : State) (job phase graph by_ : Nat) : State :=
  (s.updJob job fun j => { j with gcancels := (65536 * phase + graph) :: j.gcancels }).cancelWhere 1 graph by_ fun x =>
    x.job == job && x.phase == phase && x.graph == graph
def State.cancelPhase (s : State) (job phase by_ : Nat) : State :=
  (s.updJob job fun j => j.updPhase phase fun p => { p with cancelled := true }).cancelWhere 2 phase by_ fun x =>
    x.job == job && x.phase == phase
def State.cancelJob (s : State) (job by_ : Nat) : State :=
  (s.updJob job fun j => { j with cancelled := true }).cancelWhere 3 job by_ fun x => x.job == job

/-- The slot of the issuing task's launch. -/
def State.mySlot (s : State) : Slot := s.slotAt ((s.slotOf s.cx.launchId).getD 16)
/-- A `CANCEL` with an identifier of some width: reserved high bits and units out of scope trap. [DEDUCED, log 59] -/
def State.cancels (s : State) (a : BitVec 6) (w : Nat) (inScope : Bool) (f : State → State) : Res Next :=
  if !s.cx.hasTask then .trap 0x143 0 s
  else if 2 ^ w ≤ (s.X a).toNat ∨ !inScope then .trap 0x146 (s.X a) s
  else .ok .seq (f s)

def execCancelLaunch (a : BitVec 6) (s : State) : Out :=
  let id := (s.X a).toNat
  let mine := match s.slotOf id with | some i => (s.slotAt i).job == s.mySlot.job | none => true
  (s.cancels a 32 mine fun s => s.cancelWhere 0 id s.cx.launchId fun x => x.launch == id).close
def execCancelGraph (a : BitVec 6) (s : State) : Out :=
  (s.cancels a 16 true fun s => s.cancelGraph s.mySlot.job s.mySlot.phase (s.X a).toNat s.cx.launchId).close
def execCancelPhase (a : BitVec 6) (s : State) : Out :=
  (s.cancels a 16 true fun s => s.cancelPhase s.mySlot.job (s.X a).toNat s.cx.launchId).close
def execCancelJob (a : BitVec 6) (s : State) : Out :=
  (s.cancels a 32 ((s.X a).toNat == s.mySlot.job) fun s => s.cancelJob s.mySlot.job s.cx.launchId).close

/-- A cancellation reaches a record (R48, R49, R389); a context that is swapped out meets it when it comes back. -/
def execCancelDelivery (record : Word) (s : State) : Out :=
  .next (match s.runner record with
    | none => s.retireRecord record .cancelled
    | some i =>
      let s1 := s.updCtx i fun c => { c with cancelled := true }
      let c := s1.ctxAt i
      if (s.crewAt i.crew).away then s1
      else if c.st == .blocked || (c.st == .stalled && c.depth == 0 && (match c.wait with | some w => w.cancellable | none => true))
      then s1.cancelTask i else s1)

/-- A task whose write found its code shadow full (R361): reported and retired as faulted. -/
def execCodeShadowFullRetire (record va pc : Word) (s : State) : Out :=
  .next (if record = 0 ∨ s.recordFlags record / 32 % 2 = 1 ∨ (s.runner record).any (fun i => (s.ctxAt i).ending) then s
    else
      let s1 := s.post (taskReport 0x11 record.toNat va.toNat (s.recordLaunch record) (s.serialOf record).toNat pc.toNat 0)
      match s1.runner record with
      | some i => s1.endTask i true
      | none => s1.retireRecord record .faulted)

/-- Whether a record belongs to a launch that a cancel has reached (R48): it does not start. -/
def State.launchCancelled (s : State) (r : Word) : Bool :=
  match s.slotOf (s.recordLaunch r) with | some i => (s.slotAt i).cancelled | none => false

/-! Enqueuing (R39, R316). -/

/-- A FREE context that may take a record (R20, R396). -/
def State.freeCtx (s : State) (k : Nat) : Option Nat :=
  let c := s.crewAt k
  if c.cfault || c.away || c.gated then none
  else (List.range 32).find? fun n =>
    let x := c.ctxAt n
    x.st == .free && !x.pending && !x.stopped && !c.preempt.getLsbD (n / 4)

/-- The crews of a thief's round, in order (R322): its squad's, then its mesh neighbours outside the squad. -/
def victimOrder (k : Nat) : List Nat :=
  let px := crewPx k
  let py := crewPy k
  let squad := (List.range' 1 15).map fun i => squadMate k ((crewInSquad k + i) % 16)
  let near := (if px < 31 then [32 * py + px + 1] else []) ++ (if py < 31 then [32 * (py + 1) + px] else []) ++
    (if 0 < px then [32 * py + px - 1] else []) ++ (if 0 < py then [32 * (py - 1) + px] else [])
  squad ++ near.filter fun q => !squad.contains q && q != k

/-- Whether a crew may be sent a queued record (R322). -/
def State.stealable (s : State) (thief : Nat) (e : Entry) : Bool :=
  let l := s.recordLaunch e.record
  s.runs l && s.takesPart l thief && s.recRead e.record 0x38 2 / 2 ^ 15 == 0 && s.recordFlags e.record / 2 % 2 == 0
/-- The victims worth asking: crews that take part in a launch with stealable work. -/
def State.victimsOf (s : State) (k : Nat) : List Nat :=
  let ls := (s.crews.flatMap fun p => p.2.queue.entries.filter (s.stealable k)).map fun e => s.recordLaunch e.record
  (victimOrder k).filter fun v => ls.any fun l => s.takesPart l v

/-- A crew with a FREE context and nothing to run starts a round of steal requests (R322). -/
def State.seekWork (s : State) (k : Nat) : State :=
  let q := (s.crewAt k).queue
  if q.stealing then s
  else
    match s.victimsOf k with
    | [] => s
    | v :: r => (s.updQueue k fun q => { q with stealing := true, victims := v :: r }).push (.stealRequest k v)

/-- An entry arrives at a crew (R39, R309, R316): a bad record is reported, a cancelled one retired, and any other placed. -/
def execRecordEnqueue (crew : Nat) (record : Word) (prio src : Nat) (s : State) : Out :=
  let f := s.recordFlags record
  .next (if (s.crewAt crew).away then s.push (.messageSpill crew (.enqueue record prio src))
    else if f / 32 % 2 = 1 then s
    else if s.badRecord record || (s.queueFor record crew).isNone then s.refuseRecord record
    else if f / 8 % 2 = 1 || s.launchCancelled record then s.retireRecord record .cancelled
    else
      let h := s.homeOfRecord record
      let s1 := (s.setHome record { h with yielded := false, waits := false }).placeEntry crew {
        record := record, ecycle := s.cycle crew % 2 ^ 56, prio := prio, src := src }
      let s2 := s1.push (.contextTakesRecord crew)
      ((victimOrder crew).filter fun v => (s1.freeCtx v).isSome && s1.takesPart (s1.recordLaunch record) v).foldl (fun s v =>
        s.push (.contextTakesRecord v)) s2)

/-! Starting tasks (R21, R41, R318). -/

/-- The corner and end of a box of coordinates. -/
structure Box where
  x0 : Nat
  y0 : Nat
  z0 : Nat
  x1 : Nat
  y1 : Nat
  z1 : Nat
  deriving DecidableEq, Repr

def Box.count (b : Box) : Nat := (b.x1 - b.x0 + 1) * (b.y1 - b.y0 + 1) * (b.z1 - b.z0 + 1)
/-- `Halve` (R317). -/
def Box.halve (b : Box) : Box × Box :=
  let m := fun (lo hi : Nat) => lo + (hi - lo + 2) / 2 - 1
  if b.z0 < b.z1 then ({ b with z1 := m b.z0 b.z1 }, { b with z0 := m b.z0 b.z1 + 1 })
  else if b.y0 < b.y1 then ({ b with y1 := m b.y0 b.y1 }, { b with y0 := m b.y0 b.y1 + 1 })
  else ({ b with x1 := m b.x0 b.x1 }, { b with x0 := m b.x0 b.x1 + 1 })
/-- The box of a record, and a record's new box. -/
def State.boxOf (s : State) (r : Word) : Box where
  x0 := s.recRead r 0x28 2
  y0 := s.recRead r 0x2A 2
  z0 := s.recRead r 0x2C 2
  x1 := s.recRead r 0x30 2
  y1 := s.recRead r 0x32 2
  z1 := s.recRead r 0x34 2
def State.setBox (s : State) (r : Word) (b : Box) : State :=
  (s.recWrite r 0x28 6 (b.x0 + 2 ^ 16 * b.y0 + 2 ^ 32 * b.z0)).recWrite r 0x30 6 (b.x1 + 2 ^ 16 * b.y1 + 2 ^ 32 * b.z1)

/-- Puts an entry directly behind the one of a record (R318). -/
def putBehind (r : Word) (e : Entry) : List Entry → List Entry
  | [] => [e]
  | h :: t => if h.record = r then h :: e :: t else h :: putBehind r e t

/-- Splits a box off a range record at the head of the queue; none when the pool is empty. -/
def State.splitOff (s : State) (k slot : Nat) (e : Entry) (kept off : Box) : Option State :=
  match s.takeRecord slot with
  | none => none
  | some (r, s1) =>
    let s2 := (((s1.copyRecord e.record r).setBox r off).setBox e.record kept).setHome r (s.homeOfRecord e.record)
    some ((s2.updQueue k fun q => { q with entries := putBehind e.record { e with record := r } q.entries }).spillEntries k)

/-- The record the next task of a queue entry runs on (R318), with the queue as it leaves it; none while the pool is empty, with
the splits made so far. -/
def State.takeFrom (s : State) (k slot : Nat) (e : Entry) : State × Option Word :=
  let r := e.record
  if s.recordFlags r % 2 = 0 then (s.takeEntry k r, some r)
  else
    let b := s.boxOf r
    let stage1 := if b.z0 < b.z1 then s.splitOff k slot e { b with z1 := b.z0 } { b with z0 := b.z0 + 1 } else some s
    match stage1 with
    | none => (s, none)
    | some s1 =>
      let b1 := { b with z1 := b.z0 }
      match (if b.y0 < b.y1 then s1.splitOff k slot e { b1 with y1 := b.y0 } { b1 with y0 := b.y0 + 1 } else some s1) with
      | none => (s1, none)
      | some s2 =>
        let b2 := { b1 with y1 := b.y0 }
        match s2.takeRecord slot with
        | none => (s2, none)
        | some (t, s3) =>
          let s4 := ((s3.copyRecord r t).setBox t { b2 with x1 := 0, y1 := 0, z1 := 0 }).setFlags t 1 0
          let s5 := s4.setHome t (s.homeOfRecord r)
          (if b.x0 = b.x1 then (s5.takeEntry k r).returnRecord (s.recordLaunch r) r
            else s5.setBox r { b2 with x0 := b.x0 + 1 }, some t)

/-- The scalar registers a task starts with (R21, R41). -/
def State.startX (s : State) (r : Word) : Vector Word 64 :=
  let live := s.recRead r 0x36 2
  let slot := fun (j : Nat) => if live.testBit j then BitVec.ofNat 64 (s.recRead r (0x40 + 8 * j) 8) else 0#64
  let w := s.recRead r 0x3C 2
  Vector.ofFn fun i : Fin 64 =>
    if i.val = 0 then 0
    else if w.testBit 9 && w % 64 == i.val then BitVec.ofNat 64 (w / 64 % 8)
    else if i.val = 1 then slot 15
    else if i.val = 2 then BitVec.ofNat 64 (s.recRead r 8 8)
    else if i.val = 3 then r
    else if i.val ≤ 18 then slot (i.val - 4)
    else 0

/-- A context starts or resumes the task of a record (R21, R41, R44); writes to host memory that the task made before its park still count
for it (R298). -/
def State.startTask (s : State) (i : CtxId) (slot : Nat) (r : Word) : State :=
  let f := s.recordFlags r
  let resumed := f / 4 % 2 = 1
  let pinned := f / 2 % 2 = 1 ∧ resumed
  let e := s.recRead r 0x3E 2 % 64
  let bank := (s.crewAt i.crew).sysbank
  let old := s.ctxAt i
  let serial := if resumed then (s.homeOfRecord r).serial else BitVec.ofNat 32 (s.slotAt slot).serial
  let c : Ctx := { Ctx.fresh with
    st := .active, x := s.startX r, p := BitVec.ofNat 8 (s.recRead r 0x3B 1) ||| 1
    t := if pinned then Vector.ofFn (fun j : Fin 16 => BitVec.ofNat 32 (bank.readN (0x1000 + 128 * e + 4 * j.val) 4)) else Ctx.fresh.t
    tsh := if pinned then Vector.ofFn (fun j : Fin 8 => BitVec.ofNat 64 (bank.readN (0x1040 + 128 * e + 8 * j.val) 8)) else Ctx.fresh.tsh
    queues := if pinned then mget Ctx.fresh.queues (s.crewAt i.crew).parked e else Ctx.fresh.queues
    pc := BitVec.ofNat 64 (s.recRead r 0 8), record := r, serial := serial, launch := BitVec.ofNat 32 (s.recordLaunch r)
    coord := BitVec.ofNat 64 (s.recRead r 0x28 6)
    pendPre := old.pendPre, pendSplits := old.pendSplits, pendDbg := old.pendDbg }
  let copies := c.queues.toList.foldl (fun n q => n + q.entries.countP fun x => x.fence.isNone) 0
  let late := s.owed.countP fun o => o.record == some r && !o.tagged && (match o.maker with | .store _ => true | _ => false)
  let s1 := s.updCtx i fun _ => { c with cnt := { c.cnt with copies := copies, stores := late }, hostWrites := late }
  let s2 := if resumed then s1 else s1.updSlot slot fun x => { x with serial := x.serial + 1 }
  let s3 := if pinned then (s2.updCrew i.crew fun k => { k with
      nodes := k.nodes.map fun p => (p.1, if p.2.record = r then { p.2 with ctx := i } else p.2) }).freePin i.crew e else s2
  let s4 := (List.range 4).foldl (fun s q => s.runQueue i q) s3
  let s5 := (s4.recWrite r 0x3C 2 0).setFlags r 0x10 4
  let s6 := s5.splitsCox i.crew 1 (whoOf i.n) (if resumed then 1 else 0) (recordData r)
  let s7 := if splitsGrants (s.crewAt i.crew).splitctl then s6.splitsCox i.crew 6 (whoOf i.n) 0 0 else s6
  ({ s7 with homes := mdel s7.homes r.toNat }).push (.asyncFaultDelivery i)

/-- A FREE context takes the first ready entry (R20, R41, R316); with none to run, the crew seeks work. A change of the queue's mode is
recorded after the start (R326). -/
def State.takeNext (s : State) (k : Nat) : State :=
  match s.freeCtx k with
  | none => s
  | some n =>
    match (s.crewAt k).queue.entries.find? fun e => s.runs (s.recordLaunch e.record) with
    | none => s.seekWork k
    | some e =>
      let again := fun (s : State) => s.push (.contextTakesRecord k)
      match s.slotOf (s.recordLaunch e.record) with
      | none => s
      | some slot =>
        if s.recordFlags e.record / 8 % 2 = 1 || s.launchCancelled e.record then again (s.retireRecord e.record .cancelled)
        else if s.badRecord e.record then again (s.refuseRecord e.record)
        else if s.splitsLacksTask k then s.push (.splitsFull k)
        else
          let s0 := { s with actor := s.recordLaunch e.record }
          match s0.takeFrom k slot e with
          | (s1, none) => { s1.queueMode k with actor := s.actor }
          | (s1, some r) => again { (s1.startTask { crew := k, n := n } slot r).queueMode k with actor := s.actor }
def execContextTakesRecord (crew : Nat) (s : State) : Out := .next (s.takeNext crew)

/-! Stealing (R322). -/

/-- A victim's answer, delayed while its splits buffer has no room (R327): half of the first range it may send, else its last entry, else nothing. -/
def execStealRequest (thief victim : Nat) (s : State) : Out :=
  let es := if (s.crewAt victim).away then [] else (s.crewAt victim).queue.entries.filter (s.stealable thief)
  let tl := 2 ^ 50 * (s.crewAt thief).logical.getD 0
  let whole := fun (e : Entry) =>
    ((s.removeEntry victim e.record).splitsCox victim 5 0 1 (recordData e.record + tl)).push (.stealReply thief e.record e.prio)
  .next (if es != [] && s.splitsLacks victim then (s.push (.splitsFull victim)).after 16 (.stealRequest thief victim)
    else match es.find? fun e => s.recordFlags e.record % 2 == 1 && decide (2 ≤ (s.boxOf e.record).count) with
    | some e =>
      (match s.slotOf (s.recordLaunch e.record) with
        | none => s.push (.stealReply thief 0 0)
        | some i =>
          match s.takeRecord i with
          | none => whole e
          | some (r, s1) =>
            let h := (s.boxOf e.record).halve
            let s2 := { s1 with actor := s.recordLaunch e.record }
            let s3 := (((s2.copyRecord e.record r).setBox r h.2).setBox e.record h.1).setHome r (s.homeOfRecord e.record)
            ({ s3 with actor := s.actor }.splitsCox victim 5 0 0 (recordData r + tl)).push (.stealReply thief r e.prio))
    | none =>
      match es.getLast? with
      | some e => whole e
      | none => s.push (.stealReply thief 0 0))

/-- A thief enqueues what it received with SRC 33, or asks its next victim while it still seeks work; a failed round is repeated after 64 c. [DESIGN CHOICE, log 65] -/
def execStealReply (thief : Nat) (record : Word) (prio : Nat) (s : State) : Out :=
  let vs := (s.crewAt thief).queue.victims
  .next (if record ≠ 0 && s.splitsLacks thief then (s.push (.splitsFull thief)).after 16 (.stealReply thief record prio)
    else if record ≠ 0 then
      let vl := match vs with | v :: _ => 2 ^ 50 * (s.crewAt v).logical.getD 0 | [] => 0
      (((s.updQueue thief fun q => { q with stealing := false, victims := [] }).splitsCox thief 4 0 0 (recordData record + vl)).setHome
        record { s.homeOfRecord record with crew := thief }).push (.recordEnqueue thief record prio 33)
    else if (s.freeCtx thief).isNone || (s.crewAt thief).queue.entries.any (fun e => s.runs (s.recordLaunch e.record)) then
      s.updQueue thief fun q => { q with stealing := false, victims := [] }
    else
      match vs.drop 1 with
      | v :: r => (s.updQueue thief fun q => { q with victims := v :: r }).push (.stealRequest thief v)
      | [] => (s.updQueue thief fun q => { q with victims := [] }).after 64 (.stealRoundTimer thief))

/-- The wait after a failed round ends (R322). -/
def execStealRoundTimer (thief : Nat) (s : State) : Out :=
  .next ((s.updQueue thief fun q => { q with stealing := false }).push (.contextTakesRecord thief))

end Sys2Proof.Machine
end

