-- ==== Sys2Proof/Machine/Copy.lean ====
section
/-!
DEFINITION. The copy engine (R266–R272, R344), `TSTORE` write-outs (R254), shape records (R245, R313) and collectives
(R273–R275, R438, R439).
-/
namespace Sys2Proof.Machine

/-! Copy queues: a context's, or a pinned continuation's (R44). -/

def State.setQueues (s : State) (i : CtxId) (v : Vector CopyQueue 4) : State :=
  if i.n < 64 then s.updCtx i fun c => { c with queues := v }
  else s.updCrew i.crew fun k => { k with parked := mput k.parked (i.n - 64) v }
def State.updCopyQueue (s : State) (i : CtxId) (q : Nat) (f : CopyQueue → CopyQueue) : State :=
  if h : q < 4 then s.setQueues i ((s.queuesOf i).set q (f (s.queueAt i q)) h) else s

/-- The record that a copy queue's owner runs or has parked. -/
def State.ownerRecord (s : State) (i : CtxId) : Word :=
  if i.n < 64 then (s.ctxAt i).record
  else
    let l := (s.crewAt i.crew).logical.getD 0
    let ps := (i.n - 64) + 64 * (l % 32) + 2048 * (l / 32 % 32)
    match s.homes.find? fun p => let r := BitVec.ofNat 64 p.1; s.recordFlags r / 2 % 2 == 1 && s.recRead r 0x3E 2 == ps with
    | some p => BitVec.ofNat 64 p.1
    | none => 0
/-- The launch on whose behalf a queue's copies act. -/
def State.ownerLaunch (s : State) (i : CtxId) : Nat :=
  if i.n < 64 then (s.ctxAt i).launchId else s.recordLaunch (s.ownerRecord i)

/-- A failure of engine work after acceptance (R230, R254, R268). -/
def State.engineFails (s : State) (i : CtxId) (f : Option Fail) : State :=
  let r := s.ownerRecord i
  s.unitFails (s.worker r i) r (s.workLaunch r) (failsOf f)

/-- An engine's write of bytes of one line, uncached at its home (R376), by its physical address, with the code shadow's copy first
(R361). The control space is reached through system pages and host memory is not (R414, R420); the guarded lines of the slot page take
no write (R302). -/
def State.engineWrite (s : State) (x : Piece) (id : Nat) : State × Written :=
  let d := BitVec.ofNat 1024 x.data
  let m := BitVec.ofNat 1024 x.mask
  match s.place (x.pa / 128 * 128) with
  | .nowhere => (s, .done (some .refused))
  | .control off => if x.sysPage then (s.ctlStore off 128 x.data x.mask, .done none) else (s, .done (some .refused))
  | .host p =>
    if x.sysPage then (s, .done (some .refused))
    else
      match s.shadowCopy x.ex (lineOf p) with
      | none => (s, .shadowFull)
      | some s1 => ((s1.homeUncachedWrite (lineOf p) d m).1, .host)
  | .remote pk p =>
    if !s.routeUp pk then (s, .done (some .lost))
    else
      match s.shadowCopy x.ex (lineOf p) with
      | none => (s, .shadowFull)
      | some s1 => (s1.fly pk (lineOf p) x.va (.write d m) (some id), .sent)
  | .device p =>
    if s.slotGuarded (lineOf p) then (s, .done none)
    else
      match s.shadowCopy x.ex (lineOf p) with
      | none => (s, .shadowFull)
      | some s1 =>
        let r := (if x.hb then { s1 with actor := noLaunch } else s1).homeUncachedWrite (lineOf p) d m
        ({ r.1 with actor := s1.actor }, .done r.2)

/-- Writes a piece of a destination line: what the writes of the step have come to. -/
def State.putPiece (s : State) (crew id : Nat) (o : Stored) (p : Piece) : State × Stored :=
  match p.bank with
  | some b => (s.bankWrite crew (b / 128 * 128) 128 p.data p.mask, o)
  | none =>
    let r := s.engineWrite p id
    (r.1, o.add (BitVec.ofNat 64 p.va) r.2)
/-- Accounts for an engine's writes of a step: failures at once, those on their way under an entry; an entry of the code shadow that is
missing retires the task (R361). -/
def State.engineAccount (s : State) (j : Nat) (i : CtxId) (record pc : Word) (maker : WriteBy) (o : Stored) : State :=
  let s1 := s.unitFails (s.worker record i) record (s.workLaunch record) o.fails
  let s2 := s1.owe j i record maker false { o with fails := .none }
  match o.full with | some va => s2.push (.codeShadowFullRetire record va pc) | none => s2
/-- Writes one piece and accounts for its outcome. -/
def State.writePiece (s : State) (i : CtxId) (record pc : Word) (maker : WriteBy) (p : Piece) : State :=
  let r := s.putPiece i.crew (s.entryId 0) Stored.none p
  r.1.engineAccount 0 i record pc maker r.2
/-- Whether an engine's writes of a maker for a task are still on their way (R254, R268). -/
def State.engineOwed (s : State) (record : Word) (maker : WriteBy) : Bool :=
  s.owed.any fun o => o.record == some record && o.maker == maker

/-! Issue of `CPY` and `CPYMM` (R266–R269). -/

/-- What an endpoint word names (R267). -/
inductive EndKind where
  | global (va : Nat)
  | control (abandon : Bool)
  | tile (r : BitVec 4)

def endpointOf (v : Word) (dest : Bool) : Option EndKind :=
  let tag := (v.extractLsb' 62 2).toNat
  if tag = 0 ∧ v.extractLsb' 55 7 = 0 then some (.global (v.toNat % 2 ^ 55))
  else if tag = 1 ∧ dest ∧ v.extractLsb' 1 61 = 0 then some (.control (v.getLsbD 0))
  else if tag = 3 ∧ v.extractLsb' 4 58 = 0 then some (.tile (v.extractLsb' 0 4))
  else none

/-- The unfinished copies of a context's seat (R266). -/
def State.seatCopies (s : State) (i : CtxId) : Nat :=
  (List.range 4).foldl (fun n j => n + (s.ctxAt { i with n := i.n / 4 * 4 + j }).cnt.copies) 0
/-- Whether a queue, or the seat, has no room. -/
def State.copyFull (s : State) (q : Nat) : Bool :=
  decide (32 ≤ (s.queueAt s.cur q).entries.length) || decide (128 ≤ s.seatCopies s.cur)

/-- The bytes of the codes of a tile in a bank. [DEDUCED, log 49] -/
def tileBytes (bf : Word) : Nat := 512 * memBits (bfFmt bf)
/-- A bank's format as a window of a whole tile. -/
def bankWindow (bf : Word) : Window where
  base := 0
  pitch := 0
  fmt := bfFmt bf
  scale := bfScale bf
  rows := 64
  cols := 64
  rm := bfRm bf
  seed := bfSeed bf
  sbase := 0
  spitch := 0

/-- A copy's entry before its endpoints are filled in. -/
def State.newEntry (s : State) (mm : Bool) (dst src : Endpoint) (total : Nat) : CopyEntry where
  fence := none
  mm := mm
  dst := dst
  src := src
  total := total
  done := 0
  pc := s.pc
  tsh := s.cx.tsh
  fpctl := s.cx.fp.fpctl
  k4 := s.cx.fp.k4hi ++ s.cx.fp.k4lo
  flags := 0
  out := []
  stage := []
  result := none
  poison := []
  pass := 0
  staged := false
  fout := 0
  freg := 0
  facc := 0
  sys := !s.taskMode

/-- Places an entry: a tile destination becomes FILLING (R268). -/
def State.placeCopy (s : State) (q : Nat) (e : CopyEntry) : State :=
  let k := s.cur.crew
  let idle := (s.queueAt s.cur q).entries == []
  let fill := fun (s : State) (h : BitVec 32) => if hValid h then s.updTile k (hSlot h) fun t => { t with st := .filling } else s
  let s1 := match e.dst with | .tile h => fill s h | .global _ => s
  let s2 := fill s1 e.fout
  let s3 := (s2.updCopyQueue s.cur q fun x => { x with entries := x.entries ++ [e] }).upd fun c =>
    { c with cnt := { c.cnt with copies := c.cnt.copies + 1 } }
  if idle then s3.push (.copyBeat s.cur q) else s3

/-- Restarts or abandons a halted entry (R270); the endpoint word is the `TVAL` of a queue that is not halted (R235). -/
def State.controlQueue (s : State) (q : Nat) (a : Word) (abandon : Bool) : Res Next :=
  let x := s.queueAt s.cur q
  if !x.halted then .trap 0x10C a s
  else
    let clear := fun (y : CopyQueue) => { y with halted := false, aborted := false, reason := 0, va := 0, told := false }
    if !abandon then .ok .seq ((s.updCopyQueue s.cur q clear).runQueue s.cur q)
    else
      match x.entries with
      | [] => .ok .seq (s.updCopyQueue s.cur q clear)
      | e :: r =>
        let s1 := s.emptyOutputs s.cur.crew e
        .ok .seq ((((s1.updCopyQueue s.cur q fun y => { clear y with entries := r }).upd fun c =>
          { c with cnt := { c.cnt with copies := c.cnt.copies - 1 } }).freeDrained s.cur.crew).runQueue s.cur q)

/-- The handle checks of a tile source; it and the index tile of its map are waited for until they are READY (R238, R268). [DEDUCED, log 51] -/
def State.checkSource : EndKind → State → Option (Nat × Word)
  | .tile r, s => firstFault [s.checkHandle r, s.checkIndex r]
  | _, _ => none
def State.checkDest : EndKind → State → Option (Nat × Word)
  | .tile r, s => s.checkOutput r
  | _, _ => none

/-- The checks of a copy's shapes and extent (R243, R244, R268). -/
def State.checkExtent (s : State) (a : Word) (d b : EndKind) : Option (Nat × Word) :=
  match d, b with
  | .global x, .global y =>
    let n := (s.cx.getTsh 5).toNat
    match s.checkShapes [5] with
    | some e => some e
    | none => if x < y + n ∧ y < x + n then some (0x10C, BitVec.ofNat 64 n) else none
  | .tile _, .global y => s.checkWindow y false false
  | .global x, .tile _ => s.checkWindow x false true
  | .tile _, .tile _ => none
  | _, _ => some (0x10C, a)

/-- The lines a copy out of a tile writes, the flags of its conversion, and its poisoned elements by the lines they fail (R268, R270).
[DEDUCED, log 48] -/
def State.tileOut (s : State) (r : BitVec 4) (va : Nat) : List Piece × BitVec 5 × List (Nat × Word) :=
  let v := s.view s.cur.crew (s.handleIn r) (s.cx.mapOf r)
  let w := windowOf s.cx.tsh va
  let t := v.intoWindow w (s.cx.fp.k4hi ++ s.cx.fp.k4lo)
  let bad := (v.poisonIn (List.range w.rows) (List.range w.cols)).flatMap fun p => (w.elemLines p.1.1 p.1.2).map fun l => (l, p.2)
  (w.pieces t.1, t.2, bad)

/-- The entry of a checked copy (R268). -/
def State.copyEntry (s : State) (mm : Bool) (d b : EndKind) : CopyEntry :=
  match d, b with
  | .global x, .global y => s.newEntry mm (.global x) (.global y) (s.cx.getTsh 5).toNat
  | .tile r, .global y => s.newEntry mm (.tile (s.handleIn r)) (.global y) (tileBytes (s.bankOf r))
  | .global x, .tile r =>
    let o := s.tileOut r x
    { s.newEntry mm (.global x) (.tile (s.handleIn r)) (o.1.foldl (fun n p => n + p.bytes) 0) with out := o.1, flags := o.2.1, poison := o.2.2 }
  | .tile r, .tile q =>
    let v := s.view s.cur.crew (s.handleIn q) (s.cx.mapOf q)
    let t := v.intoWindow (bankWindow (s.bankOf r)) (s.cx.fp.k4hi ++ s.cx.fp.k4lo)
    { s.newEntry mm (.tile (s.handleIn r)) (.tile (s.handleIn q)) (tileBytes (s.bankOf r)) with
      result := some t.1, flags := t.2
      poison := (v.poisonIn (List.range 64) (List.range 64)).map fun p =>
        (memBits (bfFmt (s.bankOf r)) * (64 * p.1.1 + p.1.2) / 1024, p.2) }
  | _, _ => s.newEntry mm (.global 0) (.global 0) 0

/-- The bytes a copy writes into global memory (R349). -/
def State.copyRanges (s : State) (d b : EndKind) : List (Nat × Nat) :=
  match d, b with
  | .global x, .global _ => [(x, x + (s.cx.getTsh 5).toNat)]
  | .global x, .tile _ => (windowOf s.cx.tsh x).byteRanges
  | _, _ => []

/-- Issues a copy, with a `CPYMM`'s further operands: output, other operand and accumulator registers. A malformed endpoint is the
`TVAL`, the destination's first (R235, R267). Handles are checked in the order destination, source, FOUT, FREG, ACCREG.
[DESIGN CHOICE, log 109] -/
def State.issueCopy (s : State) (q : Nat) (a b : Word) (mm : Option (BitVec 4 × BitVec 4 × Option (BitVec 4))) : Res Next :=
  match endpointOf a true, endpointOf b false with
  | none, _ => .trap 0x10C a s
  | some _, none => .trap 0x10C b s
  | some (.control ab), _ => if mm.isSome then .trap 0x10C a s else s.controlQueue q a ab
  | some d, some b =>
    let isTile := match d with | .tile _ => true | _ => false
    let regs := match mm with | some (_, f, c) => f :: c.toList | none => []
    if mm.isSome && !isTile then .trap 0x10C a s
    else trapOr (firstFault ([s.checkDest d, s.checkSource b, (match mm with | some (o, _, _) => s.checkOutput o | none => none)] ++
        regs.map s.checkHandle)) s
      (match s.awaitInputs false ((match b with | .tile r => s.handleIn r :: s.indexesOf [r] | _ => []) ++ regs.map s.handleIn) with
        | some w => .wait w s
        | none =>
          trapOr (firstFault [(match mm with
                | some (_, _, c) => s.checkShapes (if c.isSome then [7, 3] else [7]) | none => none), s.checkExtent a d b]) s
            (let e := s.copyEntry mm.isSome d b
             if e.total = 0 ∧ mm.isNone then .ok .seq s
             else if s.copyFull q then .wait (.queueFull q) s
             else (s.forceRanges (s.copyRanges d b)).bind fun _ s1 =>
              let e1 := match mm with
                | some (o, f, c) => { e with
                    fout := s.handleIn o, freg := s.handleIn f, facc := match c with | some r => s.handleIn r | none => 0 }
                | none => e
              .ok .seq (s1.placeCopy q e1)))

def execCpy (n : BitVec 2) (a b : BitVec 6) (s : State) : Out :=
  (s.issueCopy n.toNat (s.X a) (s.X b) none).close
def execCpymm (n : BitVec 2) (a b : BitVec 6) (s : State) : Out :=
  let v := s.cx.getTsh 7
  let acc := if v.getLsbD 5 then some ((s.cx.getTsh 3).extractLsb' 0 4) else none
  (s.issueCopy n.toNat (s.X a) (s.X b) (some (v.extractLsb' 8 4, v.extractLsb' 0 4, acc))).close

/-- `CQFENCE` (R271): a fence entry in each named queue. [DEDUCED, log 50] -/
def execCqfence (m : BitVec 4) (s : State) : Out :=
  let qs := (List.range 4).filter fun q => m.getLsbD q
  (match qs.find? fun q => decide (32 ≤ (s.queueAt s.cur q).entries.length) with
    | some q => Res.wait (.queueFull q) s
    | none =>
      let e : CopyEntry := { s.newEntry false (.global 0) (.global 0) 0 with fence := some (m, s.clock) }
      Res.ok Next.seq (qs.foldl (fun s q =>
        let t := s.updCopyQueue s.cur q fun x => { x with entries := x.entries ++ [e] }
        if (s.queueAt s.cur q).entries = [] then t.push (.copyBeat s.cur q) else t) s)).close

/-- `CSTAT` (R272). -/
def CopyQueue.word (q : CopyQueue) : Word :=
  let pending := if q.halted then (match q.entries with | e :: _ => e.done | [] => 0)
    else q.entries.foldl (fun n e => n + (e.total - e.done)) 0
  BitVec.ofNat 64 (pending % 2 ^ 56 + ctlBit q.halted 56 + ctlBit q.aborted 57 + 2 ^ 58 * q.entries.length)
def execCstat (n : BitVec 2) (a : BitVec 6) (s : State) : Out := s.writesX a (s.queueAt s.cur n.toNat).word

/-! Beats (R268, R270). -/

/-- `n` bytes from an address as an engine reads them, line by line: the value, or the reason and the failing address. -/
def State.readSpan (s : State) (k va n : Nat) (sys : Bool) : Except (Nat × Nat) (Nat × State) :=
  let a := min n (128 - va % 128)
  match s.engineRead k va a sys with
  | .error r => .error (r, va)
  | .ok (v, s1) =>
    if a = n then .ok (v, s1)
    else
      match s1.engineRead k (va + a) (n - a) sys with
      | .error r => .error (r, va + a)
      | .ok (w, s2) => .ok (v + 256 ^ a * w, s2)

/-- A beat between two global ranges: up to the next line boundary of the destination. -/
def State.beatBytes (s : State) (i : CtxId) (q : Nat) (record : Word) (e : CopyEntry) (dst src : Nat) : Except (Nat × Nat) (State × CopyEntry) :=
  let k := i.crew
  let d := dst + e.done
  let n := min (e.total - e.done) (128 - d % 128)
  match s.readSpan k (src + e.done) n e.sys with
  | .error x => .error x
  | .ok (v, s1) =>
    match s1.engineWriteLeaf k d e.sys with
    | .error r => .error (r, d)
    | .ok (l, s2) =>
      let sh := 8 * (d % 128)
      let p : Piece := {
        va := d / 128 * 128, pa := 0, data := v <<< sh, mask := allBits n <<< sh, ex := false, hb := false, bank := none }
      .ok (s2.writePiece i record e.pc (.copy q) (p.placed l), { e with done := e.done + n })

/-- The poisoned source element that fails a beat: its `TVAL` (R270). -/
def CopyEntry.poisonAt (e : CopyEntry) (beat : Nat) : Option Nat := (e.poison.find? fun p => p.1 == beat).map fun p => p.2.toNat

/-- A beat of a tile written to memory: its next line, translated as it goes. -/
def State.beatOut (s : State) (i : CtxId) (q : Nat) (record : Word) (e : CopyEntry) : Except (Nat × Nat) (State × CopyEntry) :=
  match e.out with
  | [] => .ok (s, { e with done := e.total })
  | p :: r =>
    match e.poisonAt (p.va / 128), s.engineWriteLeaf i.crew p.va e.sys with
    | some v, _ => .error (7, v)
    | none, .error x => .error (x, p.va)
    | none, .ok (l, s1) =>
      .ok (s1.writePiece i record e.pc (.copy q) (p.placed l), { e with out := r, done := e.done + p.bytes })
/-- A beat from tile to tile. -/
def CopyEntry.beatAcross (e : CopyEntry) : Except (Nat × Nat) CopyEntry :=
  match e.poisonAt (e.done / 128) with
  | some v => .error (7, v)
  | none => .ok { e with done := min e.total (e.done + 128) }

/-- The elements that begin in a beat of a tile's codes. -/
def chunkElems (bits beat : Nat) : List (Nat × Nat) :=
  let lo := (1024 * beat + bits - 1) / bits
  let hi := (1024 * (beat + 1) + bits - 1) / bits
  (List.range' lo (hi - lo)).map fun g => (g / 64, g % 64)

/-- A beat of a tile filled from memory: codes are copied, or values are kept for the conversion at the end (R251). -/
def State.beatIn (s : State) (i : CtxId) (e : CopyEntry) (bf : Word) (src : Nat) : Except (Nat × Nat) (State × CopyEntry) :=
  let k := i.crew
  let w := windowOf e.tsh src
  let es := chunkElems (memBits (bfFmt bf)) (e.done / 128)
  match s.linesFault k e.sys (w.linesOf (es.filter fun p => decide (p.1 < w.rows) && decide (p.2 < w.cols))) with
  | some x => .error x
  | none =>
    let e1 := es.foldl (fun (e : CopyEntry) p =>
      let r := p.1
      let c := p.2
      if w.rows ≤ r ∨ w.cols ≤ c then e
      else if copiesCodes w.fmt w.scale true bf then
        let t := ((e.result.getD Tile.fresh).setCode r c (cleanCode w.fmt (s.memCode k w e.sys r c)))
        { e with result := some (match w.scale with
          | 1 => { t with scales := mput t.scales (2 * r + c / 32) (s.looseRead k (w.scaleAt r c) e.sys 1) }
          | 2 => { t with scales := mput t.scales r (s.looseRead k (w.scaleAt r c) e.sys 1),
                          super := BitVec.ofNat 32 (s.looseRead k w.sbase e.sys 4) }
          | _ => t) }
      else
        let v := s.memValue k w e.k4 e.sys r c
        { e with stage := mput e.stage (64 * r + c) v.1, flags := e.flags ||| v.2 }) e
    .ok (s, { e1 with done := e.done + 128 })

/-- A whole tile converted into a bank (R251). -/
def fillTile (bf : Word) (k4 : BitVec 128) (val : Nat → Nat → Num) : Tile × Flags :=
  let all := List.range 64
  if bfScale bf = 0 then
    (all.flatMap fun r => all.map fun c => (r, c)).foldl (fun (acc : Tile × Flags) p =>
      let y := bankCode bf k4 (val p.1 p.2) p.1 p.2
      (acc.1.setCode p.1 p.2 y.1, acc.2 ||| y.2)) (Tile.fresh, 0)
  else scaledCodes Tile.fresh bf k4 val all all

/-- The tile a finished copy leaves, with the flags of its conversion. -/
def CopyEntry.tile (e : CopyEntry) (bf : Word) : Tile × Flags :=
  match e.src with
  | .tile _ => (e.result.getD Tile.fresh, 0)
  | .global a =>
    let w := windowOf e.tsh a
    if copiesCodes w.fmt w.scale true bf then
      let z := zeroCode bf e.k4
      let t := e.result.getD Tile.fresh
      (((List.range 64).flatMap fun r => (List.range 64).map fun c => (r, c)).foldl (fun t p =>
        if p.1 < w.rows ∧ p.2 < w.cols then t else t.setCode p.1 p.2 z) t, 0)
    else fillTile bf e.k4 fun r c => mget .zero e.stage (64 * r + c)

/-- Puts a tile's content into the slot a handle names, which becomes READY. A slot released since (R240) holds another generation and is
not written (R236, R296). -/
def State.fillSlot (s : State) (k : Nat) (h : BitVec 32) (t : Tile) : State :=
  s.updTile k (hSlot h) fun x =>
    if x.gen = hGen h ∧ x.alloc then { x with
      st := if x.st = .filling then .ready else x.st, mask := BitVec.allOnes 16, rows := t.rows, scales := t.scales, super := t.super, bad := [] }
    else x

/-- An entry that completes (R268, R78): its flags reach its context and the queue goes on. The flags of a copy whose issuer is no
longer on the context are dropped. [DESIGN CHOICE, log 111] -/
def State.finishCopy (s : State) (i : CtxId) (q : Nat) (e : CopyEntry) : State :=
  let s1 := s.updCopyQueue i q fun x => { x with entries := x.entries.drop 1 }
  let s2 := if i.n < 64 then s1.updCtx i fun c => { c.orFlags e.flags with cnt := { c.cnt with copies := c.cnt.copies - 1 } } else s1
  (s2.freeDrained i.crew).push (.copyBeat i q)

/-- A failing beat halts its queue (R270, R394); a consumption of poison may roll the job back instead (R405). -/
def State.haltQueue (s : State) (i : CtxId) (q reason : Nat) (va : Word) : State :=
  match (if reason = 7 then s.rollbackFor (s.ownerLaunch i) else none) with
  | some job => s.push (.rollbackRestart job)
  | none =>
    let s1 := s.updCopyQueue i q fun x => { x with halted := true, aborted := reason == 11, reason := reason, va := va, told := false }
    if i.n < 64 then s1.push (.asyncFaultDelivery i) else s1

/-- A fence entry completes when it heads every queue it joins (R271). -/
def State.tryFence (s : State) (i : CtxId) (m : BitVec 4) (id : Nat) : State :=
  let qs := (List.range 4).filter fun q => m.getLsbD q
  let heads := qs.all fun q => match (s.queueAt i q).entries with | e :: _ => e.fence == some (m, id) | [] => false
  if heads then qs.foldl (fun s q => (s.updCopyQueue i q fun x => { x with entries := x.entries.drop 1 }).push (.copyBeat i q)) s
  else s

/-- One beat of a queue's head entry. -/
def State.beat (s : State) (i : CtxId) (q : Nat) (e : CopyEntry) : Except (Nat × Nat) (State × CopyEntry) :=
  let record := s.ownerRecord i
  match e.dst, e.src with
  | .global d, .global a => s.beatBytes i q record e d a
  | .global _, .tile _ => s.beatOut i q record e
  | .tile h, .global a => s.beatIn i e (s.bankFmt i.crew (s.tileAt i.crew (hSlot h)).bank) a
  | .tile _, .tile _ => e.beatAcross.map fun e1 => (s, e1)

/-- What follows a beat of a queue's head entry: its next beat; for a global destination its end once the last write is counted at its
home; for a tile the content, READY, and a `CPYMM`'s follow-on (R268, R269). The tile a `CPYMM` copies is READY when its bytes have landed, before
the follow-on. [DESIGN CHOICE, log 132] -/
def State.afterBeat (s : State) (c : CtxId) (q : Nat) (e : CopyEntry) : State :=
  let keep := fun (s : State) (e : CopyEntry) => s.updCopyQueue c q fun y => { y with entries := e :: y.entries.drop 1 }
  if e.done < e.total then (keep s e).after 2 (.copyBeat c q)
  else
    match e.dst with
    | .global _ => if s.engineOwed (s.ownerRecord c) (.copy q) then (keep s e).after 16 (.copyBeat c q) else s.finishCopy c q e
    | .tile h =>
      let t := e.tile (s.bankFmt c.crew (s.tileAt c.crew (hSlot h)).bank)
      let e2 := { e with flags := e.flags ||| t.2, stage := [] }
      let s1 := s.fillSlot c.crew h t.1
      if e.mm then (keep s1 e2).push (.cpymmFollowOn c q) else s1.finishCopy c q e2

/-- The copy engine moves one beat (R268), unless its crew holds its requests (R365). A stopped crew's engines do not move (R402); those of a crew that leaves begin no beat (R399). -/
def execCopyBeat (c : CtxId) (q : Nat) (s0 : State) : Out :=
  let x := s0.queueAt c q
  .next (if x.halted || (s0.crewAt c.crew).enginesStopped then s0
    else
      match x.entries with
      | [] => s0
      | e :: _ =>
        if (s0.crewAt c.crew).leaving && decide (e.done < e.total) then s0 else
        match e.fence with
        | some (m, id) => s0.tryFence c m id
        | none =>
          if decide (e.total ≤ e.done) then (if e.mm then s0 else s0.afterBeat c q e)
          else
            let s := { s0 with actor := s0.ownerLaunch c }
            if s0.requestsHeld c.crew then s0.after 16 (.copyBeat c q)
            else
            match s.beat c q e with
            | .error (r, va) => s.haltQueue c q r (BitVec.ofNat 64 va)
            | .ok (s1, e1) => (s1.progress (s.ownerLaunch c)).afterBeat c q e1)

/-- The follow-on's matrix product as the operation of a node (R269, R344): every map is ID. -/
def CopyEntry.followOn (e : CopyEntry) (record : Word) (launch : BitVec 32) (h : BitVec 32) : Node :=
  let role := (e.tsh[7].extractLsb' 4 1).toNat
  let inp := fun (x : BitVec 32) => ({ handle := x, reg := 0, map := TMap.ident } : NodeIn)
  { word := if hValid e.facc then 0xC8000001#32 else 0xC8000000#32
    cpc := e.pc, cno := 0, ctx := { crew := 0, n := 0 }, record := record, serial := 0, launch := launch, out := e.fout, outReg := 0
    ins := [(0, inp (if role = 0 then h else e.freg)), (1, inp (if role = 0 then e.freg else h))] ++
      (if hValid e.facc then [(2, inp e.facc)] else [])
    xa := 0, tsh := e.tsh, k4 := e.k4, fpctl := e.fpctl, mprog := 0, mask := 0, st := .eval, sub := 0, step := 0, group := 0
    flags := 0, cause := 0, range := none, stage := [], staged := false, demand := none, evaluators := [], owed := none, told := false, aborted := false }

/-- One pass of a follow-on over sub-tile `e.pass` (R344): the exact values of its cells, or the `TVAL` of a poisoned operand. -/
def State.followPass (s : State) (c : CtxId) (e : CopyEntry) (h : BitVec 32) : Except Word CopyEntry :=
  let n := e.followOn (s.ownerRecord c) (BitVec.ofNat 32 (s.ownerLaunch c)) h
  let es := subElems e.pass
  match s.poisonedRead c.crew n es with
  | some p => .error (poisonTval p)
  | none => .ok (es.foldl (fun (e : CopyEntry) p =>
      let v := s.elemVal c.crew n e.sys p.1 p.2
      { e with stage := mput e.stage (64 * p.1 + p.2) v.1, flags := e.flags ||| v.2 }) { e with pass := e.pass + 1 })

/-- The follow-on of a `CPYMM` whose copy has landed: its next pass, in ascending sub-tile, and after the last one the conversion
into its output (R344, R394). A scaled output takes a staging buffer before the first pass. -/
def execCpymmFollowOn (c : CtxId) (q : Nat) (s0 : State) : Out :=
  let s := { s0 with actor := s0.ownerLaunch c }
  let k := c.crew
  let setHead := fun (s : State) (e : CopyEntry) => s.updCopyQueue c q fun y => { y with entries := e :: y.entries.drop 1 }
  .next (if (s.queueAt c q).halted || (s.crewAt k).enginesStopped then s0
    else
      match (s.queueAt c q).entries with
      | [] => s0
      | e :: _ =>
        match e.dst with
        | .global _ => s0
        | .tile h =>
          if !e.mm || decide (e.done < e.total) then s0
          else
            let bf := s.bankFmt k (s.tileAt k (hSlot e.fout)).bank
            let needs := decide (bfScale bf ≠ 0) && !e.staged
            if needs && decide (4 ≤ (s.crewAt k).stagingUsed) then s0.after 4 (.cpymmFollowOn c q)
            else
              match s.followPass c { e with staged := e.staged || needs, buf := if needs then (s.crewAt k).freeStaging else e.buf } h with
              | .error v => s.haltQueue c q 7 v
              | .ok e1 =>
                let s1 := s.progress (s.ownerLaunch c)
                if e1.pass < 16 then ((setHead s1 e1).stages k e1.staged e1.buf).after 4 (.cpymmFollowOn c q)
                else
                  let t := fillTile bf e.k4 fun r x => mget .zero e1.stage (64 * r + x)
                  (s1.fillSlot k e.fout t.1).finishCopy c q { e1 with flags := e1.flags ||| t.2 })

/-- One line of the oldest `TSTORE` write-out of a crew (R254), unless the crew holds its requests (R365). Its flags are dropped when its issuer is no longer on the context.
[DESIGN CHOICE, log 111] -/
def execWriteOutLine (crew : Nat) (s0 : State) : Out :=
  .next (if (s0.crewAt crew).enginesStopped then s0
    else
      match (s0.crewAt crew).writeOuts with
      | [] => s0
      | w :: rest =>
        let s := { s0 with actor := s0.workLaunch w.record }
        match w.pieces with
        | p :: ps =>
          if s0.requestsHeld crew then s0.after 16 (.writeOutLine crew)
          else
          let s1 := (s.writePiece w.ctx w.record w.pc .writeOut p).progress s.actor
          (s1.updCrew crew fun k => { k with writeOuts := { w with pieces := ps } :: rest }).push (.writeOutLine crew)
        | [] =>
          if s.engineOwed w.record .writeOut then s.after 16 (.writeOutLine crew)
          else
          let s1 := s.updCrew crew fun k => { k with writeOuts := rest }
          let s2 := if (s1.ctxAt w.ctx).record = w.record then
            s1.updCtx w.ctx fun c => { c.orFlags w.flags with cnt := { c.cnt with demands := c.cnt.demands - 1 } } else s1
          if rest = [] then s2 else s2.push (.writeOutLine crew))

/-! Shape records (R245, R312, R313). -/

/-- The shape registers record `v` gives at a coordinate, or none outside the tensor. -/
def shapeOf (v coord : Nat) : Option (Word × Word × Word × Word) :=
  let f := fun (o n : Nat) => v / 256 ^ o % 256 ^ n
  let src := fun (i : Nat) => if i = 0 then 0 else coord / 2 ^ (16 * (i - 1)) % 2 ^ 16
  let part := f 0x23 1
  let i := src (part % 4) + f 0x26 2
  let j := src (part / 4 % 4) + f 0x28 2
  let b := src (part / 16 % 4)
  let r := i * (f 0x24 1 + 1)
  let c := j * (f 0x25 1 + 1)
  let dimR := f 0x18 4
  let dimC := f 0x1C 4
  let fmt := f 0x20 1 % 16
  let sc := f 0x20 1 / 16 % 4
  if dimR ≤ r ∨ dimC ≤ c then none
  else
    let rows := min (f 0x24 1 + 1) (dimR - r) - 1
    let cols := min (f 0x25 1 + 1) (dimC - c) - 1
    let rowBytes := if memBits fmt = 6 then 3 * ((c + 3) / 4) else (memBits fmt * c + 7) / 8
    let t0 := f 0x10 4 + 2 ^ 32 * fmt + 2 ^ 36 * sc + 2 ^ 40 * rows + 2 ^ 48 * cols + 2 ^ 56 * f 0x21 1
    let t4 := f 0 8 + b * f 0x2C 8 + r * f 0x10 4 + rowBytes
    let seed := 2 ^ 32 * f 0x22 1
    let t12 : Nat × Nat :=
      if sc = 1 then (f 8 8 + r * f 0x14 4 + c / 32, f 0x14 4 + seed)
      else if sc = 2 then (f 8 8 + 68 * (i * ((dimC + 63) / 64) + j), 1 + seed)
      else (0, seed)
    some (BitVec.ofNat 64 t0, BitVec.ofNat 64 t12.1, BitVec.ofNat 64 t12.2, BitVec.ofNat 64 t4)

def execShpld (k : BitVec 3) (s : State) : Out :=
  let n := match s.slotOf s.cx.launchId with | some i => (s.slotAt i).field 0x1D 1 | none => 0
  (if n ≤ k.toNat then Res.trap 0x10D (k.setWidth 64) s
   else
    match shapeOf (s.bankRead s.cur.crew (64 * k.toNat) 64) s.cx.coord.toNat with
    | none => .trap 0x10A (k.setWidth 64) s
    | some (a, b, c, d) => .ok .seq (s.upd fun x => (((x.setTsh 0 a).setTsh 1 b).setTsh 2 c).setTsh 4 d)).close

/-! Collectives (R273–R275, R438, R439). -/

/-- One element of a reduction, by the operation of R273. -/
def collElem (op a b : Nat) : Nat :=
  let x := BitVec.ofNat 32 a
  let y := BitVec.ofNat 32 b
  match op with
  | 0 => (fAdd x y .rne).1.toNat
  | 1 =>
    let p := valOf 2 0 a
    let q := valOf 2 0 b
    (roundTo 2 0 (if p.isNaN || q.isNaN then .qnan else (addNum p q .rne).getD .qnan) .rne).1
  | 2 => (x + y).toNat
  | 3 => (minMaxF32 false x y).1.toNat
  | 4 => (minMaxF32 true x y).1.toNat
  | 5 => (if y.slt x then y else x).toNat
  | _ => (if x.slt y then y else x).toNat
/-- Two contributions of some bytes, element by element. -/
def collOp (op n a b : Nat) : Nat :=
  let w := if op = 1 then 16 else 32
  (List.range (8 * n / w)).foldl (fun r i => r + 2 ^ (w * i) * (collElem op (a / 2 ^ (w * i) % 2 ^ w) (b / 2 ^ (w * i) % 2 ^ w) % 2 ^ w)) 0

/-- Translates some lines of an instruction's range: the leaves, or the first failure. -/
def State.translateLines (s : State) (i : Instr) (u : Use) : List Word → Res (List Leaf)
  | [] => .ok [] s
  | a :: r =>
    match s.translate i u a with
    | .error e => .trap e.1 e.2 s
    | .ok (l, s1) => (s1.translateLines i u r).bind fun ls s2 => .ok (l :: ls) s2
/-- The lines of a range of bytes. -/
def linesOf (va : Word) (n : Nat) : List Word := (List.range (n / 128)).map fun j => va + BitVec.ofNat 64 (128 * j)
/-- Reads the lines of a translated range. -/
def State.readLines (s : State) (ls : List (Word × Leaf)) : Res Nat :=
  match ls with
  | [] => .ok 0 s
  | (a, l) :: r =>
    match s.readVia s.cur.crew l a 128 with
    | .error e => s.readStops .load l e a
    | .ok (v, s1) => (s1.readLines r).bind fun w s2 => .ok (v + 256 ^ 128 * w) s2

/-- COLLEN (R243). -/
def Ctx.collLen (c : Ctx) : Nat := let n := (c.tsh[6].extractLsb' 0 21).toNat; if n = 0 then 256 else n

/-- `COLL` (R273, R274): the contribution is read at issue and sent into the network. [DEDUCED, log 52] -/
def execColl (e : BitVec 4) (a b : BitVec 6) (c : BitVec 1) (o : BitVec 4) (s : State) : Out :=
  let i : Instr := .coll e a b c o
  let k := s.cur.crew
  let launch := s.cx.launchId
  let src := s.X a
  let dst := s.X b
  let n := s.cx.collLen
  (trapOr (firstFault [
      if s.takesPart launch k then none else some (0x10E, e.setWidth 64),
      s.checkShapes [6],
      if src.toNat % 256 ≠ 0 then some (memCause akLoad 5, src) else none,
      if dst.toNat % 256 ≠ 0 then some (memCause akStore 5, dst) else none]) s
    ((s.translateLines i .load (linesOf src n)).bind fun ls s1 =>
      (s1.translateLines i .store (linesOf dst n)).bind fun _ s2 =>
        let old := mget? (s2.crewAt k).colls e.toNat
        if (match old with | some x => s2.roundOpen e.toNat x | none => false) then .wait (.collective e.toNat) s2
        else (s2.forceRanges [(dst.toNat, dst.toNat + n)]).bind fun _ s3 =>
          (s3.readLines ((linesOf src n).zip ls)).bind fun v s4 =>
            let round := match old with | some x => if x.launch = launch then x.round + 1 else 0 | none => 0
            let slot : CollSlot := {
              launch := launch, round := round, busy := true, bad := false, failed := (match old with | some x => x.owing | none => []), bc := c == 1, ctx := s.cur, record := s.cx.record, dst := dst, pc := s.pc }
            .ok .seq ((s4.updCrew k fun x => { x with colls := mput x.colls e.toNat slot }).push (.reductionPartial launch e.toNat {
              fromPackage := none, crew := k, round := round, op := o.toNat, bc := c == 1, len := n, data := v })))).close

/-- `COLLW` (R275): the task's own last round, on whichever crew it contributed. -/
def execCollw (e : BitVec 4) (s : State) : Out :=
  let r := s.cx.record
  (if s.ownRoundOpen r e.toNat then Res.wait (.ownRound e.toNat) s
   else
    match s.crews.find? fun p => match mget? p.2.colls e.toNat with | some x => x.owing.contains r | none => false with
    | none => .ok .seq s
    | some (k, _) =>
      .trap 0x10E (e.setWidth 64) (s.updCrew k fun y =>
        { y with colls := match mget? y.colls e.toNat with | some x => mput y.colls e.toNat (x.forget r) | none => y.colls })).close

/-- Combines the members of one node in order (R438). -/
def combineAll (op n : Nat) : List Nat → Option Nat
  | [] => none
  | a :: r => some (r.foldl (collOp op n) a)

/-- The package total of the crews' contributions: squads, dies, the package (R438). -/
def packageTotal (op n : Nat) (ps : List Partial) : Option Nat :=
  combineAll op n ((List.range 4).filterMap fun d =>
    combineAll op n ((List.range 16).filterMap fun q =>
      combineAll op n ((List.range 16).filterMap fun c =>
        (ps.find? fun p => p.fromPackage.isNone && crewDie p.crew == d && crewSquad p.crew == q && crewInSquad p.crew == c).map Partial.data)))

/-- The children of the reduction-tree block (R438). -/
def State.treeChildren (s : State) : List Nat :=
  let w := (mget 0 s.pkg.tree 1).toNat
  (List.range 4).filterMap fun i => if w / 2 ^ (16 * i + 15) % 2 = 1 then some (w / 2 ^ (16 * i) % 2 ^ 15) else none
def State.treeParent (s : State) : Nat := (mget 0 s.pkg.tree 0).toNat % 2 ^ 15
def State.treeRoot (s : State) : Bool := (mget 0 s.pkg.tree 0).getLsbD 15

/-- Writes a result at a contributor's x(b), line by line; a write that fails counts in its context's status word. -/
def State.writeResult (s : State) (x : CollSlot) (slot n data : Nat) : State :=
  let r := (List.range (n / 128)).foldl (fun (a : State × Stored) j =>
    let va := x.dst + BitVec.ofNat 64 (128 * j)
    let p : Piece := {
      va := va.toNat, pa := 0, data := data / 256 ^ (128 * j) % 256 ^ 128, mask := allBits 128, ex := false, hb := false, bank := none }
    match a.1.walk va needWr with
    | .error _ => (a.1, a.2.add va (.done (some .refused)))
    | .ok l => a.1.putPiece x.ctx.crew (s.entryId x.ctx.crew) a.2 (p.placed l)) (s, Stored.none)
  r.1.engineAccount x.ctx.crew x.ctx x.record x.pc (.result slot) r.2

/-- Replaces what a package holds of a round of a slot. -/
def State.dropRound (s : State) (launch slot round : Nat) : State :=
  { s with pkg := { s.pkg with rounds := s.pkg.rounds.filter fun r => !(r.launch == launch && r.slot == slot && r.round == round) } }
def State.setRound (s : State) (r : Round) : State :=
  let t := s.dropRound r.launch r.slot r.round
  { t with pkg := { t.pkg with rounds := t.pkg.rounds ++ [r] } }

/-- A round of a slot ends for a crew (R275): the result, if it gets one, is written, and the crew's `COLLW` returns, or traps when the
round is bad. -/
def State.closeRound (s : State) (k launch slot : Nat) (bad : Bool) (len data : Nat) : State :=
  match mget? (s.crewAt k).colls slot with
  | none => s
  | some x =>
    if !x.busy || x.launch != launch then s
    else
      let s1 := if len = 0 then s else s.writeResult x slot len data
      s1.updCrew k fun c => { c with colls := mput c.colls slot {
        x with busy := false, bad := bad, failed := x.failed.filter fun r => r != x.record } }
/-- The outcome of a round reaches a crew that has contributed to it; one that is swapped out gets it as a message (R400). -/
def State.endFor (s : State) (launch slot : Nat) (bad : Bool) (total : Option Nat) (writers : List Nat) (p : Partial) (k : Nat) : State :=
  let len := if writers.contains k then p.len else 0
  if (s.crewAt k).away then s.push (.messageSpill k (.partialSum launch slot bad len (total.getD 0)))
  else if (match mget? (s.crewAt k).colls slot with | some x => x.round == p.round | none => false)
    then s.closeRound k launch slot bad len (total.getD 0)
  else s
/-- Ends a round on this package (R274, R275): the root's result, or with `.BC` everyone's, is written. -/
def State.endRound (s : State) (launch slot : Nat) (bad : Bool) (total : Option Nat) (isRoot : Bool) (p : Partial) : State :=
  let crews := match s.slotOf launch with | some i => (s.slotAt i).crews | none => []
  let writers := if bad || total.isNone then [] else if p.bc then crews else if isRoot then crews.take 1 else []
  let s1 := crews.foldl (fun s k => s.endFor launch slot bad total writers p k) { s with actor := launch }
  { ((s1.dropRound launch slot p.round).progress launch) with actor := s.actor }

/-- What a package knows of a round (R438): the launch's crews, the node's children, and whether it is the root. -/
structure RoundNode where
  launch : Nat
  slot : Nat
  crews : List Nat
  kids : List Nat
  root : Bool
/-- Whether every crew and every valid child has sent its partial (R439). -/
def RoundNode.allIn (n : RoundNode) (r : Round) : Bool :=
  n.crews.all (fun k => r.parts.any fun p => p.fromPackage.isNone && p.crew == k) &&
    n.kids.all (fun c => r.parts.any fun p => p.fromPackage == some c)
/-- The node's total of a round (R438), as a partial for its parent. -/
def State.roundTotal (s : State) (n : RoundNode) (r : Round) (p : Partial) : Partial :=
  let own := packageTotal p.op p.len r.parts
  let others := n.kids.filterMap fun c => (r.parts.find? fun p => p.fromPackage == some c).map Partial.data
  { p with fromPackage := some s.pkg.pkgid, data := (combineAll p.op p.len (own.toList ++ others)).getD 0, bad := r.bad, down := false }
/-- The outcome of a round is known at a node (R438): it goes down the tree, and ends the round here. One that ends bad before all of it has
come is remembered for what comes later. -/
def State.finishRound (s : State) (n : RoundNode) (r : Round) (p : Partial) : State :=
  let s1 := (n.kids ++ r.strangers).eraseDups.foldl (fun s c =>
    s.sendFlit c 4 (.partialSum n.launch n.slot { p with fromPackage := some s.pkg.pkgid, bad := r.bad, down := true })) s
  let s2 := s1.endRound n.launch n.slot r.bad (some p.data) n.root p
  if n.allIn r then s2 else s2.setRound { r with closed := true }
/-- A partial that comes after its round has ended bad: its sender learns it. -/
def State.lateRound (s : State) (n : RoundNode) (r : Round) (p : Partial) : State :=
  let s1 := match p.fromPackage with
    | none => { { s with actor := n.launch }.endFor n.launch n.slot true none [] p p.crew with actor := s.actor }
    | some c => s.sendFlit c 4 (.partialSum n.launch n.slot { p with fromPackage := some s.pkg.pkgid, bad := true, down := true })
  if n.allIn r then s1.dropRound n.launch n.slot r.round else s1.setRound r

/-- A child's partial reaches its node (R438, R439): one from a package that is no valid child, or from a child outside the launch's package
set, posts the report, and makes the round bad for every contributor, at once. [DEDUCED, log 54] -/
def execReductionPartial (launch slot : Nat) (part : Partial) (s : State) : Out :=
  let x := s.slotAt ((s.slotOf launch).getD 16)
  let n : RoundNode := {
    launch := launch, slot := slot, crews := x.crews, kids := if x.pkgs = [] then [] else s.treeChildren
    root := x.pkgs = [] || s.treeRoot }
  let old := (s.pkg.rounds.find? fun r => r.launch == launch && r.slot == slot && r.round == part.round).getD
    { launch := launch, slot := slot, round := part.round, parts := [], bad := false, sent := false }
  .next (if (s.slotOf launch).isNone then s
    else if part.down then
      if part.fromPackage = some s.treeParent ∧ !n.root ∧ !old.closed ∧ (old.sent ∨ part.bad)
      then s.finishRound n { old with bad := old.bad || part.bad } part else s
    else
      let child := match part.fromPackage with | some c => n.kids.contains c | none => true
      let known := child && (match part.fromPackage with | some c => x.pkgs.contains c | none => true)
      let differs := old.parts.any fun p => p.op != part.op || p.bc != part.bc || p.len != part.len
      let s1 := if !known || differs then s.post (taskReport 0x16 0 slot launch 0 0 0) else s
      let r := { old with
        parts := if child then old.parts ++ [part] else old.parts, bad := old.bad || !known || differs || part.bad
        strangers := match part.fromPackage with | some c => if child then old.strangers else old.strangers ++ [c] | none => old.strangers }
      if old.closed then s1.lateRound n r part
      else if (known && !part.bad && !n.allIn r) || r.sent then s1.setRound r
      else
        let up := s1.roundTotal n r part
        if n.root then s1.finishRound n r up
        else (s1.sendFlit s.treeParent 4 (.partialSum launch slot up)).setRound { r with sent := true })

end Sys2Proof.Machine
end

