-- ==== Sys2Proof/Machine/Growth.lean ====
section
/-!
DEFINITION. `LTYPE`, `FREEZE` and `LRESET` (R216, R225–R227), and the requests a home, an agent, a slice walker or a memory
controller serves as events of their own (R222, R225, R365, R374–R382, R403, R404).
-/
namespace Sys2Proof.Machine

/-! `LTYPE`, `FREEZE` and `LRESET`. -/

/-- A failure at the home of a lattice line that is no join counts in the context's status word, or starts a rollback (R230, R409).
[DEDUCED, log 27] -/
def State.failed (s : State) (f : Fail) : State := s.unitFails (some s.cur) s.cx.record s.cx.launchId (.one f)

/-- `LTYPE` (R216). -/
def execLtype (a : BitVec 6) (w : BitVec 2) (t : BitVec 4) (s : State) : Out :=
  let va := s.X a
  (if va.toNat % 128 ≠ 0 then Res.trap (memCause akStore 5) va s
   else
    match s.translate (.ltype a w t) .ltype va with
    | .error e => .trap e.1 e.2 s
    | .ok (leaf, s1) =>
      match s1.latticeAt leaf va with
      | .error f => .ok .seq (s1.failed f)
      | .ok l =>
        if s1.lineTaken l then .hold (some (.line l)) (s1.awaitTurn l)
        else
          let r := s1.typeLine l (latOfCode t.toNat) w.toNat
          (if r.2 then Res.ok .seq (r.1.progress s.cx.launchId) else .trap 0x0C2 va s1).turnsOver [l]).close

/-- The page kinds of the range of a `FREEZE`, `n` pages from an address: the first page that may not be frozen traps. -/
def State.checkFreeze (s : State) (i : Instr) : Nat → Word → Res Unit
  | 0, _ => .ok () s
  | n + 1, va =>
    match s.translate i .freeze va with
    | .error e => .trap e.1 e.2 s
    | .ok (_, s1) => s1.checkFreeze i n ((va &&& ~~~(0xFFFF#64)) + 0x10000)

/-- One line of a `FREEZE` at its home (R225): a member of the line behind a dead link answers with its delta lost, which counts the line as
poisoned in the issuer's status word (R226). -/
def State.freezeOne (s : State) (l : Nat) : State :=
  let lost := !(s.metaOf l).frozen && s.lostMembers l != []
  let s1 := (s.freezeLine l).progress s.cx.launchId
  if lost then s1.failed .poisoned else s1
/-- Freezes the line at an address and goes on at the next one, or completes after the last (R225, R226). A line whose busy bit is
set is waited for (R374). -/
def State.freezeNext (s : State) (i : Instr) (va stop : Word) : Res Next :=
  match s.translate i .freeze va with
  | .error e => .trap e.1 e.2 s
  | .ok (leaf, s1) =>
    if s1.busyAt leaf va then .wait (.line (s1.lineAt leaf va)) ((s1.upd fun c => { c with freezeAt := some va }).awaitTurn (s1.lineAt leaf va))
    else
      let s2 := match s1.latticeAt leaf va with
        | .error f => s1.failed f
        | .ok l => (s1.freezeOne l).endTurn [l]
      if va + 128 = stop then .ok .seq (s2.upd fun c => { c with freezeAt := none })
      else .wait .freezing (s2.upd fun c => { c with freezeAt := some (va + 128) })

/-- `FREEZE` (R225, R226): one line at each issue, so that an interrupt takes effect at a line boundary. -/
def execFreeze (a b : BitVec 6) (sc : BitVec 3) (s : State) : Out :=
  let i : Instr := .freeze a b sc
  let va := s.X a
  let n := s.X b
  (if va.toNat % 128 ≠ 0 then Res.trap (memCause akStore 5) va s
   else if n.toNat % 128 ≠ 0 then .trap (memCause akStore 5) n s
   else if n = 0 then .ok .seq s
   else
    match s.cx.freezeAt with
    | some v => s.freezeNext i v (va + n)
    | none => (s.checkFreeze i ((va.toNat % 65536 + n.toNat + 65535) / 65536) va).bind fun _ s1 => s1.freezeNext i va (va + n)).close

/-- `LRESET` (R227): the request is recorded for the next phase boundary, once per arena. [DEDUCED, log 26] -/
def execLreset (a : BitVec 6) (s : State) : Out :=
  let va := s.X a
  let x := s.mySlot
  (match x.arenas.find? (fun (r : Nat × Nat × Bool) => r.1 == va.toNat) with
    | none => Res.trap 0x0C7 va s
    | some r =>
      if !r.2.2 then Res.trap 0x0C6 va s
      else Res.ok Next.seq (s.updJob x.job fun j => { j with
        resets := if j.resets.contains (r.1, r.2.1) then j.resets else j.resets ++ [(r.1, r.2.1)] })).close

/-! Requests at a home (R222, R374, R376, R377). Each is one action; what it needs of other agents is part of it. -/

/-- Whether a number is an agent id of R372 that can hold a line. -/
def isAgent (a : Nat) : Bool := decide (a < 128) || (decide (0x4000 ≤ a) && decide (a ≤ 0x403E)) || a == 0x7FFE
/-- An event that names a unit of the part. -/
def onUnit (ok : Bool) (s : State) : Out := if ok then .next s else .fault .noSuchUnit

def execHomeRead (agent line : Nat) (s : State) : Out := onUnit (isAgent agent) (s.request line (.read agent))
def execHomeWriteOwn (agent line : Nat) (s : State) : Out := onUnit (isAgent agent) (s.request line (.own agent))
def execHomeUncachedWrite (pa n data mask : Nat) (s : State) : Out :=
  let sh := 8 * (pa % 128)
  let w := 8 * min n (128 - pa % 128)
  .next (s.request (lineOf pa) (.uncached (BitVec.ofNat 1024 ((data % 2 ^ w) <<< sh)) (BitVec.ofNat 1024 ((mask % 2 ^ w) <<< sh))))
/-- An uncached read supplies the latest data and changes nothing (R376). -/
def execHomeUncachedRead (_line : Nat) (s : State) : Out := .next s
def execHomeWriteBack (agent line : Nat) (s : State) : Out := onUnit (isAgent agent) (s.request line (.writeBack agent))
def execLowerBoundFill (agent line : Nat) (s : State) : Out := onUnit (isAgent agent) (s.request line (.fill agent))
/-- [DESIGN CHOICE, log 22] -/
def execDeltaGrant (agent line : Nat) (s : State) : Out := onUnit (isAgent agent) (s.request line (.grant agent))
def execDeltaDrain (agent line : Nat) (s : State) : Out := onUnit (isAgent agent) (s.request line (.drain agent))
def execWatchRegistration (watch : Watch) (s : State) : Out := .next (s.request watch.line (.watch watch))
def execFreezeLine (line : Nat) (s : State) : Out := .next (s.request line .freeze)
def execFreezeNotice (agent line : Nat) (s : State) : Out := onUnit (isAgent agent) (s.request line (.notice agent))
def execJoinAtHome (line : Nat) (join : JoinMsg) (s : State) : Out := .next (s.request line (.join join))

/-- An agent answers a probe (R375, R376): it shares, supplies, or gives its copy up. -/
def State.answerProbe (s : State) (agent line : Nat) (kind : ProbeKind) : State :=
  match s.copyAt? agent line with
  | none => s
  | some c =>
    match kind with
    | .share => s.putCopy agent line { c with st := if c.st = .m then .o else if c.st = .e then .s else c.st }
    | .supply => s
    | .invalidate =>
      if c.st = .d then s.deltaDrain agent line
      else if c.st = .m ∨ c.st = .o then (s.homeWriteBack agent line).dropCopy agent line
      else s.dropCopy agent line
    | .freeze => s.freezeNotice agent line
/-- A probe reaches an agent (R375): one that names a reply that has not landed is held; any other is answered at once, NOT-HELD where the
agent has no copy. -/
def execProbe (agent line tag : Nat) (kind : ProbeKind) (s : State) : Out :=
  onUnit (isAgent agent) (match s.copyAt? agent line with
    | some c => if !c.landed && c.tag == tag then s.putCopy agent line { c with probes := c.probes ++ [kind] } else s.answerProbe agent line kind
    | none => s)
/-- A fill reply lands (R375) and is used for the access that asked for it; the agent then answers the probes it has held. -/
def execFillReply (agent line tag : Nat) (s : State) : Out :=
  onUnit (isAgent agent) (match s.copyAt? agent line with
    | some c =>
      if !c.landed && c.tag == tag then
        c.probes.foldl (fun s k => s.answerProbe agent line k) (s.putCopy agent line { c with landed := true, probes := [] })
      else s
    | none => s)
/-- Requests refused by a full busy list are sent again (R374). -/
def execBusyRetryTimer (slice : Nat) (s : State) : Out :=
  onUnit (decide (slice < 128)) ((mget [] s.retry slice).foldl (fun s r => s.request r.1 r.2) { s with retry := mdel s.retry slice })

/-- A slice's walker serves a missed translation (R381, R382): the leaf enters the slice's leaf cache. -/
def execPageWalk (slice : Nat) (va : Word) (s : State) : Out :=
  onUnit (decide (slice < 128)) (match s.leafFor slice va needNone with | .ok r => r.2 | .error _ => s)

/-- A controller scrubs a line (R404): an error in one byte is corrected, a wider one poisons the line. -/
def execScrub (line badBytes : Nat) (s : State) : Out :=
  .next (if badBytes ≤ 1 then s else (s.undoAppend line).updMeta line fun m => { m with poison := true })

/-! Domain changes (R365). -/

/-- The context that wrote `HASHCTL` first goes on, or issues its instruction again. -/
def State.domainAnswer (s : State) (die : Nat) (done : Bool) : State :=
  match (s.dieAt die).owners with
  | [] => s
  | i :: r =>
    (s.updDie die fun d => { d with owners := r }).updCtx i fun c =>
      if c.wait = some .domain then
        { c with wait := none, answer := if done then some 0 else none, st := if c.depth = 0 then .active else .handler }
      else c

/-- A checked write starts a domain change, which takes the slices' walks, or waits at the control port while one runs (R365). A value that the change before
it has made illegal is checked again by its instruction. [DEDUCED, log 83] -/
def execHashctlWrite (die : Nat) (value : Word) (s : State) : Out :=
  let d := s.dieAt die
  onUnit (decide (die < 4)) (if d.busy then s.updDie die fun d => { d with waiting := d.waiting ++ [value] }
    else if hashctlRefused d.domains value then s.domainAnswer die false
    else (s.updDie die fun d => { d with busy := true, change := some value }).after 131072 (.domainSwitch die))

/-- Whether a slice keeps a line through a domain change. -/
def keepsLine (old new : Map Domain) (dom agent vline : Nat) : Bool :=
  let at' := fun (m : Map Domain) => mget { members := 0, mode := false, squads := 0 } m dom
  let d := at' new
  (decide (at' old = d)) || (d.members.getLsbD (agent % 32) && sliceOfLine d (vline % 2 ^ 48) == agent % 32)

/-- Moves the host aperture (R414, R423): package id 0x7FFF names host memory from a base on. What the slices cache of it goes home first,
and bytes of the host that the aperture leaves keep their host addresses. -/
def State.rebase (s : State) (base : Nat) : State :=
  let aperture := fun (a : Nat) => a / 2 ^ 41 == 0x7FFF
  let old := s.pkg.fields.hbase
  let s1 := s.copies.foldl (fun s p => if aperture (128 * (p.1 % 2 ^ 49)) then s.flushLine (p.1 % 2 ^ 49) else s) s
  let host := (s1.mem.filter fun c => aperture c.1).foldl (fun m c => Memory.write m (old + c.1 % 2 ^ 41) c.2) s1.hostMem
  let inside := fun (a : Nat) => decide (base ≤ a) && decide (a < base + 2 ^ 41)
  { s1 with
    mem := (host.filter fun c => inside c.1).foldl (fun m c => Memory.write m (0x7FFF * 2 ^ 41 + (c.1 - base)) c.2)
      (s1.mem.filter fun c => !aperture c.1)
    hostMem := host.filter fun c => !inside c.1
    lines := s1.lines.filter fun p => !aperture (128 * p.1)
    pkg := { s1.pkg with fields := { s1.pkg.fields with hbase := base } } }

/-- A slice gives up its copy of a line: dirty data or a delta goes home (R365, R385). -/
def State.evict (s : State) (agent l : Nat) : State :=
  match s.copyAt? agent l with
  | none => s
  | some c =>
    if c.st = .d then s.deltaDrain agent l
    else (if c.st = .m ∨ c.st = .o then s.homeWriteBack agent l else s).dropCopy agent l

/-- The affected slices are walked, and the affected crews switch to the new mapping at once (R365). -/
def State.switchDomain (s : State) (die : Nat) (v : Word) : State :=
  let d := s.dieAt die
  let new := domainsAfter d.domains v
  let gone := s.copies.filter fun p =>
    let agent := p.1 / 2 ^ 49
    agent / 32 == die && !keepsLine d.domains new p.2.dom agent p.2.vline
  (gone.foldl (fun s p => s.evict (p.1 / 2 ^ 49) (p.1 % 2 ^ 49)) s).updDie die fun d => { d with domains := new }

/-- A domain change ends (R365): its writer goes on, and the write that waits longest starts its own. -/
def execDomainSwitch (die : Nat) (s : State) : Out :=
  let d := s.dieAt die
  onUnit (decide (die < 4)) (match d.change with
    | none => s
    | some v =>
      let s2 := ((s.switchDomain die v).updDie die fun d => { d with busy := false, change := none }).domainAnswer die true
      match d.waiting with
      | [] => s2
      | w :: r => (s2.updDie die fun d => { d with waiting := r }).push (.hashctlWrite die w))

end Sys2Proof.Machine
end

