-- ==== Sys2Proof/Machine/Image.lean ====
section
/-!
DEFINITION. Interrupts and asynchronous faults (R327, R388, R389, R394), pre-emption and debug (R396, R402, R424), context images
(R397), errors of the SRAM arrays (R403), and the words and fetches that are no instruction (R115, R144).
-/
namespace Sys2Proof.Machine

/-! Interrupts (R388). -/

/-- Whether a context may take its first pending interrupt: in task mode, or as a FREE context. One that waits for its instruction to be
accepted keeps it pending (R167, R199). -/
def State.mayInterrupt (s : State) (i : CtxId) : Bool :=
  let c := s.ctxAt i
  let k := s.crewAt i.crew
  c.pending && !c.stopped && !c.boot && c.depth == 0 && !k.gated &&
    (match c.st with
     | .free => !k.away || (k.swapped && c.pendDbg)
     | .active => c.wait.isNone && !k.away
     | .stalled => !c.ending && !k.away
     | .blocked => c.pendDbg && !k.away
     | .handler => false)

/-- An interrupt that is taken is pending no more. -/
def Ctx.taken (c : Ctx) (cause : Nat) : Ctx :=
  if cause = 0x162 then { c with pendDbg := false } else if cause = 0x160 then { c with pendPre := false } else { c with pendSplits := false }

/-- A wait that ends without its instruction's effect (R388): its watch is removed, and it stands in no busy list. -/
def State.abandonWait (s : State) (i : CtxId) : State := ((s.dropTurns i).dropContextWatches i).endDemand i

/-- The first pending asynchronous fault of a context (R394), delivered as a precise trap: the poison of a vector load, then
halted copy queues in ascending number, then faults other tasks' demands found in its task's nodes (R346). A BLOCKED context takes one
before its debug interrupt (R388). [DEDUCED, log 36] -/
def State.asyncFault (s : State) (i : CtxId) : Option State :=
  let c := s.ctxAt i
  let ready := !c.stopped && !c.halted && !(s.crewAt i.crew).away &&
    (((c.st == .active || c.st == .handler) && c.wait.isNone) || (c.st == .stalled && !c.ending) || (c.st == .blocked && c.pendDbg))
  if !ready then none
  else
    match c.vpoison with
    | some va => some (((s.abandonWait i).updCtx i fun c => { c with vpoison := none }).enterTrap i 0x97 va c.pc 0 false)
    | none =>
      match (List.range 4).find? fun q => (s.queueAt i q).halted && !(s.queueAt i q).told with
      | some q =>
        let x := s.queueAt i q
        some (((s.abandonWait i).updCopyQueue i q fun y => { y with told := true }).enterTrap i (deferredCause x.reason) x.va c.pc 0 false)
      | none =>
        match (s.crewAt i.crew).nodes.find? fun p => p.2.owed.isSome && !p.2.told && p.2.record == c.record && c.hasTask with
        | some p => some ((s.abandonWait i).thunkTrap i i.crew p.1 p.2 (p.2.owed.getD 0))
        | none => none

/-- Takes a context's first pending interrupt (R388): `TEPC` is where it resumes, 0 for a FREE context. -/
def State.takeInterrupt (s : State) (i : CtxId) : State :=
  if !s.mayInterrupt i then s
  else
    match s.asyncFault i with
    | some t => t
    | none =>
      match s.nextInterrupt i with
      | none => s
      | some (cause, tval) =>
        let c := s.ctxAt i
        let epc := if c.st = .free then 0 else c.pc
        ((s.abandonWait i).updCtx i fun c => { c.taken cause with blockUntil := none }).enterTrap i cause tval epc 0 true

def execInterruptEntry (c : CtxId) (s : State) : Out := .next (s.takeInterrupt c)
def execAsyncFaultDelivery (c : CtxId) (s : State) : Out := .next ((s.asyncFault c).getD s)

/-- A BLOCKED context whose block has lasted its time returns to ACTIVE (R389). -/
def Ctx.unblock (c : Ctx) : Ctx := if c.st = .blocked ∧ !c.ublock then { c with st := .active, blockUntil := none } else c
def execBlockTimerExpiry (c : CtxId) (s : State) : Out :=
  .next (match (s.ctxAt c).blockUntil with
    | some t => if t ≤ s.clock then s.updCtx c Ctx.unblock else s
    | none => s)

/-- The contexts a mask of a crew's register names, in ascending number. -/
def ctxsOf (crew : Nat) (m : BitVec 32) : List CtxId :=
  ((List.range 32).filter fun n => m.getLsbD n).map fun n => { crew := crew, n := n }

/-- RELEASE (R389, R395). -/
def execReleaseWrite (crew : Nat) (value : BitVec 32) (s : State) : Out :=
  onUnit (decide (crew < 1024)) ((ctxsOf crew value).foldl (fun s i => s.updCtx i Ctx.unblock) s)
/-- DEBUG (R395): a debug interrupt on each context named. -/
def execDebugWrite (crew : Nat) (value : BitVec 32) (s : State) : Out :=
  onUnit (decide (crew < 1024)) ((ctxsOf crew value).foldl (fun s i =>
    (s.updCtx i fun c => { c with pendDbg := true }).push (.interruptEntry i)) s)
/-- RESUME (R161, R424). -/
def execDebugResume (crew : Nat) (value : BitVec 32) (s : State) : Out :=
  onUnit (decide (crew < 1024)) ((ctxsOf crew value).foldl (fun s i => s.updCtx i fun c => { c with halted := false }) s)

/-- PREEMPT (R396): a bit that is set interrupts the tasks of its seat; one that is cleared lets the seat take records again. -/
def execPreemptWrite (crew : Nat) (value : BitVec 8) (s : State) : Out :=
  let old := (s.crewAt crew).preempt
  let due := (List.range 32).filter fun n => value.getLsbD (n / 4) && !old.getLsbD (n / 4) && (s.ctxAt { crew := crew, n := n }).hasTask
  let s1 := s.updCrew crew fun k => { k with preempt := value }
  let s2 := due.foldl (fun s n =>
    let i : CtxId := { crew := crew, n := n }
    (s.updCtx i fun c => { c with pendPre := true }).push (.interruptEntry i)) s1
  onUnit (decide (crew < 1024)) (if old &&& ~~~value ≠ 0 then s2.push (.contextTakesRecord crew) else s2)

/-! The splits buffer (R325, R327). -/

/-- Whether a splits-full interrupt is pending on a context or handled by it. -/
def Ctx.drainsSplits (c : Ctx) : Bool := c.pendSplits || c.inSplits
/-- An event of the cox or of a slice does not fit: the lowest FREE or ACTIVE context is interrupted, as soon as there is one.
[DEDUCED, log 39] -/
def execSplitsFull (crew : Nat) (s : State) : Out :=
  let k := s.crewAt crew
  onUnit (decide (crew < 1024)) (if !splitsFull? k.splitctl || k.ctxs.any (fun p => p.2.drainsSplits) then s
    else
      match (List.range 32).find? fun n => let c := k.ctxAt n; (c.st == .free || c.st == .active) && !c.stopped with
      | none => s.after 16 (.splitsFull crew)
      | some n => (s.updCtx { crew := crew, n := n } fun c => { c with pendSplits := true }).push (.interruptEntry { crew := crew, n := n }))

/-- Element 0 of a job's counter line, whose address stands in the record of a phase's first launch. -/
def State.phaseCount (s : State) (p : Phase) (o : Nat) : Option (Nat × Nat) :=
  match p.launches with
  | [] => none
  | r :: _ => (s.hwPa (BitVec.ofNat 64 (r.2 / 256 ^ o % 2 ^ 64))).map fun a => (lineOf a, ((s.memLine (lineOf a)).extractLsb' 0 32).toNat)
/-- A join that the stakeboat did not make has reached a line, which stood as in `was`: a phase whose PCOUNT it brings to NGRAPH ends here
too, and a JCOUNT may complete its job (R308, R311). [DEDUCED, log 69] -/
def State.counterMoved (s : State) (l : Nat) (was : State) : State :=
  s.pkg.jobs.foldl (fun t p =>
    p.2.phases.foldl (fun t q =>
      let ends := !q.2.done && s.phaseCount q.2 0x78 == some (l, q.2.ngraph) && was.phaseCount q.2 0x78 != some (l, q.2.ngraph)
      let t1 := if ends then t.updJob p.1 fun j => j.updPhase q.1 fun x => { x with done := true } else t
      if ends || (s.phaseCount q.2 0x80).map Prod.fst == some l then t1.push (.phaseBoundary p.1) else t1) t) s

/-- A held join is performed for its launch where it is held: in the slice's delta, else at the home; its write is then counted. -/
def State.performHeld (s : State) (h : HeldJoin) : State :=
  let s0 := { s with actor := h.join.launch }
  let x := match s0.absorber h.agent h.line with
    | some c => s0.joinDelta h.agent h.line c h.join h.owed
    | none => s0.joinAtHome h.line h.join h.owed
  let s1 := { x.1 with actor := s.actor }.counterMoved h.line s
  match x.2 with
  | .held => s1
  | .poisoned => s1.resolvePart h.owed (some .poisoned)
  | _ => s1.resolvePart h.owed none
/-- Joins that slices hold are performed, oldest first, while the buffers have room (R327). -/
def State.serveHeld (s : State) : List HeldJoin → State
  | [] => s
  | h :: r =>
    let ctl := (s.crewAt (loggingCrew h.agent)).splitctl
    if splitsJoins ctl && splitsFull? ctl then
      let t := s.serveHeld r
      { t with heldJoins := h :: t.heldJoins }
    else (s.performHeld h).serveHeld r

/-- A write of `SPLITCTL` (R325): EN, GRANTS, CSRS, JOINS and TAIL change, and what waited for room is recorded. -/
def execSplitctlWrite (crew : Nat) (value : Word) (s : State) : Out :=
  let m : Word := 0x00000FFF0000000F#64
  let s1 := s.updCrew crew fun k => { k with splitctl := (k.splitctl &&& ~~~m) ||| (value &&& m) }
  let s2 := s1.splitsFlush crew (s1.crewAt crew).splitsHeld.length
  let s3 := ({ s2 with heldJoins := [] }.serveHeld s2.heldJoins).releaseLines (s2.heldJoins.map HeldJoin.line)
  let s4 := if s3.splitsWaits crew then s3.push (.splitsFull crew) else s3
  onUnit (decide (crew < 1024)) ((s4.queueMode crew).push (.contextTakesRecord crew))

/-! Words and fetches that are no instruction (R115, R144). -/

/-- A word that is no defined instruction, or breaks a field rule: a precise trap of class 0. -/
def execNotAnInstruction (word : BitVec 32) (s : State) : Out :=
  match decode word with
  | .error c => (Res.trap c (word.setWidth 64) s).close
  | .ok _ => .next s
/-- A fetch that fails (R144, R405): access kind fetch, `TVAL` = PC; poison may start a rollback instead. -/
def execInstructionFetchFault (reason : Nat) (s : State) : Out := (s.readFault .fetch reason s.pc).close

/-! Context images (R397). -/

/-- CSTATE: HANDLER for a context that waits or stands in system mode, ACTIVE for one that waits in task mode. -/
def Ctx.cstate (c : Ctx) : Nat :=
  (match c.st with
    | .free => 0
    | .active => 1
    | .stalled => if c.depth = 0 then 1 else 3
    | .handler => 3
    | .blocked => 4) + ctlBit c.halted 3
/-- One map entry: the kind, the parameter fields and the captured index handle. -/
def TMap.word (m : TMap) : Nat :=
  let p := m.param.toNat
  m.kind % 16 + 2 ^ 4 * (p % 64) + 2 ^ 10 * (p / 2 ^ 8 % 64) + 2 ^ 16 * (p / 2 ^ 16 % 64) + 2 ^ 22 * (p / 2 ^ 24 % 64) +
    2 ^ 28 * m.index.toNat
def TMap.ofWord (w : Nat) : TMap where
  kind := w % 16
  param := BitVec.ofNat 64 (w / 2 ^ 4 % 64 + 2 ^ 8 * (w / 2 ^ 10 % 64) + 2 ^ 16 * (w / 2 ^ 16 % 64) + 2 ^ 24 * (w / 2 ^ 22 % 64))
  index := BitVec.ofNat 32 (w / 2 ^ 28)
/-- Values of some width, the first lowest. -/
def packNat (w : Nat) (l : List Nat) : Nat := l.foldr (fun v a => v % 2 ^ w + 2 ^ w * a) 0
/-- The map of a handle register; the identity where none was set (R246). -/
def Ctx.mapAt (c : Ctx) (r : Nat) : TMap := mget TMap.ident c.maps r

/-- The 1 KiB image of a context. -/
def Ctx.image (c : Ctx) : Nat :=
  packNat 64 ([c.record.toNat, c.pc.toNat, c.cstate, c.tstatus.toNat] ++ (c.x.toList.drop 1).map BitVec.toNat ++
    [c.p.toNat ||| 1, c.l0.ls.toNat, c.l0.le.toNat, c.l0.lc.toNat, c.l1.ls.toNat, c.l1.le.toNat, c.l1.lc.toNat] ++
    c.tsh.toList.map BitVec.toNat) +
  2 ^ (8 * 0x290) * packNat 32 (c.t.toList.map BitVec.toNat) +
  2 ^ (8 * 0x2D0) * packNat 64 ((List.range 16).map (fun r => (c.mapAt r).word) ++
    [c.fp.fpctl, c.fp.fpflags, c.fp.k4lo, c.fp.k4hi, c.trap.tcause, c.trap.tval, c.trap.tepc, c.trap.tdpc, c.trap.tscratch,
     c.mprog].map BitVec.toNat ++ [c.req])
/-- A context whose image is read back. -/
def Ctx.reload (c : Ctx) (v : Nat) : Ctx :=
  let w := fun (o : Nat) => BitVec.ofNat 64 (v / 256 ^ o)
  let cs := (w 0x10).toNat
  let st : CState := match cs % 8 with | 0 => .free | 1 => .active | 4 => .blocked | _ => .handler
  let lp := fun (o : Nat) => ({ ls := w o, le := w (o + 8), lc := w (o + 16) } : Loop)
  { c with
    record := w 0, pc := w 8, st := st, wait := none, answer := none, freezeAt := none, halted := cs / 8 % 2 == 1
    x := Vector.ofFn fun r : Fin 64 => if r.val = 0 then 0 else w (0x20 + 8 * (r.val - 1))
    p := BitVec.ofNat 8 (w 0x218).toNat ||| 1, l0 := lp 0x220, l1 := lp 0x238
    tsh := Vector.ofFn fun r : Fin 8 => w (0x250 + 8 * r.val)
    t := Vector.ofFn fun r : Fin 16 => BitVec.ofNat 32 (v / 256 ^ (0x290 + 4 * r.val))
    maps := (List.range 16).map fun r => (r, TMap.ofWord (w (0x2D0 + 8 * r)).toNat)
    fp := { fpctl := w 0x350, fpflags := w 0x358, k4lo := w 0x360, k4hi := w 0x368 }
    trap := { tstatus := w 0x18 &&& ~~~(0x70000#64), tcause := w 0x370, tval := w 0x378, tepc := w 0x380, tdpc := w 0x388, tscratch := w 0x390 }
    mprog := w 0x398, req := (w 0x3A0).toNat % 128 }

/-- Where a context's vector registers are saved (R395). -/
def State.vsaveAt (s : State) (i : CtxId) : Nat := s.pkg.pkgid * 2 ^ 41 + (s.crewAt i.crew).vsave.toNat + 8192 * i.n
/-- Writes a context's image and vector registers (R397); no undo log holds these writes. -/
def State.saveImage (s : State) (i : CtxId) : State :=
  let c := s.ctxAt i
  let s1 := s.updCrew i.crew fun k => { k with sysbank := k.sysbank.writeN (0x3000 + 1024 * i.n) 1024 c.image }
  let s2 := (List.range 64).foldl (fun t j =>
    t.hwWrite (s.vsaveAt i + 128 * j) 128 ((c.getV (BitVec.ofNat 5 (j / 2))).extractLsb' (1024 * (j % 2)) 1024).toNat) { s1 with actor := noLaunch }
  { s2 with actor := s.actor }
/-- Reads them back (R401). -/
def State.loadImage (s : State) (i : CtxId) : State :=
  let v := (s.crewAt i.crew).sysbank.readN (0x3000 + 1024 * i.n) 1024
  s.updCtx i fun c => { c.reload v with
    stopped := false, v := Vector.ofFn fun r : Fin 32 => BitVec.ofNat 2048 (s.readPa (s.vsaveAt i + 256 * r.val) 256) }

/-- Interrupts that contexts of a crew hold pending are tried again (R388). -/
def State.retryInterrupts (s : State) (k : Nat) : State :=
  ((s.crewAt k).ctxs.filter fun p => p.2.pending).foldl (fun s p => s.push (.interruptEntry { crew := k, n := p.1 })) s

/-! Debug freeze, power gating and crew reset (R402, R424). -/

/-- The engine events of a crew's pending work. -/
def State.restartEngines (s : State) (k : Nat) : State :=
  let c := s.crewAt k
  let owners := c.ctxs.map (fun p => p.1) ++ c.parked.map fun p => 64 + p.1
  let s1 := owners.foldl (fun s n => (List.range 4).foldl (fun s q => s.runQueue { crew := k, n := n } q) s) s
  if c.writeOuts = [] then s1 else s1.push (.writeOutLine k)

/-- FROZEN (R395, R402): the crew's engines stop at once, and go on when it is cleared. -/
def execDebugFreeze (crew : Nat) (on : Bool) (s : State) : Out :=
  let s1 := s.updCrew crew fun k => { k with frozen := on }
  onUnit (decide (crew < 1024)) (if on then s1 else s1.restartEngines crew)

/-- Whether any engine of a crew has work that is not halted. -/
def Crew.engineWork (c : Crew) : Bool :=
  c.copyQueues.any (fun q => q.entries != [] && !q.halted) || c.writeOuts != [] || c.colls.any fun p => p.2.busy

/-- Power gating (R402): taken by a crew whose contexts are all FREE and whose engines have drained; its L1 is written back. [DEDUCED, log 77] -/
def execCrewPowerGating (crew : Nat) (on : Bool) (s : State) : Out :=
  let k := s.crewAt crew
  onUnit (decide (crew < 1024)) (if !on then ((s.updCrew crew fun k => { k with gated := false }).retryInterrupts crew).push (.contextTakesRecord crew)
    else if k.engineWork || k.ctxs.any (fun p => p.2.st != .free) then s
    else
      let s1 := { s with copies := s.copies.map fun (p : Nat × Copy) => (p.1, p.2.leftBy crew) }
      s1.updCrew crew fun k => { k with gated := true })

/-- The records of a crew's pinned continuations (R44), with their homes. -/
def State.pinnedOn (s : State) (k : Nat) : List (Nat × Home) :=
  s.homes.filter fun p =>
    let r := BitVec.ofNat 64 p.1
    s.recordFlags r / 2 % 2 == 1 && s.recordFlags r / 32 % 2 == 0 &&
      s.crewOfLogical (s.recRead r 0x3E 2 / 64 % 32) (s.recRead r 0x3E 2 / 2048 % 32) == some k
/-- Retires the tasks of a crew's contexts and of its pinned continuations as faulted, each with a report (R403, R424), once the splits
buffer can record the stop (R327). -/
def State.retireCrew (s : State) (k code : Nat) (rolls : Nat → Bool) : State :=
  let s1 := ((s.crewAt k).ctxs.map Prod.fst).foldl (fun s n =>
    let i : CtxId := { crew := k, n := n }
    let c := s.ctxAt i
    if c.hasTask && !c.ending && !rolls c.launch.toNat then (s.fatalReport i code 0 c.pc).endTask i true else s) s
  ((s1.pinnedOn k).filter fun p => !rolls (s1.recordLaunch (BitVec.ofNat 64 p.1))).foldl (fun s p =>
    let r := BitVec.ofNat 64 p.1
    (s.post (taskReport 0x11 p.1 0 (s.recordLaunch r) p.2.serial.toNat 0 code)).retireRecord r .faulted) s1

/-- CRESET (R424): every context of the crew is discarded, its tasks are retired as faulted, and its nodes, copies and tile slots
go; the crew's CSRs take their reset values (R28), which empties its splits buffer first and serves what waited for room in it. [DEDUCED, log 76] -/
def execCreset (crew : Nat) (s : State) : Out :=
  let s0 := s.updCrew crew fun k => { k with splitctl := 0, splitsHeld := [], ctxs := k.ctxs.map fun (p : Nat × Ctx) => (p.1, if p.2.ending then { p.2 with wait := none } else p.2) }
  let s1 := s0.retireCrew crew 0x169 fun _ => false
  let s2 := ((s1.crewAt crew).ctxs.map Prod.fst).foldl (fun s n => s.dropContextWatches { crew := crew, n := n }) s1
  let s3 := s2.updCrew crew fun k => { k with
    ctxs := [], nodes := [], writeOuts := [], parked := [], pins := [], colls := []
    tiles := k.tiles.map fun (p : Nat × Tile) => (p.1, if p.2.alloc then p.2.freed else p.2)
    bfmt := [], cycleBase := s.clock, cfault := false
    thvec := if k.logical.isSome then BitVec.ofNat 64 s.pkg.boot.mvbase else 0 }
  onUnit (decide (crew < 1024)) ({ s3 with arrivals := s3.arrivals.filter fun a => a.ctx.crew != crew }.push (.splitctlWrite crew 0))

/-! Errors of the SRAM arrays (R403). -/

/-- Poisons a line at its home, its pre-image logged first (R407). -/
def State.poisonLine (s : State) (l : Nat) : State := (s.undoAppend l).updMeta l fun m => { m with poison := true }

/-- A crew faults: its contexts write their images, and the jobs whose partition it belongs to roll back, or its tasks are retired, those of
its ready queue too; it is quarantined for a re-run (R309, R403, R409). -/
def State.faultCrew (s : State) (k : Nat) : State :=
  let ls := (s.slots.filter fun p => p.2.running && p.2.crews.contains k).map fun p => p.2.launch
  let jobs := (ls.filterMap s.rollbackFor).eraseDups
  let queued := ((s.crewAt k).queue.entries ++ (s.crewAt k).queue.waiting).map Entry.record
  let s0 := (ls.filter fun l => (s.rollbackFor l).isNone).foldl State.noteAbandoned s
  let s1 := (List.range 32).foldl (fun s n => s.saveImage { crew := k, n := n }) s0
  let s2 := (s1.updCrew k fun c => { c with cfault := true, writeOuts := [] }).retireCrew k 0x169 fun l => (s.rollbackFor l).isSome
  let s3 := (queued.filter fun r => (s.rollbackFor (s.recordLaunch r)).isNone).foldl (fun s r =>
    (s.post (taskReport 0x11 r.toNat 0 (s.recordLaunch r) (s.serialOf r).toNat 0 0x169)).retireRecord r .faulted) s2
  jobs.foldl (fun s j => s.push (.rollbackRestart j)) s3

/-- A clean line leaves a crew's L1 and its instruction cache: `item` is the physical line, or the key of the cached code line. -/
def State.dropCrewLine (s : State) (k item : Nat) : State :=
  { s with copies := s.copies.map fun (p : Nat × Copy) => (p.1, if p.1 % 2 ^ 49 = item then p.2.leftBy k else p.2) }.updCrew k fun c =>
    { c with icache := mdel c.icache item }
/-- An uncorrectable error: `unit` and `item` name the crew and context; the agent, or 0x8000 + the crew of an L1 or instruction cache, and
the line; the crew and an element of a slot (4096 × slot + 64 × row + column), or 1024 + the crew and a word of a slot's scales (4096 ×
slot + word); the crew; the slice; or the slice and page, or 128 + the die and an entry of its walk cache. [DEDUCED, log 79] -/
def execUncorrectableError (array : SramArray) (unit item : Nat) (s : State) : Out :=
  match array with
  | .registers =>
    let i : CtxId := { crew := unit, n := item }
    let c := s.ctxAt i
    onUnit (decide (unit < 1024) && decide (item < 32)) (match s.rollbackFor c.launchId with
      | some job => (s.updCtx i fun c => { c with stopped := true }).push (.rollbackRestart job)
      | none =>
        let s1 := s.noteAbandoned c.launchId
        if c.hasTask then (s1.fatalReport i 0x168 0 c.pc).endTask i true
        else if c.boot then s1.fatalStop i
        else if c.st = .free then s1 else s1.freeContext i)
  | .cleanLine =>
    onUnit (isAgent unit || (decide (0x8000 ≤ unit) && decide (unit < 0x8400))) (match s.copyAt? unit item with
      | some c => if c.st = .m ∨ c.st = .o ∨ c.st = .d then s else s.dropCopy unit item
      | none => if 0x8000 ≤ unit then s.dropCrewLine (unit - 0x8000) item else s)
  | .dirtyLine =>
    onUnit (isAgent unit) (match s.copyAt? unit item with
      | some c => if c.st = .m ∨ c.st = .o ∨ c.st = .d then (s.evict unit item).poisonLine item else s
      | none => s)
  | .scratchpad =>
    let slot := item / 4096
    let g := item % 4096
    let t := s.tileAt unit slot
    let b := fmtBits (bfFmt (s.bankFmt unit t.bank))
    let w := g * b / 64
    let hit := (List.range 4096).filter fun h => decide (h * b / 64 ≤ w) && decide (w ≤ (h * b + b - 1) / 64)
    onUnit (decide (unit < 2048)) (if unit < 1024 then s.updTile unit slot fun t => { t with bad := t.bad ++ hit.filter fun h => !t.bad.contains h }
      else s.updTile (unit - 1024) slot fun t => { t with bad := t.bad ++ [4096 + g].filter fun h => !t.bad.contains h })
  | .crewState => onUnit (decide (unit < 1024)) (s.faultCrew unit)
  | .sliceState => onUnit (decide (unit < 128)) ((List.range 256).foldl (fun s c => s.faultCrew (crewOfDie (unit / 32) c)) s)
  | .walkCache => onUnit (decide (unit < 132)) (if unit < 128 then { s with leaves := mdel s.leaves (unit * 2 ^ 39 + item) }
    else { s with walks := mdel s.walks ((unit - 128) * 2 ^ 41 + item) })

end Sys2Proof.Machine
end

