-- ==== Sys2Proof/Machine/Stake.lean ====
section
/-!
DEFINITION. The stakeboat (R302–R314): acceptance, release and completion of launches, phase boundaries, control words, the
Umpire (R324), and rollback (R406–R412).
-/
namespace Sys2Proof.Machine

/-! Acceptance (R303, R307, R309, R310, R312). -/

/-- The kind of the page of an address, if it is mapped. -/
def State.kindOf (s : State) (va : Nat) : Option Nat :=
  match s.walk (BitVec.ofNat 64 va) needNone with
  | .ok l => if va < 2 ^ 55 then some l.kind else none
  | .error _ => none
/-- `n` bytes at a virtual address as the hardware reads them, page by page. -/
def State.readVa (s : State) (va : Nat) : Nat → Nat
  | 0 => 0
  | n + 1 => (match s.hwPa (BitVec.ofNat 64 va) with | some p => (s.byteAt p).toNat | none => 0) + 256 * s.readVa (va + 1) n

/-- One reason of a rejection, when a check fails. -/
def failsWith (r : Nat) (bad : Bool) : List Nat := if bad then [r] else []
/-- A field of an image. -/
def imageField (v off n : Nat) : Nat := v / 256 ^ off % 256 ^ n
/-- Whether a page that some bytes lie in is of none of some kinds. -/
def State.kindsBad (s : State) (va n : Nat) (kinds : List Nat) : Bool :=
  (List.range ((va % 65536 + n + 65535) / 65536)).any fun i =>
    match s.kindOf (va / 65536 * 65536 + 65536 * i) with | some k => !kinds.contains k | none => true
/-- Alignment and kind of a table of `n` bytes the record names. -/
def State.tableReasons (s : State) (va n align : Nat) (kinds : List Nat) : List Nat :=
  failsWith 1 (va % align != 0) ++ failsWith 2 (s.kindsBad va n kinds)
/-- A counter line: a lattice line typed CNT.w (R307). -/
def State.counterReasons (s : State) (va : Nat) : List Nat :=
  failsWith 1 (va % 128 != 0) ++
    failsWith 2 (match s.hwPa (BitVec.ofNat 64 va) with
      | some p => s.kindOf va != some 2 || (s.metaOf (lineOf p)).type != 4 || (s.metaOf (lineOf p)).width != 2
      | none => true)

/-- Whether a shape record breaks R312; a dimension of 0 and a tile side above 64 break it too. [DEDUCED, log 137] -/
def shapeRecordBad (v : Nat) : Bool :=
  let f := fun (o n : Nat) => imageField v o n
  let fmt := f 0x20 1 % 16
  let sc := f 0x20 1 / 16 % 4
  let cols := f 0x25 1 + 1
  f 0x2A 2 != 0 || f 0x34 12 != 0 || decide (64 ≤ f 0x20 1) || decide (5 ≤ f 0x21 1) || decide (64 ≤ f 0x23 1) ||
    decide (64 ≤ f 0x24 1) || decide (64 < cols) || f 0x18 4 == 0 || f 0x1C 4 == 0 || !scaleAllowed fmt sc ||
    (memBits fmt == 4 && cols % 2 != 0) || (memBits fmt == 6 && cols % 4 != 0) || (sc == 1 && cols % 32 != 0) ||
    (sc == 2 && !(f 0x24 1 == 63 && cols == 64))
/-- Whether an arena entry breaks R310. -/
def State.arenaBad (s : State) (v : Nat) : Bool :=
  let base := imageField v 0 8
  base % 128 != 0 || imageField v 8 4 == 0 || decide (2 ≤ imageField v 12 4) || s.kindOf base != some 2

/-- The physical crews a record names, in ascending L (R309). -/
def State.crewsOf (s : State) (v : Nat) : List Nat :=
  let pmap := s.readVa (imageField v 0x40 8) 128
  let quar := if imageField v 0x48 8 = 0 then 0 else s.readVa (imageField v 0x48 8) 128
  (List.range s.pkg.boot.nlog).filterMap fun l =>
    if pmap.testBit l then
      match s.crewOfLogical (l % 32) (l / 32) with
      | some k => if quar.testBit k then none else some k
      | none => none
    else none
/-- The other packages of a launch (R309): 63 at most, whatever NPKG holds, and bit 15 of an id counts for nothing. [DESIGN CHOICE, log 136] -/
def State.packagesOf (s : State) (v : Nat) : List Nat :=
  let a := imageField v 0x40 8
  (List.range (min 63 (s.readVa (a + 0x80) 2))).map fun i => s.readVa (a + 0x82 + 2 * i) 2 % 2 ^ 15
def State.arenasOf (s : State) (v : Nat) : List Nat :=
  (List.range (imageField v 0x2C 2)).map fun i => s.readVa (imageField v 0x38 8 + 16 * i) 16
def State.shapesOf (s : State) (v : Nat) : List Nat :=
  (List.range (imageField v 0x1D 1)).map fun i => s.readVa (imageField v 0x30 8 + 64 * i) 64

/-- A bank format request of a record (R307). -/
def bankRequest (v n : Nat) : Nat := imageField v (0xBA + 3 * n) 3
/-- Whether the bank format requests break R307. -/
def requestsBad (v : Nat) : Bool :=
  decide (2 ^ 15 ≤ imageField v 0xB8 2) || (List.range 15).any fun n =>
    if (imageField v 0xB8 2).testBit n then bankFmtBad (BitVec.ofNat 64 (bankRequest v n)) else bankRequest v n != 0

/-- Every reason for which a record is refused (R307). SHAPES and ARENAS name nothing, and are not checked, when NSHAPE or NARENA is 0;
PMAP and QUAR may lie in ordinary or frozen pages. [DESIGN CHOICE, log 116; DEDUCED, log 135] -/
def State.launchReasons (s : State) (v : Nat) : List Nat :=
  let f := fun (o n : Nat) => imageField v o n
  let job := s.pkg.jobs.find? fun p => p.1 == f 0x18 4
  let jb := s.jobAt (f 0x18 4)
  let ph := (mget? jb.phases (f 0x16 2)).filter fun p => p.launches != []
  let differs := fun (o : Option Nat) (n : Nat) => match o with | some m => m != n | none => false
  let tables : List Nat := (if f 0x1D 1 = 0 then [] else s.tableReasons (f 0x30 8) (64 * f 0x1D 1) 64 [0, 3]) ++
    (if f 0x2C 2 = 0 then [] else s.tableReasons (f 0x38 8) (16 * f 0x2C 2) 16 [0, 3]) ++ s.tableReasons (f 0x40 8) 256 256 [0, 3] ++
    (if f 0x48 8 = 0 then [] else s.tableReasons (f 0x48 8) 128 128 [0, 3]) ++ s.tableReasons (f 0x50 8) (192 * f 0x58 4) 64 [1] ++
    s.tableReasons (f 0x60 8) (64 * f 0x5C 4 + 16) 64 [1] ++
    (if f 0xB0 8 = 0 then failsWith 1 (f 0xA8 8 % 65536 != 0) else s.tableReasons (f 0xA8 8) (f 0xB0 8) 65536 [0])
  let counters := [f 0x68 8, f 0x70 8, f 0x78 8, f 0x80 8] ++ [f 0x90 8, f 0xA0 8].filter fun a => a != 0
  let values := decide (4 ≤ f 0x1C 1) || decide (8 < f 0x1D 1) || decide (64 < f 0x2C 2) || decide (2 ≤ f 0x2E 2) ||
    [0, 2, 4].any (fun o => decide (f (0x26 + o) 2 < f (0x20 + o) 2)) || f 0x58 4 == 0 ||
    !(decide (16 ≤ f 0x5C 4) && decide (f 0x5C 4 ≤ 65536) && 2 ^ (f 0x5C 4).log2 == f 0x5C 4) || f 0x88 4 == 0 || f 0x8C 2 == 0 ||
    f 0x8E 2 == 0 || requestsBad v || f 0xE7 24 != 0 ||
    (match ph with | some p => p.undo != f 0xA8 8 || p.undolen != f 0xB0 8 | none => false)
  failsWith 1 (f 0 8 % 4 != 0 || decide (2 ^ 55 ≤ f 0 8) || f 0xB0 8 % 65536 != 0) ++ tables ++ counters.flatMap s.counterReasons ++
    failsWith 3 values ++ failsWith 4 (s.slotOf (f 0x10 4)).isSome ++
    failsWith 5 (differs (mget? jb.graphs (65536 * f 0x16 2 + f 0x14 2)) (f 0x88 4) || differs (ph.map Phase.ngraph) (f 0x8C 2) ||
      differs (job.map fun p => p.2.nphase) (f 0x8E 2)) ++
    failsWith 6 ((s.shapesOf v).any shapeRecordBad) ++ failsWith 7 ((s.arenasOf v).any s.arenaBad) ++ failsWith 8 (s.crewsOf v == [])

/-- The words of a phase's undo region (R406). -/
def State.undoWord (s : State) (undo len off v : Nat) : State :=
  let va := BitVec.ofNat 64 (undo + len / 64 + off)
  match s.hwPa va with
  | some p => { ({ s with actor := noLaunch }.hwWrite p 8 v) with actor := s.actor }
  | none => s
/-- A phase's undo log starts empty; a phase of more than 64 accepted launches keeps none (R406, R408). -/
def State.startUndo (s : State) (p : Phase) : State :=
  if p.undolen = 0 then s
  else
    let words := [0, undoCap p.undolen, if 64 < p.launches.length then 2 else 0, 0, 0, 0, 0, 0]
    (List.range 8).foldl (fun s j => s.undoWord p.undo p.undolen (0x4000 + 8 * j) (words.getD j 0)) s
/-- An accepted record is copied into its phase's undo region; a 65th ends the phase's undo (R406, R408). -/
def State.copyLaunch (s : State) (p : Phase) (v : Nat) : State :=
  let n := p.launches.length
  if p.undolen = 0 then s
  else if n < 64 then (List.range 32).foldl (fun s j => s.undoWord p.undo p.undolen (256 * n + 8 * j) (imageField v (8 * j) 8)) s
  else s.undoWord p.undo p.undolen 0x4010 2

/-- Registers the watch of a dependency (R308). -/
def State.awaitDep (s : State) (i d va n : Nat) : State :=
  match s.hwPa (BitVec.ofNat 64 va) with
  | none => s
  | some p => s.registerWatch {
      line := lineOf p, elem := 0, ltype := .cnt, width := 2, trigs := [BitVec.ofNat 64 n], waiter := .launch i d, hostWait := false }

/-- What the job, phase and graph of an accepted record keep (R307). -/
def State.noteLaunch (s : State) (i v : Nat) : State :=
  let f := fun (o n : Nat) => imageField v o n
  let g := 65536 * f 0x16 2 + f 0x14 2
  let isNew := (mget? s.pkg.jobs (f 0x18 4)).isNone
  s.updJob (f 0x18 4) fun j =>
    let j0 := if isNew then { j with phase := f 0x16 2, nphase := f 0x8E 2 } else j
    let p0 : Phase := (mget? j0.phases (f 0x16 2)).getD {
      ngraph := f 0x8C 2, undo := f 0xA8 8, undolen := f 0xB0 8, launches := [], cancelled := false, done := false }
    let p1 := if p0.ngraph = 0 then { p0 with ngraph := f 0x8C 2, undo := f 0xA8 8, undolen := f 0xB0 8 } else p0
    { j0 with
      phases := mput j0.phases (f 0x16 2) { p1 with launches := p1.launches ++ [(i, v)] }
      graphs := mput j0.graphs g (f 0x88 4) }

/-- Accepts a checked record (R308): the launch is held; cancels of its levels that came before reach it too. [DEDUCED, log 62; DEDUCED, log 63] -/
def State.acceptLaunch (s : State) (i v : Nat) : State :=
  let f := fun (o n : Nat) => imageField v o n
  let s0 := s.setSlot i fun x => { Slot.fresh with
    seq := x.seq, state := 1, launch := f 0x10 4, image := v, dep0 := f 0x90 8 == 0, dep1 := f 0xA0 8 == 0
    crews := s.crewsOf v, pkgs := s.packagesOf v
    arenas := (s.arenasOf v).map fun a => (imageField a 0 8, imageField a 8 4, (imageField a 12 4).testBit 0) }
  let firstOfJob := (mget? s.pkg.jobs (f 0x18 4)).isNone
  let s1 := s0.noteLaunch i v
  let p := (s1.jobAt (f 0x18 4)).phaseAt (f 0x16 2)
  let s2 := (if firstOfJob then s1.startUndo p else s1).copyLaunch { p with launches := p.launches.dropLast } v
  let j := s2.jobAt (f 0x18 4)
  let level : Option (Nat × Nat) := if j.cancelled then some (3, f 0x18 4) else if p.cancelled then some (2, f 0x16 2)
    else if j.gcancels.contains (65536 * f 0x16 2 + f 0x14 2) then some (1, f 0x14 2) else none
  match level with
  | some (l, ident) => s2.cancelSlot i l ident
  | none =>
    let s3 := if f 0x90 8 = 0 then s2 else s2.awaitDep i 0 (f 0x90 8) (f 0x98 4)
    let s4 := if f 0xA0 8 = 0 then s3 else s3.awaitDep i 1 (f 0xA0 8) (f 0x9C 4)
    (s4.push (.launchRelease i)).push (.phaseBoundary (f 0x18 4))

/-- A new SEQ has landed in a slot's last chunk (R303): the stakeboat reads and checks the record. -/
def State.seqLanded (s : State) (slot seq : Nat) : State :=
  let x := s.slotAt slot
  if seq = x.seq then s
  else if x.live? then s.setSlot slot fun y => { y with seq := seq, reason := 9 }
  else
    let s2 := s.setSlot slot fun y => { y with seq := seq }
    let v := s2.readPa (s.windowBase + 256 * slot) 256
    match (s2.launchReasons v).min? with
    | some r => s2.enterState slot 4 r
    | none => s2.acceptLaunch slot v

/-- A host write of a slot's last chunk (R303). Without CXL the part takes no launch (R413). -/
def execSeqChunkWrite (slot : Nat) (chunk : BitVec 512) (s : State) : Out :=
  let s1 := { ({ s with actor := noLaunch }.hwWrite (s.windowBase + 256 * slot + 0xC0) 64 chunk.toNat) with actor := s.actor }
  onUnit (decide (slot < 16)) (if !s.pkg.fields.cxlup then s else s1.seqLanded slot (chunk.toNat / 256 ^ 63))

/-! Release (R308, R314, R317). -/

/-- `Assign` (R314); the first argument bounds the depth. -/
def assignParts : Nat → Box → List Nat → List (Nat × Box)
  | 0, b, p => (p.take 1).map fun k => (k, b)
  | n + 1, b, p =>
    if p.length ≤ 1 ∨ b.count = 1 then (p.take 1).map fun k => (k, b)
    else
      let h := b.halve
      let m := (p.length + 1) / 2
      assignParts n h.1 (p.take m) ++ assignParts n h.2 (p.drop m)
/-- The box CSTART..CEND of a launch. -/
def Slot.box (x : Slot) : Box where
  x0 := x.field 0x20 2
  y0 := x.field 0x22 2
  z0 := x.field 0x24 2
  x1 := x.field 0x26 2
  y1 := x.field 0x28 2
  z1 := x.field 0x2A 2
def Slot.parts (x : Slot) : List (Nat × Box) := assignParts x.crews.length x.box x.crews

/-- The record of a part (R314 step 4). -/
def Slot.partRecord (x : Slot) (b : Box) : Nat :=
  let range := decide (1 < b.count)
  let c := b.x0 + 2 ^ 16 * b.y0 + 2 ^ 32 * b.z0
  let e := b.x1 + 2 ^ 16 * b.y1 + 2 ^ 32 * b.z1
  x.field 0 16 + 256 ^ 0x24 * x.launch + 256 ^ 0x28 * c + 256 ^ 0x2E * range.toNat + 256 ^ 0x30 * (if range then e else 0) +
    256 ^ 0x36 * x.field 0x1E 2 + 256 ^ 0x3A * (x.field 0x1C 1 % 4) + 256 ^ 0x3B

/-- Shape records and bank format requests reach a participating crew (R131, R312, R314). -/
def State.equipCrew (s : State) (x : Slot) (k : Nat) : State :=
  let s1 := s.updCrew k fun c => { c with
    sysbank := (List.range x.shapes.length).foldl (fun m j => m.writeN (64 * j) 64 (x.shapes.getD j 0)) c.sysbank
    icache := [], cfault := false }
  (List.range 15).foldl (fun s n =>
    if (x.field 0xB8 2).testBit n then
      if (s.crewAt k).tiles.any (fun p => p.2.alloc && p.2.bank == n) then
        s.post (taskReport 0x18 n ((s.crewAt k).logical.getD 0) x.launch 0 0 0)
      else s.updCrew k fun c => { c with bfmt := mput c.bfmt n (BitVec.ofNat 64 (bankRequest x.image n)) }
    else s) s1

/-- Enqueues one part. -/
def State.placePart (s : State) (i : Nat) (p : Nat × Box) : State :=
  match s.takeRecord i with
  | none => s
  | some (r, s1) =>
    let x := s.slotAt i
    let prio := x.field 0x1C 1 % 4
    let s2 := (s1.putRecord r (x.partRecord p.2)).setHome r { crew := p.1, yielded := false, waits := false, serial := 0 }
    s2.deliver p.1 (.recordEnqueue p.1 r prio 34) (.enqueue r prio 34)

/-- Starts a launch whose STATE is 2 (R314 steps 2–4, R324), with the shape records as they now stand (R312). -/
def State.startLaunch (s0 : State) (i : Nat) : State :=
  let s := s0.updSlot i fun x => { x with shapes := s0.shapesOf x.image }
  let x := s.slotAt i
  let s1 := x.crews.foldl (fun s k => s.equipCrew x k) { s with actor := x.launch }
  let s2 := x.parts.foldl (fun s p => s.placePart i p) s1
  let s3 := x.crews.foldl (fun s k => s.push (.contextTakesRecord k)) s2
  { ((s3.progress x.launch).after (2 ^ s.pkg.fields.uwin) (.umpireWindowExpiry i)) with actor := s.actor }

/-- The watches of a held launch are removed. -/
def State.dropDeps (s : State) (i : Nat) : State :=
  let mine := fun (w : Watch) => match w.waiter with | .launch j _ => j == i | _ => false
  ((s.watches.filter mine).map Watch.line).foldl (fun s l => s.dropWatches mine l) s

/-- Whether a job is swapped out, or on its way out: none of its launches is placed (R399). -/
def State.jobOut (s : State) (job : Nat) : Bool :=
  s.pkg.recovery.out.contains job || (s.pkg.recovery.busy && s.pkg.recovery.active == job)
/-- A held launch is released when its dependencies and phase are met (R308, R314) and the boot is complete (R466), and rejected when a dependency cannot be met or
the pool holds too few records. -/
def execLaunchRelease (slot : Nat) (s : State) : Out :=
  let x := s.slotAt slot
  onUnit (decide (slot < 16)) (if x.state ≠ 1 ∨ x.cancelled then s
    else if x.depDead then (s.dropDeps slot).enterState slot 4 10
    else if !s.pkg.fields.booted ∨ !(x.dep0 && x.dep1) ∨ (s.jobAt x.job).phase ≠ x.phase ∨ s.jobOut x.job then s
    else if (s.freeRecords slot).length < x.parts.length then s.enterState slot 4 3
    else (s.enterState slot 2 0).startLaunch slot)

/-! Completion (R308, R311). -/

/-- An element of a counter line. -/
def State.counter (s : State) (va e : Nat) : Nat :=
  match s.hwPa (BitVec.ofNat 64 va) with
  | some p => ((s.memLine (lineOf p)).extractLsb' (32 * e) 32).toNat
  | none => 0
/-- A level that completes joins into its parent's counter (R47). -/
def State.levelJoin (s : State) (launch va : Nat) (cancelled faulted : Bool) : State :=
  s.countJoin launch va 1 cancelled.toNat faulted.toNat
/-- Whether a counter's join would wait: its line is busy, or it could not be recorded now (R327). [DEDUCED, log 67] -/
def State.counterBusy (s : State) (va : Nat) : Bool :=
  match s.hwPa (BitVec.ofNat 64 va) with
  | some p =>
    let c := (s.crewAt (loggingCrew (homeOf (lineOf p)))).splitctl
    s.lineBusy (lineOf p) || (splitsJoins c && splitsFull? c &&
      (match s.walk (BitVec.ofNat 64 va) needNone with | .ok l => l.log | .error _ => false))
  | none => false

/-- The joins of the levels above a launch that completes (R46, R47, R311). [DEDUCED, log 69] -/
def State.joinLevels (s : State) (i : Nat) (cancelled faulted : Bool) : State :=
  let x := s.slotAt i
  let j := s.jobAt x.job
  let g := x.field 0x70 8
  let p := x.field 0x78 8
  let jc := x.field 0x80 8
  let s1 := s.levelJoin x.launch g cancelled faulted
  if s1.counter g 0 ≠ x.field 0x88 4 then s1
  else
    let gc := s1.counter g 1 != 0 || j.cancelled || (j.phaseAt x.phase).cancelled || j.gcancels.contains (65536 * x.phase + x.graph)
    let s2 := s1.levelJoin x.launch p gc (s1.counter g 2 != 0)
    if s2.counter p 0 ≠ x.field 0x8C 2 then s2
    else
      let pc := s2.counter p 1 != 0 || j.cancelled || (j.phaseAt x.phase).cancelled
      let s3 := s2.levelJoin x.launch jc pc (s2.counter p 2 != 0)
      let s4 := s3.updJob x.job fun j => j.updPhase x.phase fun q => { q with done := true }
      s4.push (.phaseBoundary x.job)

/-- Tile slots the launch owns become unallocated (R281). [DEDUCED, log 68] -/
def State.freeLaunchTiles (s : State) (x : Slot) : State :=
  x.crews.foldl (fun s k => s.updCrew k fun c => { c with tiles := c.tiles.map fun (p : Nat × Tile) =>
    (p.1, if p.2.alloc && p.2.owner == 0 && p.2.launch.toNat == x.launch then p.2.freed else p.2) }) s

/-- Whether an event that waits for room in a splits buffer is of a launch (R311, R326). -/
def Slot.splitsEvent (x : Slot) (e : Nat × Nat × Nat × Nat) : Bool :=
  if e.1 = 10 then e.2.2.2 == x.launch else decide (e.1 ≤ 5) && (x.recordIndex (BitVec.ofNat 64 (64 * (e.2.2.2 % 2 ^ 50)))).isSome
/-- A launch whose live count is 0 completes (R311): its reports and splits events drain, its counters are joined and STATE is set. A held launch that is
cancelled completes at once (R308). While a counter's join cannot be recorded, the completion is delayed (R327). -/
def execLaunchComplete (slot : Nat) (s : State) : Out :=
  let x := s.slotAt slot
  let ready := x.taken == [] && (x.state == 2 || x.state == 5 || (x.state == 1 && x.cancelled))
  onUnit (decide (slot < 16)) (if !ready then s
    else if [x.field 0x70 8, x.field 0x78 8, x.field 0x80 8].any s.counterBusy ||
      x.crews.any (fun k => (s.crewAt k).splitsHeld.any x.splitsEvent) then s.after 16 (.launchComplete slot)
    else
      let s1 := ((s.dropDeps slot).settle).releaseHeld slot fun _ => true
      let s2 := s1.freeLaunchTiles x
      let s3 := { s2 with
        shadows := s2.shadows.filter fun e => e.launch != x.launch
        pkg := { s2.pkg with rounds := s2.pkg.rounds.filter fun r => r.launch != x.launch } }
      let y := s3.slotAt slot
      (s3.joinLevels slot (x.cancelled || y.anyCancelled) y.anyFaulted).enterState slot (if x.cancelled then 6 else 3) 0)

/-- The next phase of a job: the held phase with the lowest slot number (R308). -/
def State.nextPhase (s : State) (job : Nat) : Option Nat :=
  (((List.range 16).filter fun i => let x := s.slotAt i; x.state == 1 && x.job == job && x.phase != (s.jobAt job).phase).head?).map
    fun i => (s.slotAt i).phase

/-- A phase boundary (R50, R227, R308, R408): the recorded resets run, the next phase's undo log starts, and its launches may start.
A job whose counter JCOUNT has reached NPHASE is complete (R311). -/
def execPhaseBoundary (job : Nat) (s : State) : Out :=
  let j := s.jobAt job
  .next (if !(j.phaseAt j.phase).done then s
    else
      let s1 := j.resets.foldl (fun s a => (List.range a.2).foldl (fun s n =>
        match s.hwPa (BitVec.ofNat 64 (a.1 + 128 * n)) with
        | some p => s.resetArenaLine (lineOf p)
        | none => s) s) { s with actor := noLaunch }
      let s2 := { s1 with actor := s.actor }.updJob job fun j => { j with resets := [] }
      match s.nextPhase job with
      | some p =>
        let s3 := (s2.updJob job fun j => { j with phase := p }).startUndo (j.phaseAt p)
        ((List.range 16).filter fun i => (s3.slotAt i).state == 1 && (s3.slotAt i).job == job).foldl (fun s i =>
          s.push (.launchRelease i)) s3
      | none =>
        if j.nphase ≤ (match (j.phaseAt j.phase).launches with | q :: _ => s2.counter (imageField q.2 0x80 8) 0 | [] => 0)
        then { s2 with pkg := { s2.pkg with jobs := mdel s2.pkg.jobs job, rolled := s2.pkg.rolled.filter fun p => p.1 / 65536 != job } } else s2)

/-! Control words (R306). -/

/-- A control word is written back to 0. -/
def State.clearControl (s : State) (i : Nat) : State :=
  { ({ s with actor := noLaunch }.hwWrite (s.windowBase + 0x1100 + 8 * i) 8 0) with actor := s.actor }
/-- Cancels a slot's launch (R306 value 1). -/
def State.controlCancel (s : State) (slot : Nat) : State :=
  let x := s.slotAt slot
  (if x.live? then s.cancelSlot slot 0 x.launch else s).clearControl slot
def execControlCancel (slot : Nat) (s : State) : Out := onUnit (decide (slot < 16)) (s.controlCancel slot)
/-- The contexts of a launch. -/
def State.contextsOf (s : State) (launch : Nat) : List CtxId :=
  s.crews.flatMap fun p => (p.2.ctxs.filter fun q => q.2.hasTask && q.2.launch.toNat == launch).map fun q => { crew := p.1, n := q.1 }
/-- A release (R306 value 2, R324): contexts stalled by the Umpire wait again, and the window restarts. -/
def State.controlRelease (s : State) (slot : Nat) : State :=
  let x := s.slotAt slot
  (if x.state = 5 then
      let s1 := s.enterState slot 2 0
      let s2 := (s1.contextsOf x.launch).foldl (fun s i => s.updCtx i fun c =>
        if c.ublock then { c with ublock := false, st := .stalled } else c) s1
      let s3 := x.crews.foldl (fun s k => s.push (.contextTakesRecord k)) s2
      (s3.progress x.launch).after (2 ^ s.pkg.fields.uwin) (.umpireWindowExpiry slot)
    else s).clearControl slot
def execControlRelease (slot : Nat) (s : State) : Out := onUnit (decide (slot < 16)) (s.controlRelease slot)
/-- Cancels the job of a slot's launch (R306 value 3); on a slot without a live launch it takes no action. [DESIGN CHOICE, log 134] -/
def State.controlCancelJob (s : State) (slot : Nat) : State :=
  let x := s.slotAt slot
  (if x.live? then s.cancelJob x.job noLaunch else s).clearControl slot
def execControlCancelJob (slot : Nat) (s : State) : Out := onUnit (decide (slot < 16)) (s.controlCancelJob slot)
def execControlNoAction (slot : Nat) (s : State) : Out := onUnit (decide (slot < 16)) (s.clearControl slot)
/-- What a non-zero value of a control word does (R306). -/
def State.controlWord (s : State) (slot v : Nat) : State :=
  if v = 0 then s
  else if v = 1 then s.controlCancel slot
  else if v = 2 then s.controlRelease slot
  else if v = 3 then s.controlCancelJob slot
  else s.clearControl slot

/-! The Umpire (R324). -/

/-- The records of a launch in use, in ascending address. -/
def Slot.records (x : Slot) : List Word :=
  (x.taken.foldl (fun a j => insertSorted j a) []).map fun j => BitVec.ofNat 64 (x.pool + 192 * j)
/-- Whether a record is parked. -/
def State.isParked (s : State) (r : Word) : Bool :=
  (s.runner r).isNone && s.recordFlags r / 4 % 2 == 1 && s.recordFlags r / 32 % 2 == 0
/-- Whether a message works for a launch's records, or for the launch. -/
def msgOf (mine : Word → Bool) (launch : Nat → Bool) : Msg → Bool
  | .wake r _ | .decrement r _ _ | .enqueue r _ _ => mine r
  | .partialSum l _ _ _ _ => launch l
  | .reply _ _ _ | .stealAsk _ => false
/-- Whether an event carries a message for a launch's records, or for the launch. -/
def carries (mine : Word → Bool) (launch : Nat → Bool) : Instr → Bool
  | .recordEnqueue _ r _ _ | .joinCountDecrement r _ _ | .cancelDelivery r | .codeShadowFullRetire r _ _ | .stealReply _ r _ => mine r
  | .reductionPartial l _ _ => launch l
  | .messageSpill _ m => msgOf mine launch m
  | _ => false
/-- Whether a join that waits for a line, at a home, is a launch's. -/
def requestJoins (launch : Nat → Bool) : HomeRequest → Bool
  | .join j => launch j.launch
  | _ => false
/-- Whether a join on the links is a launch's. -/
def Flying.joinsFor (launch : Nat → Bool) (f : Flying) : Bool := match f.cargo with | .join j => launch j.launch | _ => false
/-- Whether a message between packages is a launch's. -/
def flitSends (launch : Nat → Bool) : FlitMsg → Bool
  | .join _ _ j => launch j.launch
  | .partialSum l _ _ => launch l
  | _ => false
/-- Whether a join, a write or a message of a launch is in flight (R324). -/
def State.inFlight (s : State) (x : Slot) : Bool :=
  let of := fun (l : Nat) => l == x.launch
  let mine := fun (r : Word) => r != 0 && s.recordLaunch r == x.launch
  s.heldJoins.any (fun h => of h.join.launch) || s.owed.any (fun o => (o.record.map mine).getD false) ||
    s.flying.any (fun f => f.joinsFor of) || s.pkg.flows.any (fun p => p.2.early.any fun q => flitSends of q.2) ||
    (s.busyList ++ s.retry).any (fun p => p.2.any fun r => requestJoins of r.2) ||
    s.crews.any (fun p => p.2.spill.any (msgOf mine of)) ||
    (s.events ++ s.timers.map Prod.snd).any (carries mine of) || s.pkg.flitsHeld.any fun f => flitSends of f.2.2
/-- Whether a launch is quiescent-dead. -/
def State.isDead (s : State) (x : Slot) : Bool :=
  let cs := (s.contextsOf x.launch).map s.ctxAt
  !cs.any (fun c => c.st == .active || c.st == .handler || c.st == .blocked || c.halted || c.ending ||
      (match c.wait with | some .step | some .freezing | some .tableFull => true | _ => false) || !c.vq.isEmpty || c.cnt.stores != 0 ||
      c.queues.toList.any fun q => q.entries != [] && !q.halted) &&
    !s.crews.any (fun p => (p.2.queue.entries ++ p.2.queue.waiting).any (fun e => s.recordLaunch e.record == x.launch) ||
      p.2.writeOuts.any (fun w => s.recordLaunch w.record == x.launch) || p.2.colls.any (fun c => c.2.busy && c.2.launch == x.launch) ||
      p.2.parked.any fun q => s.ownerLaunch (pinId p.1 q.1) == x.launch && q.2.toList.any fun y => y.entries != [] && !y.halted) &&
    !s.inFlight x && !x.records.any fun r => s.isParked r && s.recordFlags r / 16 % 2 == 1

/-- The end of a progress window: a launch that is quiescent-dead is stalled and reported, any other gets a new window. [DEDUCED, log 70] -/
def execUmpireWindowExpiry (slot : Nat) (s : State) : Out :=
  let x := s.slotAt slot
  let window := 2 ^ s.pkg.fields.uwin
  onUnit (decide (slot < 16)) (if x.state ≠ 2 then s
    else if s.clock < x.deadline then s.after (x.deadline - s.clock) (.umpireWindowExpiry slot)
    else if s.jobOut x.job || !s.isDead x then (s.progress x.launch).after window (.umpireWindowExpiry slot)
    else if x.crews.any s.splitsLacks then
      ((x.crews.filter s.splitsLacks).foldl (fun s k => s.push (.splitsFull k)) s).after 16 (.umpireWindowExpiry slot)
    else
      let waiting := (s.contextsOf x.launch).filter fun i => (s.ctxAt i).st == .stalled
      let s1 := waiting.foldl (fun s i => s.updCtx i fun c => { c with st := .blocked, ublock := true }) s
      let s2 := s1.enterState slot 5 0
      let listed := x.records.filter fun r => s.isParked r || waiting.any fun i => (s.ctxAt i).record == r
      let s3 := s2.post (taskReport 0x15 0 listed.length x.launch 0 0 0)
      let s4 := listed.foldl (fun s r => s.post (taskReport 0x15 r.toNat 0 x.launch (s.serialOf r).toNat 0 0)) s3
      x.crews.foldl (fun s k => s.splitsCox k 0x0A 0 0 x.launch) s4)

/-! Rollback (R410–R412). -/

/-- Replays one entry of an undo log: the line's content and metadata, no copy and no watch. -/
def State.replayEntry (s : State) (at' : Nat → Option Nat) (i : Nat) : State :=
  match at' (0x4040 + 160 * i) with
  | none => s
  | some _ =>
    let v := s.readChunks at' (0x4040 + 160 * i) 5
    let l := v % 2 ^ 64 / 128
    let m := LineMeta.ofBits (BitVec.ofNat 32 (v / 2 ^ 64))
    let d := BitVec.ofNat 1024 (v / 2 ^ 256)
    let s1 := s.dropWatches (fun _ => true) l
    let s2 := { s1 with copies := s1.copies.filter fun p => p.1 % 2 ^ 49 != l }
    (s2.pokeLine l d).setMeta l { m with hstate := if m.frozen then hsF else hsI, holder := 0, watch := false }
/-- Replays the last `n` entries of a log, the youngest first. [DEDUCED, log 71] -/
def State.replay (s : State) (at' : Nat → Option Nat) : Nat → State
  | 0 => s
  | n + 1 => (s.replayEntry at' n).replay at' n

/-- Whether an event works for a job's launches, by the record it names; a second rollback of the job is one with the first. -/
def State.eventOf (s : State) (job : Nat) (mine : Word → Bool) (launch : Nat → Bool) : Instr → Bool
  | .rollbackRestart j => j == job
  | .launchComplete i => (s.slotAt i).job == job
  | e => carries mine launch e
/-- Joins and writes of a job's launches on their way are discarded (R410): those that slices hold or that wait for a line, and those
on the links, whose homes discard them. -/
def State.dropFlight (s : State) (mine : Word → Bool) (launch : Nat → Bool) : State :=
  let lost := fun (o : Option Nat) => s.owed.any fun x => o == some x.id && (x.record.map mine).getD false
  let keeps := fun (l : List (Nat × HomeRequest)) => l.filter fun r => !requestJoins launch r.2
  { s with
    heldJoins := s.heldJoins.filter fun h => !launch h.join.launch
    flying := s.flying.filter fun f => !lost f.owed && !f.joinsFor launch
    owed := s.owed.filter fun o => !(o.record.map mine).getD false
    busyList := s.busyList.map fun (p : Nat × List (Nat × HomeRequest)) => (p.1, keeps p.2)
    retry := s.retry.map fun (p : Nat × List (Nat × HomeRequest)) => (p.1, keeps p.2)
    pkg := { s.pkg with flitsHeld := s.pkg.flitsHeld.filter fun f => !flitSends launch f.2.2 } }.releaseLines (s.heldJoins.map HeldJoin.line)

/-- Discards what a job has on a crew (R410, R412). -/
def Crew.discard (c : Crew) (launches : List Nat) (mine : Word → Bool) : Crew :=
  let gone := fun (x : Ctx) => x.hasTask && launches.contains x.launch.toNat
  { c with
    ctxs := c.ctxs.map fun (p : Nat × Ctx) => (p.1, if gone p.2 then { Ctx.fresh with
      pendPre := p.2.pendPre, pendSplits := p.2.pendSplits, pendDbg := p.2.pendDbg } else p.2)
    tiles := c.tiles.map fun (p : Nat × Tile) => (p.1, if p.2.alloc && launches.contains p.2.launch.toNat then p.2.freed else p.2)
    nodes := c.nodes.filter fun p => !launches.contains p.2.launch.toNat
    queue := { c.queue with
      entries := c.queue.entries.filter (fun e => !mine e.record), waiting := c.queue.waiting.filter fun e => !mine e.record }
    writeOuts := c.writeOuts.filter fun w => !mine w.record
    colls := c.colls.filter fun p => !launches.contains p.2.launch
    spill := c.spill.filter fun m => !msgOf mine launches.contains m }

/-- A held launch awaits its dependencies again: their watches may have gone with the lines that a replay restored. -/
def State.awaitAgain (s : State) (i : Nat) : State :=
  let x := s.slotAt i
  let s1 := s.dropDeps i
  let s2 := if x.dep0 then s1 else s1.awaitDep i 0 (x.field 0x90 8) (x.field 0x98 4)
  if x.dep1 then s2 else s2.awaitDep i 1 (x.field 0xA0 8) (x.field 0x9C 4)

/-- Restarts a launch of the phase from its copy (R410 step 4), one that was held too. [DEDUCED, log 72] -/
def State.restart (s : State) (i : Nat) : State :=
  let s1 := (s.dropDeps i).updSlot i fun x => { x with
    retired := 0, dropped := 0, taken := [], serial := 0, dep0 := true, dep1 := true, depDead := false, reason := 0, anyCancelled := false, anyFaulted := false, held := []
    crews := x.crews.filter fun k => !(s.crewAt k).cfault }
  let s2 := (s1.enterState i 2 0).startLaunch i
  let x := s2.slotAt i
  s2.post (taskReport 0x17 (x.field 0x78 8) x.phase x.launch 0 0 0)

/-- A rollback of a job's partition to the start of its phase (R410). [DEDUCED, log 72] -/
def execRollbackRestart (job : Nat) (s : State) : Out :=
  let j := s.jobAt job
  let p := j.phaseAt j.phase
  let slots := (p.launches.filter fun q => let x := s.slotAt q.1; x.image == q.2 && x.state != 6).map Prod.fst
  let jobSlots := (s.slots.filter fun q => q.2.live? && q.2.job == job).map Prod.snd
  let launches := jobSlots.map Slot.launch ++ (slots.map fun i => (s.slotAt i).launch)
  let mine := fun (r : Word) => jobSlots.any fun x => (x.recordIndex r).isSome
  let at' := fun (o : Nat) => s.hwPa (BitVec.ofNat 64 (p.undo + p.undolen / 64 + o))
  .next (if p.undolen = 0 ∨ p.done ∨ (mget? s.pkg.jobs job).isNone then s
    else
      let pins := s.homes.filter fun h => mine (BitVec.ofNat 64 h.1) && s.recordFlags (BitVec.ofNat 64 h.1) / 2 % 2 == 1
      let s1 := pins.foldl (fun s h =>
        let ps := s.recRead (BitVec.ofNat 64 h.1) 0x3E 2
        match s.crewOfLogical (ps / 64 % 32) (ps / 2048 % 32) with
        | some k => s.freePin k (ps % 64)
        | none => s) s
      let ls := (s1.watches.filter fun w => match w.waiter with
        | .context c => launches.contains (s1.ctxAt c).launchId && (s1.ctxAt c).hasTask
        | .parked r _ => mine r
        | .launch _ _ => false)
      let s2 := (ls.foldl (fun s w => s.dropWatches (fun v => v == w) w.line) s1).dropFlight mine launches.contains
      let s3 := { s2 with
        actor := noLaunch
        crews := s2.crews.map fun (c : Nat × Crew) => (c.1, c.2.discard launches mine)
        events := s2.events.filter fun e => !s.eventOf job mine launches.contains e
        timers := s2.timers.filter fun t => !s.eventOf job mine launches.contains t.2
        posts := s2.posts.filter fun r => !launches.contains r.launch
        shadows := s2.shadows.filter fun e => !launches.contains e.launch
        homes := s2.homes.filter fun (h : Nat × Home) => !mine (BitVec.ofNat 64 h.1)
        arrivals := s2.arrivals.filter fun a => !((s2.ctxAt a.ctx).hasTask && launches.contains (s2.ctxAt a.ctx).launchId)
        pkg := { s2.pkg with rounds := s2.pkg.rounds.filter fun r => !launches.contains r.launch } }
      let tail := match at' 0x4000 with | some tp => min (s.readPa tp 8) (undoCap p.undolen) | none => 0
      let s4 := s3.replay at' tail
      let s5 := { s4 with actor := s.actor }.updJob job fun j => { j with resets := [] }
      let s6 := slots.foldl State.restart (s5.crews.foldl (fun s c => s.queueMode c.1) s5)
      let s7 := ((s6.slots.filter fun q => q.2.state == 1).map Prod.fst).foldl State.awaitAgain s6
      let key := 65536 * job + j.phase
      ({ s7 with pkg := { s7.pkg with
        rolled := mput s7.pkg.rolled key (mget 0 s7.pkg.rolled key + 1)
        recovery := { s7.pkg.recovery with rollbacks := s7.pkg.recovery.rollbacks + 1 } } }).signal 16)

end Sys2Proof.Machine
end

