-- ==== Sys2Proof/Machine/Recovery.lean ====
section
/-!
DEFINITION. Partition swaps and the messages of a crew that is swapped out (R398–R401), shoot-downs (R384, R385, R402), and bias
flips (R416–R418).
-/
namespace Sys2Proof.Machine

/-! Partition swap (R398–R401). -/

def State.updPkg (s : State) (f : Pkg → Pkg) : State := { s with pkg := f s.pkg }
def State.updRecovery (s : State) (f : Recovery → Recovery) : State := s.updPkg fun p => { p with recovery := f p.recovery }
def State.updTransl (s : State) (f : Transl → Transl) : State := s.updPkg fun p => { p with transl := f p.transl }
def State.updBias (s : State) (f : Bias → Bias) : State := s.updPkg fun p => { p with bias := f p.bias }

/-- The crews of the running launches a test selects. -/
def State.crewsWhere (s : State) (p : Slot → Bool) : List Nat :=
  (s.slots.filter fun q => q.2.running && p q.2).foldl (fun a q => q.2.crews.foldl (fun a k => insertSorted k a) a) []
/-- A job's partition (R398). -/
def State.partition (s : State) (job : Nat) : List Nat := s.crewsWhere fun x => x.job == job

/-- A context stops at its instruction boundary and is imaged, but for one whose domain change still runs (R397); the boot context is not
one of a launch's. [DEDUCED, log 75] -/
def State.swapContext (s : State) (i : CtxId) : State :=
  let c := s.ctxAt i
  if c.stopped || c.boot || c.wait == some .domain then s
  else
    let s1 := (s.updCtx i Ctx.drainVec).landAll i
    let s2 := if c.wait.isSome && !c.ending then s1.abandonWait i else s1
    let s3 := s2.saveImage i
    if c.st = .free then s3 else s3.updCtx i fun c => { c with stopped := true }
/-- The contexts of a crew stop (R399 step 2). -/
def State.leaveCrew (s : State) (k : Nat) : State :=
  (List.range 32).foldl (fun s n => s.swapContext { crew := k, n := n }) (s.updCrew k fun c => { c with leaving := true })

/-- Command 1 (R398, R399 steps 1 and 2): the job's placement stops, and so do the contexts of its partition. -/
def execSwapOut (s : State) : Out :=
  let r := s.pkg.recovery
  let ks := s.partition r.job
  let shared := (s.crewsWhere fun x => x.job != r.job).any ks.contains
  let none' := !s.slots.any fun p => p.2.running && p.2.job == r.job
  .next (if r.busy || none' || r.out.contains r.job || shared then s.updRecovery fun r => { r with err := true }
    else (ks.foldl State.leaveCrew (s.updRecovery fun r => { r with busy := true, active := r.job })).push .swapOutComplete)

/-- Whether a swap-out still waits for a crew (R397, R399): a domain change of one of its contexts, stores and
joins not yet counted, a follow-on or a write-out. -/
def State.swapWaits (s : State) (k : Nat) : Bool :=
  let c := s.crewAt k
  c.ctxs.any (fun p => p.2.wait == some .domain) || s.owed.any (fun o => o.ctx.crew == k && o.record.isSome) ||
    (!c.frozen && (c.writeOuts != [] || c.copyQueues.any fun q =>
      !q.halted && (match q.entries with | e :: _ => e.mm && decide (e.total ≤ e.done) | [] => false)))

/-- A crew has left (R399): its L1 holds nothing, and bank 15 lies in its share of the shadow ways. -/
def State.swapCrewOut (s : State) (k : Nat) : State :=
  { s with copies := s.copies.map fun (p : Nat × Copy) => (p.1, p.2.leftBy k) }.updCrew k fun c =>
    { c with shadow := c.sysbank, shadowStaging := c.staging, swapped := true, leaving := false }

/-- The end of the drains, looked for every 16 c (R399 steps 3–5). [DESIGN CHOICE, log 13] -/
def execSwapOutComplete (s0 : State) : Out :=
  let r := s0.pkg.recovery
  let ks := (s0.crews.filter fun p => p.2.leaving).map Prod.fst
  let s := ks.foldl State.leaveCrew s0
  .next (if !r.busy then s0
    else if ks.any s.swapWaits then s.after 16 .swapOutComplete
    else ((ks.foldl State.swapCrewOut s).updRecovery fun r =>
      { r with busy := false, out := r.out ++ [r.active], parts := r.parts ++ ks.map fun k => (r.active, k) }).signal 16)

/-- A message is delivered to its crew (R400). A fill's reply has landed with its fill, and a steal request is answered empty. -/
def State.deliverMsg (s : State) (k : Nat) : Msg → State
  | .wake r code => s.wakeRecord r k code
  | .decrement r epc src => s.push (.joinCountDecrement r epc src)
  | .enqueue r prio src => s.push (.recordEnqueue k r prio src)
  | .reply _ _ _ => s
  | .partialSum l x bad len data => { { s with actor := l }.closeRound k l x bad len data with actor := s.actor }
  | .stealAsk t => s.push (.stealReply t 0 0)

/-- A message enters a crew's spill buffer (R400): 128 bytes of bank 15, or of its shadow copy once the crew is out. [DESIGN CHOICE, log 118] -/
def Crew.spills (c : Crew) (tick : Nat) (m : Msg) : Crew :=
  let put := fun (b : Memory) => b.writeN (0xB000 + 128 * c.spill.length) 128 (Config.bankBytes tick % 256 ^ 128)
  { c with
    spill := c.spill ++ [m], sysbank := if c.swapped then c.sysbank else put c.sysbank, shadow := if c.swapped then put c.shadow else c.shadow }
/-- A message for a crew that is swapped out (R400): held in arrival order; sent again while the buffer is full. -/
def execMessageSpill (crew : Nat) (msg : Msg) (s : State) : Out :=
  let c := s.crewAt crew
  let asks := match msg with | .stealAsk _ => true | _ => false
  onUnit (decide (crew < 1024)) (if !c.away || asks then s.deliverMsg crew msg
    else if c.spill.length < 128 then s.updCrew crew fun c => c.spills s.tick msg
    else s.after 16 (.messageSpill crew msg))

/-- A context comes back as it was saved (R401). A block that ended while it was out has ended; a task that ended while it was out stays
ended, one that waited to end still waits, and a cancellation that reached it meanwhile is delivered (R48, R49). -/
def State.swapContextIn (s : State) (i : CtxId) : State :=
  let c := s.ctxAt i
  let t := (s.loadImage i).updCtx i fun d =>
    if c.ending then { d with st := .stalled, wait := c.wait }
    else if d.st = .blocked ∧ c.st ≠ .blocked then { d with st := if d.depth = 0 then .active else .handler } else d
  if c.boot || (!c.stopped && (t.ctxAt i).hasTask) then s
  else if c.cancelled then t.push (.cancelDelivery c.record)
  else t
/-- A crew comes back (R401 steps 2–5). -/
def State.swapCrewIn (s : State) (k : Nat) : State :=
  let msgs := (s.crewAt k).spill
  let s1 := s.updCrew k fun c => { c with
    sysbank := c.shadow, shadow := [], staging := c.shadowStaging, shadowStaging := [], swapped := false, leaving := false, spill := [] }
  let s2 := (List.range 32).foldl (fun s n => s.swapContextIn { crew := k, n := n }) s1
  let s3 := msgs.foldl (fun s m => s.deliverMsg k m) s2
  let timed := ((s3.crewAt k).ctxs.filter fun p => p.2.blockUntil.isSome).map Prod.fst
  let s4 := timed.foldl (fun s n => s.push (.blockTimerExpiry { crew := k, n := n })) s3
  ((s4.restartEngines k).retryInterrupts k).push (.contextTakesRecord k)

/-- Command 2 (R398, R401): the spilled messages come before any new one. -/
def execSwapIn (s : State) : Out :=
  let r := s.pkg.recovery
  .next (if r.busy || !r.out.contains r.job then s.updRecovery fun r => { r with err := true }
    else
      let ks := (r.parts.filter fun p => p.1 == r.job).map Prod.snd
      let s1 := s.updRecovery fun r => { r with out := r.out.filter fun j => j != r.job, parts := r.parts.filter fun p => p.1 != r.job }
      let s2 := ks.foldl State.swapCrewIn { s1 with events := [] }
      let s3 := { s2 with events := s2.events ++ s.events }
      let mine := (s3.slots.filter fun p => p.2.running && p.2.job == r.job).map fun p => p.2.launch
      let held := (s3.slots.filter fun p => p.2.state == 1 && p.2.job == r.job).map Prod.fst
      (held.foldl (fun s i => s.push (.launchRelease i)) (mine.foldl State.progress s3)).signal 16)

/-! Bias of a page (R416–R418). -/

/-- The physical address of the level-3 entry of an address, below a table with some levels to go. -/
def State.entryFrom (s : State) (va : Nat) : Nat → Nat → Option Nat
  | 0, _ => none
  | k + 1, table =>
    match s.bytesAt (table + 8 * (va / 2 ^ levelShift (k + 1) % 8192)) with
    | none => none
    | some pa => if k = 0 then some pa else s.entryFrom va k (s.readPa pa 8 / 65536 % 2 ^ 40 * 65536)
def State.leafEntry (s : State) (va : Nat) : Option Nat := s.entryFrom va 3 (s.pkg.root.toNat / 65536 % 2 ^ 40 * 65536)

/-- The leaf of a page that may change its bias (R418 step 1), with the number of its physical page. [DEDUCED, log 81] -/
def State.flipLeaf (s : State) (va : Nat) (toward : Bool) : Option (Leaf × Nat) :=
  match s.walk (BitVec.ofNat 64 va) needNone with
  | .error _ => none
  | .ok l =>
    match s.place l.pa with
    | .device p =>
      let page := p / 65536
      if l.span ≠ 65536 ∨ !(l.kind == 0 || l.kind == 2) ∨ s.isWindowPage page then none
      else if toward && !s.pkg.hostPages.contains page && decide (1024 ≤ s.pkg.hostPages.length) then none
      else some (l, page)
    | _ => none

/-- A flip is complete (R418 step 6). -/
def State.countFlip (s : State) : State := (s.updBias fun b => { b with busy := false, flips := b.flips + 1, next := none }).signal 16
/-- Starts a flip of a page toward a bias (R418 step 1): refused, complete at once, or on its way to its flip point. -/
def State.startFlip (s : State) (va : Nat) (dir : Bool) : State :=
  match s.flipLeaf va dir with
  | none => s.updBias fun b => { b with err := true, busy := false }
  | some (l, _) =>
    if l.hb = dir then s.countFlip else (s.updBias fun b => { b with page := va, toward := dir, busy := true }).push .biasFlipPoint
/-- The GO that waits for a flip starts with what it captured. -/
def State.nextFlip (s : State) : State :=
  match s.pkg.bias.next with
  | some (va, dir) => (s.updBias fun b => { b with next := none }).startFlip va dir
  | none => s
/-- A flip ends, and the next one starts. -/
def State.endFlip (s : State) : State :=
  match s.pkg.bias.next with
  | some (va, dir) => s.countFlip.startFlip va dir
  | none => s.countFlip

/-! Shoot-downs (R384, R385, R402). -/

/-- Whether an address, or a range of bytes, meets the shoot-down's range. -/
def hitsRange (r : Nat × Nat) (lo hi : Nat) : Bool := decide (lo < r.2) && decide (r.1 < hi)

/-- The lines a copy's next beat touches. -/
def State.beatLines (s : State) (i : CtxId) (e : CopyEntry) : List Nat :=
  match e.dst, e.src with
  | .global d, .global a =>
    let n := min (e.total - e.done) (128 - (d + e.done) % 128)
    [(d + e.done) / 128, (a + e.done) / 128, (a + e.done + n - 1) / 128]
  | .global _, .tile _ => (e.out.take 1).map fun p => p.va / 128
  | .tile h, .global a =>
    let es := chunkElems (memBits (bfFmt (s.bankFmt i.crew (s.tileAt i.crew (hSlot h)).bank))) (e.done / 128)
    (windowOf e.tsh a).lines ((es.map Prod.fst).foldl (fun a x => insertSorted x a) []) ((es.map Prod.snd).foldl (fun a x => insertSorted x a) [])
  | .tile _, .tile _ => []
/-- The first line in a range that a queue's head entry has in flight. [DEDUCED, log 78] -/
def State.headHit (s : State) (r : Nat × Nat) (i : CtxId) (q : Nat) : Option Nat :=
  let x := s.queueAt i q
  match x.entries with
  | [] => none
  | e :: _ =>
    if x.halted || e.fence.isSome || decide (e.total ≤ e.done) then none
    else (s.beatLines i e).find? fun l => hitsRange r (128 * l) (128 * l + 128)
/-- Whether a node has a beat in flight in a range. -/
def Node.hits (n : Node) (r : Nat × Nat) : Bool :=
  n.st == .eval && (match (n.stepsOf n.group n.sub)[n.step]? with | some (.beat l) => hitsRange r (128 * l) (128 * l + 128) | _ => false)
def Piece.hits (p : Piece) (r : Nat × Nat) : Bool := hitsRange r p.va (p.va + 128)
/-- The owners of a crew's copy queues: its contexts and its pinned continuations. -/
def Crew.queueOwners (c : Crew) (k : Nat) : List (CtxId × Nat) :=
  ((c.ctxs.map Prod.fst) ++ (c.parked.map Prod.fst).map fun e => 64 + e).flatMap fun n =>
    (List.range 4).map fun q => (({ crew := k, n := n } : CtxId), q)
/-- Whether a crew's engines have work in flight in a range. -/
def State.engineHits (s : State) (r : Nat × Nat) (k : Nat) : Bool :=
  let c := s.crewAt k
  !c.cfault && ((c.queueOwners k).any (fun p => (s.headHit r p.1 p.2).isSome) || c.nodes.any (fun p => p.2.hits r) ||
    c.writeOuts.any fun w => w.pieces.any fun p => p.hits r)

/-- The engine work of a frozen crew in the range is aborted (R402), each abort counted. -/
def execFrozenAbortTimeout (crew : Nat) (s : State) : Out :=
  let r := s.pkg.transl.range
  let c := s.crewAt crew
  onUnit (decide (crew < 1024)) (if !s.pkg.transl.busy || !c.frozen || c.cfault then s
    else
      let qs := (c.queueOwners crew).filterMap fun (p : CtxId × Nat) => (s.headHit r p.1 p.2).map fun l => (p.1, p.2, l)
      let s1 := qs.foldl (fun (s : State) (p : CtxId × Nat × Nat) => s.haltQueue p.1 p.2.1 11 (BitVec.ofNat 64 (128 * p.2.2))) s
      let ns := c.nodes.filter fun p => p.2.hits r
      let s2 := ns.foldl (fun s p => s.putNode crew p.1 { p.2 with st := .faulted, cause := 0xBB, aborted := true }) s1
      let ps := c.writeOuts.flatMap fun w => (w.pieces.filter fun p => p.hits r).map fun _ => w.ctx
      let s3 := ps.foldl (fun s i => s.engineFails i (some .refused)) s2
      let s4 := s3.updCrew crew fun c => { c with
        writeOuts := c.writeOuts.map fun w => { w with pieces := w.pieces.filter fun p => !p.hits r } }
      s4.updTransl fun t => { t with aborts := t.aborts + qs.length + ns.length + ps.length })

/-- Starts a shoot-down of a range (R385): the slices drop its leaf-cache entries and every copy of its lines, and
the walk caches every entry that covers it. -/
def State.shootDown (s : State) (lo hi : Nat) (flip : Bool) : State :=
  let s1 := s.updTransl fun t => { t with busy := true, bad := false, aborts := 0, range := (lo, hi), flip := flip }
  let gone := fun (p : Nat × Leaf) =>
    let va := p.1 % 2 ^ 39 * 65536
    hitsRange (lo, hi) va (va + 65536)
  let covers := fun (p : Nat × Word) =>
    let sh := levelShift (p.1 / 2 ^ 39 % 4)
    let va := p.1 % 2 ^ 39 * 2 ^ sh
    hitsRange (lo, hi) va (va + 2 ^ sh)
  let s2 := { s1 with leaves := s1.leaves.filter fun p => !gone p, walks := s1.walks.filter fun p => !covers p }
  let lines := s2.copies.filter fun p => hitsRange (lo, hi) (128 * p.2.vline) (128 * p.2.vline + 128)
  (lines.foldl (fun s p => s.evict (p.1 / 2 ^ 49) (p.1 % 2 ^ 49)) s2).push .shootdownComplete

/-- GO (R384, R385): a range that breaks a field rule sets BAD; one during a shoot-down waits for it. [DEDUCED, log 80] -/
def execShootdownGo (s : State) : Out :=
  let t := s.pkg.transl
  .next (if t.busy then s.updTransl fun t => { t with waiting := true }
    else if t.sdva % 65536 ≠ 0 ∨ t.sdlen % 65536 ≠ 0 then s.updTransl fun t => { t with bad := true }
    else s.shootDown (if t.sdlen = 0 then 0 else t.sdva) (if t.sdlen = 0 then 2 ^ 55 else t.sdva + t.sdlen) false)

/-- Every die has done its part (R385, R402): requests to other packages and write-outs that were translated before complete first, and
joins that slices hold are performed; frozen engines are given their time, but a flip aborts nothing (R299, R418). -/
def execShootdownComplete (s : State) : Out :=
  let t := s.pkg.transl
  let pending := fun (p : Nat × Crew) => p.2.writeOuts.any fun w => w.pieces.any fun x => x.hits t.range
  let frozen := if t.flip then [] else
    (s.crews.filter fun p => p.2.frozen && !p.2.gated && s.engineHits t.range p.1).map Prod.fst
  let sent := s.flying.any fun y => hitsRange t.range y.va (y.va + 1)
  .next (if !t.busy then s
    else if sent || s.crews.any (fun p => !p.2.enginesStopped && pending p) then s.after 16 .shootdownComplete
    else if s.heldJoins.any fun h => !h.join.fromHost && hitsRange t.range h.join.va.toNat (h.join.va.toNat + 1) then s.after 16 .shootdownComplete
    else if frozen != [] then
      (frozen.foldl (fun s k => s.after 17500 (.frozenAbortTimeout k)) s).after 17500 .shootdownComplete
    else
      let s1 := s.updTransl fun t => { t with busy := false, waiting := false, flip := false }
      let s2 := if t.flip then s1.endFlip else s1.signal 16
      let s3 := if s2.pkg.bias.busy then s2.push .biasFlipPoint else s2
      if t.waiting then s3.push .shootdownGo else s3)

/-! Bias flips (R418). -/

/-- GO (R418): FVA and DIR are captured; one GO waits while a flip runs. -/
def execBiasFlipGo (s : State) : Out :=
  let b := s.pkg.bias
  .next (if b.busy then (if b.next.isSome then s else s.updBias fun b => { b with next := some (b.fva, b.dir) })
    else s.startFlip b.fva b.dir)

/-- A line's dirty data and deltas are written to its home, and every copy is invalidated. -/
def State.purgeLine (s : State) (l : Nat) : State :=
  let s1 := s.recallDeltas l
  let s2 := (s1.copiesOf l).foldl (fun s p => s.evict p.1 l) s1
  s2.updMeta l fun m => if m.hstate = hsF then m else { m with hstate := hsI, holder := 0 }

/-- Whether a page's virtual range has bytes of a write-out in flight. -/
def State.flipWaits (s : State) (va : Nat) : Bool :=
  s.crews.any fun p => !p.2.cfault && p.2.writeOuts.any fun w => w.pieces.any fun x => x.hits (va, va + 65536)

/-- HOSTWAIT is cleared on every record that watches a line of a page (R38, R418). -/
def State.clearHostWait (s : State) (lines : List Nat) : State :=
  let mine := fun (w : Watch) => lines.contains w.line
  let rs := (s.watches.filter mine).filterMap fun w => match w.waiter with | .parked r _ => some r | _ => none
  let s1 := rs.foldl (fun s r => s.setFlags r 0x10 0) s
  { s1 with watches := s1.watches.map fun w => if mine w then { w with hostWait := false } else w }

/-- The flip point (R418 steps 2–5): the page's lines are at their homes, HB and the table's bit change, and a shoot-down of the page
runs. It waits for copies in flight and for a shoot-down that runs. -/
def execBiasFlipPoint (s : State) : Out :=
  let b := s.pkg.bias
  .next (if !b.busy || s.pkg.transl.busy then s
    else if s.flipWaits b.page then s.after 16 .biasFlipPoint
    else
      match s.flipLeaf b.page b.toward, s.leafEntry b.page with
      | some (l, page), some ep =>
        let lines := (List.range 512).filterMap fun j => (s.bytesAt (l.pa + 128 * j)).map lineOf
        let s1 := lines.foldl State.purgeLine { s with actor := noLaunch }
        let v := s1.readPa ep 8
        let s2 := s1.hwWrite ep 8 (if b.toward then v ||| 256 else v - (v &&& 256))
        let s3 := s2.updPkg fun p => { p with
          hostPages := if b.toward then insertSorted page p.hostPages else p.hostPages.filter fun q => q != page }
        let s4 := if b.toward then s3 else s3.clearHostWait lines
        { s4 with actor := s.actor }.shootDown b.page (b.page + 65536) true
      | _, _ => (s.updBias fun b => { b with busy := false, err := true }).nextFlip)

end Sys2Proof.Machine
end

