-- ==== Sys2Proof/Machine/Fabric.lean ====
section
/-!
DEFINITION. The host's accesses (R223, R299, R413–R415), interleave sets (R368), masters and ownership (R425–R427), Nolras links
(R432–R437) and temperature (R440).
-/
namespace Sys2Proof.Machine

/-! The host link (R413). -/

/-- The options of PCIe 7.0 and CXL 3.2 that R413 names. -/
inductive LinkOption where
  | gts128 | flitMode | narrowLink | bifurcation | bar0 | msix17 | aer | d0 | d3hot | cxlType2 | cxlIo | hdmD | hdmDecoder | cacheReads
  | cacheEvictions | hostSnoops
  | l0p | srIov | ats | pri | pasid | intx | aspmL1 | d1 | d2 | d3cold | type3 | multiLogical | hdmDb | backInvalidate | dynamicCapacity
  | sharedMemory | portRouting | ide | tsp
  deriving DecidableEq, Repr
/-- Whether an option is present on a port (R413): CXL stands on port 0 only, and an option that is not supported is reported as absent. Where
the function reports it is the standards' own layout. -/
def LinkOption.present (port : Nat) : LinkOption → Bool
  | .gts128 | .flitMode | .narrowLink | .bifurcation | .bar0 | .msix17 | .aer | .d0 | .d3hot | .cxlIo => true
  | .cxlType2 | .hdmD | .hdmDecoder | .cacheReads | .cacheEvictions | .hostSnoops => port == 0
  | .l0p | .srIov | .ats | .pri | .pasid | .intx | .aspmL1 | .d1 | .d2 | .d3cold | .type3 | .multiLogical | .hdmDb | .backInvalidate
  | .dynamicCapacity | .sharedMemory | .portRouting | .ide | .tsp => false

/-! The host (R223, R299, R302, R414, R415). -/

/-- The device physical address of an HDM offset (R415). -/
def State.hdm (s : State) (off : Nat) : Option Nat :=
  if off < 4 * dieBytes then some (s.pkg.pkgid * 2 ^ 41 + off / dieBytes * 2 ^ 39 + off % dieBytes) else none

/-- Whether the host may write a byte (R302, R415): of the reserved top of die 0 only the host's parts of the launch window, and
nothing of the code-shadow pool. [DEDUCED, log 86] -/
def State.hostMayWrite (s : State) (pa : Nat) : Bool :=
  let base := s.pkg.pkgid * 2 ^ 41
  let w := s.windowBase
  if base + 0x2FFFF00000 ≤ pa ∧ pa < base + dieBytes then
    (decide (w ≤ pa) && decide (pa < w + 0x1000)) || (decide (w + 0x1100 ≤ pa) && decide (pa < w + 0x1180)) ||
      (decide (w + 0x10000 ≤ pa) && decide (pa < w + 0x20000))
  else !(decide (base + s.pkg.poolBase ≤ pa) && decide (pa < base + s.pkg.poolBase + s.pkg.poolLen))

/-- The bit mask of a host write's byte enables, of the bytes the host may write. -/
def State.hostMask (s : State) (pa n enables : Nat) : Nat :=
  (List.range n).foldl (fun m i => if enables.testBit i && s.hostMayWrite (pa + i) then m + 255 * 256 ^ i else m) 0

/-- The parts of `n` bytes at an address that lie in one line each: the offset in the write and the bytes. -/
def lineParts (pa n : Nat) : List (Nat × Nat) :=
  let a := min n (128 - pa % 128)
  if a = n then [(0, n)] else [(0, a), (a, n - a)]

/-- The line data a host join contributes (R223): written bytes over the bottom of each element they touch, bottom elsewhere; for
FILL1 zero where nothing is written. -/
def hostJoinData (t : LatType) (wc : Nat) (data mask : BitVec 1024) : BitVec 1024 :=
  if t = .fill1 then data &&& mask else mergeBits (bottomLine t wc) data mask

/-- A host write of one line as a join at its home (R223). An untyped line takes nothing. -/
def State.hostJoinLine (s : State) (l : Nat) (data mask : BitVec 1024) : State :=
  let m := s.metaOf l
  if m.type = 0xF ∨ mask = 0 then s
  else
    let t := latOfCode m.type.toNat
    let wc := m.width.toNat
    let w := latWidth t wc
    let elem := ((List.range (1024 / w)).find? fun i => decide (mask.toNat / 2 ^ (w * i) % 2 ^ w ≠ 0)).getD 0
    (s.request l (.join {
      ltype := t, width := wc, data := hostJoinData t wc data mask, elem := elem, countOnly := false, src := .host
      launch := noLaunch, serial := 0, pc := 0, va := 0 })).counterMoved l s

/-- The addresses that name a byte of device memory (R366, R369): its own, and the one that an interleave set gives it. -/
def State.aliases (s : State) (pa : Nat) : List Nat :=
  let d := pa / 2 ^ 39 % 4
  let loc := pa % 2 ^ 39
  let window := fun (w : SetWords) =>
    let ds := setDies w
    let n := ds.length
    let x := loc - setWord w (2 + d) % 2 ^ 38
    [(x / 4096 * n + (ds.findIdx? (· == d)).getD 0) * 4096 + x % 4096, setLen w / (4096 * n) * (4096 * n) + (x - setLen w / (4096 * n) * 4096)].map
      fun o => s.pkg.pkgid * 2 ^ 41 + 2 ^ 38 + setBase w + o
  pa :: ((s.pkg.sets.filter fun p => setEnabled p.2).flatMap fun p => window p.2).filter fun a => s.place a == .device pa
/-- The entries of a table that are not 0. -/
def State.entriesOf (s : State) (table : Nat) : List Word :=
  ((List.range 16).flatMap fun j =>
    match s.bytesAt (table + 4096 * j) with
    | some p => ((s.mem.filter fun c => decide (p ≤ c.1) && decide (c.1 < p + 4096)).map fun c => c.1 / 8).eraseDups
    | none => []).map fun i => BitVec.ofNat 64 (s.readPa (8 * i) 8)
/-- Whether a leaf below a table with some levels to go maps an address as lattice (R382). -/
def State.latticeBelow (s : State) (pa : Nat) : Nat → Nat → Bool
  | 0, _ => false
  | k + 1, table => (s.entriesOf table).any fun e =>
    let addr := (e.extractLsb' 16 40).toNat * 2 ^ 16
    e.getLsbD 0 && (if e.getLsbD 1 then e.extractLsb' 2 3 == 2#3 && decide (addr ≤ pa) && decide (pa < addr + 2 ^ levelShift (k + 1))
      else s.latticeBelow pa k addr)
/-- Whether a byte lies in a lattice page: the doorbell page, or one that the package's tables map as lattice. [DEDUCED, log 85] -/
def State.latticePage (s : State) (pa : Nat) : Bool :=
  pa / 65536 == s.windowBase / 65536 + 1 || (s.aliases pa).any fun a => s.latticeBelow a 3 (s.pkg.root.toNat / 65536 % 2 ^ 40 * 65536)
/-- Applies a host write to each line it touches: a line that is typed, or lies in a lattice page, takes a join, any other an uncached write
at its home. -/
def State.hostLines (s : State) (pa n data mask : Nat) (joinsOnly : Bool) : State :=
  let s1 := (lineParts pa n).foldl (fun s p =>
    let a := pa + p.1
    let d := inLine a (data / 256 ^ p.1 % 256 ^ p.2)
    let m := inLine a (mask / 256 ^ p.1 % 256 ^ p.2)
    if joinsOnly || (s.metaOf (lineOf a)).type != 0xF || s.latticePage a then s.hostJoinLine (lineOf a) d m
    else if m = 0 then s else (s.homeUncachedWrite (lineOf a) d m).1) { s with actor := noLaunch }
  { s1 with actor := s.actor }

/-- A host write to a lattice page (R223). -/
def execHostJoin (off : Nat) (n data enables : Nat) (s : State) : Out :=
  .next (match s.hdm off with
    | some pa => if s.pkg.fields.cxlup then s.hostLines pa (min n 64) data (s.hostMask pa (min n 64) enables) true else s
    | none => s)

/-- What the stakeboat's monitor makes of bytes that the host wrote in the slot page (R303, R306). -/
def State.slotMonitor (s : State) (pa mask : Nat) : State :=
  let w := s.windowBase
  let hit := fun (lo n : Nat) => (List.range n).any fun i => decide (pa ≤ lo + i) && mask.testBit (8 * (lo + i - pa))
  let s1 := (List.range 16).foldl (fun s i =>
    if hit (w + 256 * i + 0xC0) 64 then s.seqLanded i (s.readPa (w + 256 * i + 0xFF) 1) else s) s
  (List.range 16).foldl (fun s i =>
    if hit (w + 0x1100 + 8 * i) 8 then s.controlWord i (s.readPa (w + 0x1100 + 8 * i) 8) else s) s1

/-- A host write (R299, R302, R415): at the home, with what the stakeboat's monitor sees in the slot page. -/
def execHostWrite (off : Nat) (n data enables : Nat) (s : State) : Out :=
  .next (match s.hdm off with
    | some pa =>
      if !s.pkg.fields.cxlup then s
      else
        let mask := s.hostMask pa (min n 64) enables
        let s1 := s.hostLines pa (min n 64) data mask false
        if s.windowBase < pa + 64 ∧ pa < s.windowBase + 0x1180 then s1.slotMonitor pa mask else s1
    | none => s)

/-- A host read is uncached (R299, R376): it returns the latest data and changes nothing of the part. -/
def execHostRead (off n : Nat) (s : State) : Out :=
  .next (match s.hdm off with
    | some pa => if s.pkg.fields.cxlup then { s with hostData := s.readPa pa (min n 64) } else s
    | none => s)
/-- A host snoop of a 64-byte half (R414): the device line that covers it is written back and invalidated. [DEDUCED, log 87] -/
def execHostSnoop (half : Nat) (s : State) : Out :=
  let a := 64 * half
  let l := (0x7FFF * 2 ^ 41 + (a - s.pkg.fields.hbase)) / 128
  .next (if a < s.pkg.fields.hbase ∨ s.pkg.fields.hbase + 2 ^ 41 ≤ a then s
    else s.flushLine l)
/-- The host link has trained (R413): CXL is active at 64 GT/s and above, unless a record of the store failed its check (R428). [DEDUCED, log 99] -/
def execHostLinkTrained (fast : Bool) (s : State) : Out :=
  .next (s.updPkg fun p => { p with
    fields := { p.fields with cxlup := fast && !Config.storeFails p.inForce }
    mgmt := { p.mgmt with ports := (List.range 4).filter fun i => i == 0 || p.mgmt.ports.contains i || Config.storePort p.inForce i } })

/-! Interleave sets (R368). -/

/-- The bits of a set's words that are not reserved. -/
def setMasks : List Nat := [0x80000F3FFFFFFFFF, 0x3FFFFFFFFF, 0x3FFFFFFFFF, 0x3FFFFFFFFF, 0x3FFFFFFFFF, 0x3FFFFFFFFF, 0, 0]
/-- The bytes of a member die's share. -/
def setShare (w : SetWords) (d : Nat) : Nat :=
  let n := (setDies w).length
  if n = 0 then 0
  else setLen w / (4096 * n) * 4096 + (if (setDies w).head? = some d then setLen w % (4096 * n) else 0)
/-- Whether two ranges meet. -/
def rangesMeet (a n b m : Nat) : Bool := decide (a < b + m) && decide (b < a + n)
/-- Whether two sets overlap in the window or in a share. -/
def setsOverlap (a b : SetWords) : Bool :=
  rangesMeet (setBase a) (setLen a) (setBase b) (setLen b) ||
    (setDies a).any fun d => (setDies b).contains d &&
      rangesMeet (setWord a (2 + d) % 2 ^ 38) (setShare a d) (setWord b (2 + d) % 2 ^ 38) (setShare b d)
/-- Whether a descriptor may not be enabled. [DEDUCED, log 88] -/
def State.setRefused (s : State) (i : Nat) (w : SetWords) : Bool :=
  setWord w 0 &&& (2 ^ 64 - 1 - setMasks.headD 0) != 0 || [0, 1, 2, 3, 4, 5].any (fun j => setWord w j % 4096 != 0) || setDies w == [] ||
    s.pkg.sets.any fun p => p.1 != i && setEnabled p.2 && setsOverlap w p.2
/-- A write of a set's word 0 that sets EN. -/
def execInterleaveSetWrite (set : Nat) (value : Word) (s : State) : Out :=
  let w := mput (mget [] s.pkg.sets set) 0 value
  let bad := s.setRefused set w
  let v := value &&& BitVec.ofNat 64 (setMasks.headD 0) &&& (if bad then 0x7FFFFFFFFFFFFFFF#64 else BitVec.allOnes 64)
  onUnit (decide (set < 4)) (s.updPkg fun p => { p with
    sets := mput p.sets set (mput w 0 v)
    setFail := (p.setFail &&& ~~~(1#4 <<< set)) ||| (if bad then 1#4 <<< set else 0) })

/-! Masters (R425–R427). -/

def State.updMgmt (s : State) (f : Mgmt → Mgmt) : State := s.updPkg fun p => { p with mgmt := f p.mgmt }
/-- The owner changes (R419). -/
def State.setOwner (s : State) (m : Nat) : State := (s.updMgmt fun g => { g with owner := m, pending := false }).signal 16
/-- A control write that is discarded counts against its master (R422). -/
def State.reject (s : State) (m : Nat) : State :=
  if m < 5 then s.updMgmt fun g => { g with rejects := mput g.rejects m (min 0xFFF (mget 0 g.rejects m + 1)) } else s

def execClaim (master : Nat) (s : State) : Out :=
  onUnit (decide (master < 5)) (if s.pkg.mgmt.owner = 7 then s.setOwner master else s)
/-- Whether a master can be offered ownership: the module controller, or a trained port. -/
def State.present (s : State) (m : Nat) : Bool := m == 4 || (decide (m < 4) && s.pkg.mgmt.ports.contains m)
/-- An owner's offer stands for 100 ms. -/
def execHandover (master target : Nat) (s : State) : Out :=
  onUnit (decide (master < 5)) (if s.pkg.mgmt.owner ≠ master then s.reject master
    else if target = master || !s.present target then s
    else (s.updMgmt fun g => { g with pending := true, target := target, deadline := s.clock + 175000000 }).after 175000000
      .handoverTimeout)
/-- An ACCEPT counts until the offer's deadline. -/
def execAccept (master : Nat) (s : State) : Out :=
  onUnit (decide (master < 5)) (if s.pkg.mgmt.pending ∧ s.pkg.mgmt.target = master ∧ s.clock ≤ s.pkg.mgmt.deadline then s.setOwner master else s)
def execHandoverTimeout (s : State) : Out :=
  .next (if s.pkg.mgmt.pending ∧ s.pkg.mgmt.deadline ≤ s.clock then s.updMgmt fun g => { g with pending := false } else s)
/-- A port's link goes down, or the module controller resets. CXL is active no more without port 0's link (R423). -/
def execOwnerLoss (master : Nat) (s : State) : Out :=
  let s0 := s.updMgmt fun g => { g with ports := g.ports.filter fun i => i != master }
  let s1 := if master = 0 then s0.updPkg fun p => { p with fields := { p.fields with cxlup := false } } else s0
  onUnit (decide (master < 5)) (if s.pkg.mgmt.owner = master then s1.setOwner 7 else s1)

/-! Nolras links (R432–R437). -/

/-- A link's STATE changes (R419). -/
def State.setLink (s : State) (n st : Nat) (f : Link → Link) : State :=
  (s.updLink n fun l => { f l with state := st, lanes := if st = 2 then (f l).lanes else 0 }).signal 16

/-- Takes a request off the links; a join's line is busy no more. -/
def State.unfly (s : State) (f : Flying) : State :=
  let s1 := { s with flying := s.flying.filter fun g => g.id != f.id }
  if f.joins then s1.releaseLines [f.line] else s1
/-- The answer to a request reaches the instruction that awaits it. -/
def State.answerReply (s : State) (id : Nat) (a : Answer) : State :=
  { s with replies := s.replies.map fun x => if x.id = id then { x with answer := a } else x }
/-- A request of this package has crossed its link (R232, R434): it acts on its line and is counted, or its answer is on its way back. One
that was resolved before is discarded. [DESIGN CHOICE, log 92] -/
def State.landFlight (s : State) (n : Nat) : State :=
  match s.flying.find? fun f => f.id == n with
  | none => s
  | some f =>
    let s1 := s.unfly f
    match f.cargo with
    | .write data mask => (s1.pokeLine f.line (mergeBits (s1.memLine f.line) data mask)).resolvePart f.owed none
    | .read => s1.answerReply n (if (s1.metaOf f.line).poison then .failed 7 else .data (s1.remoteLine f.line))
    | .atomic a =>
      let w := if a.dbl then 8 else 4
      let old := s1.remotePa a.pa w
      let v := atomicNew a.op.toNat w old a.cmp.toNat a.new.toNat
      if (s1.metaOf f.line).poison then s1.answerReply n (.failed 7)
      else (if v = old ∧ a.op = 1 then s1 else s1.poke a.pa w v).answerReply n (.data (s1.remoteLine f.line))
    | .join j =>
      match s1.joinCheck f.line j.ltype j.width with
      | .merged => ((s1.mergeHome f.line j).counterMoved f.line s1).resolvePart f.owed none
      | .frozen => (s1.post (joinReport 3 f.line j)).resolvePart f.owed none
      | .poisoned => s1.resolvePart f.owed (some .poisoned)
      | _ => s1.resolvePart f.owed none
/-- A request of this package is lost with its link, or finds no link that is up (R435, R437): a write or join is lost, a load or an atomic
is answered link-dead. -/
def State.loseFlight (s : State) (n : Nat) : State :=
  match s.flying.find? fun f => f.id == n with
  | none => s
  | some f => ((s.unfly f).answerReply n (.failed 10)).resolvePart f.owed (some .lost)
/-- The messages that wait to leave are sent, in order, as far as their flows and the links have room; one whose mask holds no link that is
up is resolved at once as link-dead (R433–R435). -/
def State.flushHeld (s : State) : State :=
  s.pkg.flitsHeld.foldl (fun s h =>
    if s.routeUp h.1 then s.sendFlit h.1 h.2.1 h.2.2
    else match h.2.2.request with | some n => s.loseFlight n | none => s) (s.updPkg fun p => { p with flitsHeld := [] })
/-- A destination has confirmed a flow up to a number (R434): the messages that waited for it are sent. [DESIGN CHOICE, log 97] -/
def State.flowConfirmed (s : State) (dst cls last : Nat) : State :=
  (s.updPkg fun p => { p with confirmed := mput p.confirmed (cls + 8 * dst) ((last + 1) % 65536) }).flushHeld

/-- What a flit's payload does at its package, in flow order (R434). A reply of another package is taken with the acknowledgement of the request
(log 92). -/
def State.landPayload (s : State) (src : Nat) (p : FlitMsg) : State :=
  match p with
  | .none | .part | .reply _ _ _ => s
  | .write _ pa n data mask =>
    (match s.place pa with
      | .device q =>
        let sh := 8 * (q % 128)
        let w := 8 * min n (128 - q % 128)
        s.request (lineOf q) (.uncached (BitVec.ofNat 1024 ((data % 2 ^ w) <<< sh)) (BitVec.ofNat 1024 ((mask % 2 ^ w) <<< sh)))
      | _ => s)
  | .join _ l j => (s.request l (.join { j with src := .package src })).counterMoved l s
  | .atomic _ a =>
    (match s.place a.pa with
      | .device q => (s.request (lineOf q) (.atomic q a.op a.dbl a.cmp a.new)).sendFlit src 1 (.reply 0 (lineOf q) (s.tick % 4096))
      | _ => s)
  | .read _ agent l => (s.request l (.read agent)).sendFlit src 1 (.reply agent l (s.tick % 4096))
  | .partialSum launch slot part => s.push (.reductionPartial launch slot part)
  | .skip flow lost => s.push (.flowSkip flow lost)
  | .confirm cls last => s.flowConfirmed src cls last

def State.flowAt (s : State) (f : Nat) : Flow := mget { next := 0, early := [], lost := [] } s.pkg.flows f
def State.setFlow (s : State) (f : Nat) (x : Flow) : State := s.updPkg fun p => { p with flows := mput p.flows f x }
/-- The destination confirms every 512th number that it passes (R434). [DESIGN CHOICE, log 97] -/
def State.confirmFlow (s : State) (f n : Nat) : State :=
  if (n + 1) % 512 = 0 then s.sendFlit (f / 8) 5 (.confirm (f % 8) n) else s
/-- Delivers what a flow holds in order, passing over lost numbers (R434, R437); a message whose parts have not all come is dropped with
them (R432). The number bounds how many. -/
def State.flowOn (s : State) (f : Nat) : Nat → State
  | 0 => s
  | n + 1 =>
    let x := s.flowAt f
    if x.lost.contains x.next then
      ((s.setFlow f { x with next := (x.next + 1) % 65536, lost := x.lost.filter (fun i => i != x.next), parts := 0 }).confirmFlow f x.next).flowOn f n
    else
      match x.early.find? fun p => p.1 == x.next with
      | none => s
      | some p =>
        let s1 := s.setFlow f { x with
          next := (x.next + 1) % 65536, early := x.early.filter fun q => q.1 != x.next
          parts := if p.2 = .part then x.parts + 1 else 0 }
        let s2 := if p.2.flits ≤ x.parts + 1 then s1.landPayload (f / 8) p.2 else s1
        (s2.confirmFlow f x.next).flowOn f n
/-- A flit reaches its package: held until its turn, discarded when its number has been delivered. -/
def State.flowTakes (s : State) (f : Flit) : State :=
  let k := f.cls + 8 * f.src
  let x := s.flowAt k
  if 32768 ≤ (f.fseq + 65536 - x.next) % 65536 ∨ x.early.any (fun p => p.1 == f.fseq) then s
  else (s.setFlow k { x with early := x.early ++ [(f.fseq, f.payload)] }).flowOn k (x.early.length + x.lost.length + 1)
/-- The destination's delivery passes over lost numbers (R437). -/
def execFlowSkip (flow : Nat) (lost : List Nat) (s : State) : Out :=
  let x := s.flowAt flow
  .next ((s.setFlow flow { x with lost := x.lost ++ lost }).flowOn flow (x.early.length + x.lost.length + lost.length))

/-- The flits a LACK acknowledges leave the replay buffer (R433). -/
def Link.acked (l : Link) (lack clock : Nat) : Link :=
  let rest := match l.unacked.findIdx? fun f => f.lseq == lack with
    | some i => l.unacked.drop (i + 1)
    | none => l.unacked
  if rest.length < l.unacked.length then { l with unacked := rest, stuck := 0, since := clock } else l

/-- The number of a request of this package that a flit carries. -/
def flightOf (id : Nat) (f : Flit) : Option Nat := if f.src ≠ id then none else f.payload.request
/-- A flit for another package goes on toward it with one hop less (R435); without a link that is up its message is link-dead, which its
sender learns by its own timeout. [DEDUCED, log 98] -/
def State.forward (s : State) (n : Nat) (f : Flit) : State :=
  if f.hops = 0 then s.updLink n fun l => { l with misroute := l.misroute + 1 }
  else
    match s.linkToward f.dst with
    | some m => s.sendOn m { f with hops := f.hops - 1 }
    | none => match flightOf s.pkg.pkgid f with | some k => s.loseFlight k | none => s

/-- Whether a flit for another package finds every link of its route that is up without room (R433, R435). -/
def State.noRoomFor (s : State) (f : Flit) : Bool :=
  f.dst != s.pkg.pkgid && f.hops != 0 && s.routeUp f.dst && s.openLinks f.dst == []
/-- A flit arrives on a link (R432–R435): accepted when its CRC holds, it is the next expected, and there is room to send it on; its sender
replays it else. [DESIGN CHOICE, log 97] -/
def execFlitReceive (link : Nat) (flit : Flit) (s : State) : Out :=
  let l := s.linkAt link
  onUnit (decide (link < 16)) (if l.state ≠ 2 || !flit.crcOk then s
    else
      let s0 := s.updLink link fun l => l.acked flit.lack s.clock
      let gone := l.unacked.take (l.unacked.length - (s0.linkAt link).unacked.length)
      let s1 := ((gone.filterMap (flightOf s.pkg.pkgid)).foldl State.landFlight s0).flushHeld
      if flit.kind ≠ 1 ∧ flit.kind ≠ 3 then s1
      else if flit.lseq ≠ l.rxSeq ∨ s1.noRoomFor flit then s1
      else
        let s2 := s1.updLink link fun l => { l with rxSeq := (l.rxSeq + 1) % 4096 }
        if flit.dst = s.pkg.pkgid then s2.flowTakes flit else s2.forward link flit)

/-- Whether a flit carries a write or a join. -/
def Flit.writes (f : Flit) : Bool := match f.payload with | .write _ _ _ _ _ | .join _ _ _ | .atomic _ _ => true | _ => false
/-- A link is dead (R437): its replay buffer is discarded, its writes are lost, and each flow that lost flits is told. [DEDUCED, log 96] -/
def State.killLink (s : State) (n : Nat) : State :=
  let lost := (s.linkAt n).unacked
  let s1 := s.setLink n 3 fun l => { l with
    unacked := [], txSeq := 0, rxSeq := 0, stuck := 0, deaths := l.deaths + 1, lostw := l.lostw + lost.countP Flit.writes }
  let s2 := (lost.filterMap (flightOf s.pkg.pkgid)).foldl State.loseFlight s1
  let flows := (lost.map fun f => (f.dst, f.cls + 8 * f.src)).eraseDups
  flows.foldl (fun (s : State) (k : Nat × Nat) =>
    s.sendFlit k.1 5 (.skip k.2 ((lost.filter fun f => f.dst == k.1 && f.cls + 8 * f.src == k.2).map Flit.fseq))) s2
def execLinkDead (link : Nat) (s : State) : Out :=
  onUnit (decide (link < 16)) (if (s.linkAt link).state = 3 then s else s.killLink link)
/-- LACK has not advanced for 2 µs (R433): a replay starts; the sixteenth in a row is the link's death. -/
def execLinkReplayTimer (link : Nat) (s : State) : Out :=
  let l := s.linkAt link
  onUnit (decide (link < 16)) (if l.state ≠ 2 ∨ l.unacked = [] then s
    else if s.clock < l.since + 3500 then s.after (l.since + 3500 - s.clock) (.linkReplayTimer link)
    else if 16 ≤ l.stuck + 1 then (s.updLink link fun l => { l with replays := l.replays + 1 }).killLink link
    else (s.updLink link fun l => { l with replays := l.replays + 1, stuck := l.stuck + 1, since := s.clock }).after 3500
      (.linkReplayTimer link))
/-- Lanes lose lock (R432, R437). -/
def execLaneLockLoss (link lost : Nat) (s : State) : Out :=
  onUnit (decide (link < 16)) (if (s.linkAt link).state ≠ 2 ∨ lost = 0 then s
    else if 4 < lost then s.killLink link else s.setLink link 1 fun l => { l with half := true })
/-- RETRAIN (R436): a down or dead link trains with all its lanes again. -/
def execRetrain (link : Nat) (s : State) : Out :=
  let l := s.linkAt link
  onUnit (decide (link < 16)) (if l.en && (l.state == 0 || l.state == 3) then s.setLink link 1 fun l => { l with half := false } else s)
/-- Training ends (R423, R432, R436): the link is up with 4 or 8 lanes, with 4 after it has lost a lane, or has failed. -/
def execLinkTrained (link peer lanes : Nat) (s : State) : Out :=
  let up := (s.setLink link 2 fun l => { l with peer := peer % 2 ^ 15, lanes := if l.half then 4 else lanes, since := s.clock }).flushHeld
  onUnit (decide (link < 16)) (if (s.linkAt link).state ≠ 1 then s
    else if lanes = 4 ∨ lanes = 8 then (if (s.linkAt link).unacked = [] then up else up.after 3500 (.linkReplayTimer link))
    else (s.setLink link 0 id).updPkg fun p => { p with fields := { p.fields with degraded := true } })

/-! Temperature (R423, R440). -/

/-- A die's temperature: above 105 °C its issue is gated, which changes timing only; above 115 °C the package is reset. [DEDUCED, log 100] -/
def execThermalThrottle (die temp : Nat) (s : State) : Out :=
  let bit : BitVec 4 := 1#4 <<< die
  let s1 := s.updPkg fun p => { p with fields := { p.fields with
    temps := mput p.fields.temps die temp
    throttle := if 105 < temp then p.fields.throttle ||| bit else p.fields.throttle &&& ~~~bit } }
  onUnit (decide (die < 4)) (if 115 < temp then s1.push .thermalShutdown else s1)

end Sys2Proof.Machine
end

