-- ==== Sys2Proof/Machine/Boot.lean ====
section
/-!
DEFINITION. Power-up (R429), self-test and the boot crew (R430, R454), the boot port (R457–R461), the boot ROM (R461) and the
module configuration store (R428, R456, R466).
-/
namespace Sys2Proof.Machine

def State.updBoot (s : State) (f : Boot → Boot) : State := s.updPkg fun p => { p with boot := f p.boot }
def State.updFields (s : State) (f : Fields → Fields) : State := s.updPkg fun p => { p with fields := f p.fields }
/-- BOOTFAIL is set (R419, R423). -/
def State.bootFails (s : State) : State := (s.updFields fun f => { f with bootfail := true }).signal 16
/-- `n` bytes of the store in force (R428). -/
def State.storeRead (s : State) (o n : Nat) : Nat := s.pkg.inForce.readN o n
/-- The quarantine mask QLIST (R428). -/
def State.qlist (s : State) : BitVec 1024 := Config.storeQlist s.pkg.inForce

/-! Power sequencing (R429). -/

/-- The unit that starts when another one's rail has settled. -/
def railNext : RailUnit → Option RailUnit
  | .auxiliary => some (.hbm 0)
  | .hbm n => if n < 15 then some (.hbm (n + 1)) else some (.base 0)
  | .base d => if d < 3 then some (.base (d + 1)) else some (.mesh 0)
  | .mesh d => some (.logic d 0)
  | .logic d r => if r < 15 then some (.logic d (r + 1)) else if d < 3 then some (.mesh (d + 1)) else some .hostPhy
  | .hostPhy => some .selfTest
  | .selfTest => some .memoryInit
  | .memoryInit => none

/-- The device memory of the package holds 0 (R367); what lies beyond it stays. -/
def State.clearMemory (s : State) : State :=
  { s with mem := s.mem.filter fun c => c.1 / 2 ^ 41 % 2 ^ 15 != s.pkg.pkgid
           lines := [], copies := [], leaves := [], walks := [], watches := [] }

/-- The module controller releases reset (R429): every register takes its reset value, the store keeps its content. -/
def execPowerOnReset (s : State) : Out :=
  let s1 := s.rebase 0
  .next { State.reset with
    tick := s.tick, clock := 0, mem := s1.clearMemory.mem, hostMem := s1.hostMem, events := [.railSettled .auxiliary]
    pkg := { Pkg.fresh with store := s.pkg.store, draft := s.pkg.store, inForce := s.pkg.store, lost := s.pkg.lost } }

/-- The package id of the store; ids that are never assigned give 0. -/
def State.storeId (s : State) : Nat :=
  let v := (Config.storePkgid s.pkg.inForce).toNat
  if 0x7FF0 ≤ v then 0 else v
/-- The crews that pass: those of dies that are left in, by their own test (R430). -/
def passedCrews : BitVec 1024 :=
  BitVec.ofNat 1024 (maskOf 1024 fun k => !Config.dieFails (crewDie k) && !Config.crewFails k)
/-- Whether anything fails the self-test. -/
def selfTestFails : Bool :=
  passedCrews != BitVec.allOnes 1024 || (List.range 128).any Config.sliceFails || (List.range 4).any Config.dieFails

/-- What settling does beyond starting the next unit. -/
def State.settled (s : State) (u : RailUnit) : State :=
  match u with
  | .auxiliary =>
    s.updPkg fun p => { p with
      pkgid := s.storeId
      links := (List.range 16).map fun n => (n, { Link.fresh with en := (Config.storeLinks p.inForce).getLsbD n }) }
  | .selfTest =>
    (s.updBoot fun b => { b with passed := passedCrews }).updFields fun f => { f with degraded := f.degraded || selfTestFails }
  | .memoryInit => s.clearMemory
  | _ => s

/-- A unit's rail has settled. A store that fails its check ends the power-up with BOOTFAIL (R428). [DEDUCED, log 94] -/
def execRailSettled (unit : RailUnit) (s : State) : Out :=
  .next (match unit, Config.storeFails s.pkg.inForce with
    | .auxiliary, true => (s.updFields fun f => { f with cxlup := false }).bootFails
    | u, _ => (s.settled u).push (match railNext u with | some v => .railSettled v | none => .bootStart))

/-! The boot crew (R430, R454, R466). -/

/-- The corners in the order of R430. -/
def corners : List Nat := [0, 31, 992, 1023]
/-- The context of the boot ROM (R454). -/
def Ctx.booting : Ctx := { Ctx.fresh with st := .handler, boot := true, trap := { Ctx.fresh.trap with tstatus := 1 } }
/-- The slices load their overflow bases and the package its page-table root and code-shadow pool; the first corner that passed and
is not in QLIST starts the ROM. -/
def execBootStart (s : State) : Out :=
  let b := s.pkg.boot
  let s1 := s.updPkg fun p => { p with
    root := BitVec.ofNat 64 (s.storeRead 0xF0000 8) &&& 0x00FFFFFFFFFF0000#64
    poolBase := s.storeRead 0xF0008 8, poolLen := s.storeRead 0xF0010 8
    boot := { p.boot with overflow := (List.range 128).map fun i => (i, s.storeRead (0xF0140 + 16 * i) 8, s.storeRead (0xF0148 + 16 * i) 8) } }
  .next (if b.crew.isSome || s.pkg.fields.booted || s.pkg.fields.bootfail then s
    else
      match corners.find? fun k => b.passed.getLsbD k && !s.qlist.getLsbD k with
      | none => s1.bootFails
      | some k => ((s1.updBoot fun b => { b with crew := some k }).updCtx { crew := k, n := 0 } fun _ => Ctx.booting))

/-- The boot ROM (R461), by address from 0. -/
def bootRom : List Instr :=
  [.movi 20 0, .addhi 20 4, .addtop 20 0x70, .movi 4 1, .st 4 20 384 3,
   .ld 4 20 384 3, .andi 4 4 4, .bz 4 (-2), .addi 21 20 3200, .addi 11 20 16, .movi 22 0x8000, .movi 5 0,
   .srli 6 5 3, .add 7 21 6, .ld 8 7 0 0, .andi 9 5 7, .srl 8 8 9, .andi 8 8 1, .or 10 5 22, .addi 5 5 1, .bz 8 3,
   .st 10 11 0 1, .addi 11 11 2, .cmpi 2 1 5 1024, .brc 1 0 (-12)] ++
  [.movi 24 (-256), .addhi 24 9, .addtop 24 0x70, .movi 26 0, .addhi 26 0x3FF, .addtop 26 0x70,
   .ld 25 24 0 3, .ld 28 24 1 3, .addi 27 24 256, .tshape 25 5, .cpy 0 26 27, .waitc 15 0 15 15,
   .st 26 20 386 3, .st 28 20 387 3, .st 25 20 388 3, .movi 4 1, .st 4 20 389 3,
   .ld 4 20 389 3, .andi 4 4 2, .bnz 4 (-2), .movi 4 16, .st 4 20 384 3, .tret]
/-- The word of the ROM at an address; what follows the program reads 0. -/
def romWord (a : Nat) : BitVec 32 := match bootRom[a / 4]? with | some i => (encode i).getD 0 | none => 0

/-! The boot port (R457–R461). -/

/-- Whether the port takes writes (R457). -/
def State.portOpen (s : State) : Bool := s.pkg.boot.crew.isSome && !s.pkg.fields.booted && !s.pkg.fields.bootfail

/-- One hop of the discovery packet (R458): from the routers that have it to their four neighbours, among some routers. -/
def floodHop (live m : BitVec 1024) : BitVec 1024 :=
  let east : BitVec 1024 := BitVec.ofNat 1024 (maskOf 1024 fun k => k % 32 != 31)
  let west : BitVec 1024 := BitVec.ofNat 1024 (maskOf 1024 fun k => k % 32 != 0)
  (m ||| (m <<< 32) ||| (m >>> 32) ||| ((m &&& east) <<< 1) ||| ((m &&& west) >>> 1)) &&& live
/-- The routers the packet reaches from a crew's (R458). A die that is left out takes its routers with it (R430); around it, as without it,
62 hops reach what can be reached. -/
def floodReach (live : BitVec 1024) (k : Nat) : BitVec 1024 :=
  (List.range 62).foldl (fun m _ => floodHop live m) ((1#1024 <<< k) &&& live)
/-- The routers of the dies that are left in. -/
def liveRouters : BitVec 1024 := BitVec.ofNat 1024 (maskOf 1024 fun k => !Config.dieFails (crewDie k))

/-- FLOOD (R458): the packet goes from router to router, and every crew it reaches that passed answers once. [DEDUCED, log 95] -/
def execFlood (s : State) : Out :=
  let b := s.pkg.boot
  .next (if !s.portOpen || b.fbusy || b.fdone then s
    else
      let s1 := s.updBoot fun b => { b with fbusy := true, closes := s.clock + 35000, heard := 0 }
      let reached := floodReach liveRouters (b.crew.getD 0)
      let s2 := ((List.range 1024).filter fun k => b.passed.getLsbD k && reached.getLsbD k).foldl (fun s k => s.push (.discoveryAnswer k)) s1
      s2.after 35000 .discoveryWindowClose)

/-- The answers a mask holds. -/
def bitsIn (m : BitVec 1024) : Nat := (List.range 1024).countP fun i => m.getLsbD i

/-- A crew's answer reaches the port while it is open (R457, R458): in its window it is taken once, after it it is late. -/
def execDiscoveryAnswer (crew : Nat) (s : State) : Out :=
  let b := s.pkg.boot
  onUnit (decide (crew < 1024)) (if !s.portOpen || !b.fbusy && !b.fdone || b.heard.getLsbD crew then s
    else if b.fdone || decide (b.closes < s.clock) then s.updBoot fun b => { b with nlate := b.nlate + 1 }
    else
      let one : BitVec 1024 := 1#1024 <<< crew
      let ok := !s.qlist.getLsbD crew
      s.updBoot fun b => { b with
        heard := b.heard ||| one, closes := s.clock + 35000
        answer := if ok then b.answer ||| one else b.answer, nans := if ok then b.nans + 1 else b.nans })

/-- The answer window closes, unless the boot has ended (R457, R458). -/
def execDiscoveryWindowClose (s : State) : Out :=
  let b := s.pkg.boot
  .next (if !s.portOpen || !b.fbusy then s
    else if s.clock < b.closes then s.after (b.closes - s.clock) .discoveryWindowClose
    else
      let failed := 1024 - bitsIn b.heard
      (s.updBoot fun b => { b with
        fbusy := false, fdone := true, nfail := failed, nquar := bitsIn (b.heard &&& s.qlist), failmask := ~~~b.heard
        bootcrew := (corners.findIdx? fun k => b.crew == some k).getD 0 }).updFields fun f => { f with degraded := f.degraded || failed != 0 })

/-- A 16-bit write of a PHYS entry (R459): the next logical index goes to a usable crew, and the crew gets its coordinate. -/
def execPhysAssign (index : Nat) (value : BitVec 16) (s : State) : Out :=
  let b := s.pkg.boot
  let p := value.toNat % 1024
  .next (if !s.portOpen then s
    else if b.fdone && value.getLsbD 15 && index == b.nlog && b.answer.getLsbD p && (s.crewAt p).logical.isNone then
      (s.updBoot fun b => { b with nlog := index + 1, phys := mput b.phys index (0x8000 + p) }).updCrew p fun c => {
        c with logical := some index }
    else s.updBoot fun b => { b with err := true })

/-- The HASH values of a die (R466), domain 7 first, each for its own domain and without the slices that failed (R430). One that names nothing
leaves its domain empty. [DEDUCED, log 84] -/
def State.hashValues (s : State) (die : Nat) : List Word :=
  let bad : BitVec 32 := BitVec.ofNat 32 (maskOf 32 fun i => Config.sliceFails (32 * die + i))
  (List.range 8).map fun i =>
    let v := BitVec.ofNat 64 (s.storeRead (0xF0040 + 64 * die + 8 * (7 - i)) 8) &&& ~~~(bad.setWidth 64)
    (v &&& ~~~(7#64 <<< 33)) ||| (BitVec.ofNat 64 (7 - i) <<< 33)
/-- Applies a die's values one after another, up to the first that is refused (R363); whether none was. -/
def State.applyHash (s : State) (die : Nat) : List Word → State × Bool
  | [] => (s, true)
  | v :: r => if hashctlRefused (s.dieAt die).domains v then (s, false) else (s.switchDomain die v).applyHash die r
/-- All dies' values. -/
def State.applyHashes (s : State) : List Nat → State × Bool
  | [] => (s, true)
  | d :: r => match s.applyHash d (s.hashValues d) with | (t, true) => t.applyHashes r | x => x
/-- Reads lines under access kind engine, from an address on. -/
def State.readImage (s : State) (k va : Nat) : Nat → Option (List (BitVec 1024))
  | 0 => some []
  | n + 1 =>
    match s.engineRead k va 128 true with
    | .error _ => none
    | .ok (v, s1) => (s1.readImage k (va + 128) n).map fun l => BitVec.ofNat 1024 v :: l

/-- The crews with a logical index. -/
def State.logicalCrews (s : State) : List Nat := (s.crews.filter fun p => p.2.logical.isSome).map Prod.fst

/-- MGO (R460): the HASH values are applied, the image is read, and every logical crew is sent it. -/
def execMgo (s : State) : Out :=
  let b := s.pkg.boot
  let refuse := fun (s : State) => s.updBoot fun b => { b with merr := true }
  .next (if !s.portOpen || b.mbusy then s
    else if !b.fdone || b.nlog != b.nans || b.mlen == 0 || decide (65536 < b.mlen) || b.mlen % 128 != 0 || b.mvbase % 128 != 0 then refuse s
    else
      match s.applyHashes [0, 1, 2, 3] with
      | (s1, false) => refuse s1
      | (s1, true) =>
        match s1.readImage (b.crew.getD 0) b.msrc (b.mlen / 128) with
        | none => refuse s1
        | some img =>
          let ks := s1.logicalCrews
          let s2 := s1.updBoot fun b => { b with mbusy := true, acks := 0, image := img, acking := ks, closes := s.clock + 35000 }
          (ks.foldl (fun s k => s.push (.multicastAck k)) s2).after 35000 .multicastTimeout)

/-- The key of a preloaded line of the handler in an instruction cache: no launch has this number. -/
def preloadKey (vline : Nat) : Nat := 2 ^ 34 * 2 ^ 48 + vline
/-- The scheduler registers (R323), under their write rules. [DEDUCED, log 66] -/
def State.schedWrite (s : State) (k r v : Nat) : State :=
  let q := (s.crewAt k).queue
  let idle := q.entries == [] && q.waiting == []
  if r = 0 then if idle && v % 65536 == 0 then s.updQueue k fun q => { q with spillBase := v % 2 ^ 55 } else s
  else if r = 8 then
    let n := v % 2 ^ 21
    if idle && decide (4096 ≤ n) && decide (n ≤ 2 ^ 20) && 2 ^ n.log2 == n then s.updQueue k fun q => { q with spillCap := n } else s
  else if r = 16 then
    let hi := v % 128
    let lo := v / 256 % 128
    if hi ≤ 100 ∧ lo < hi then (s.updQueue k fun q => { q with high := hi, low := lo }).queueMode k else s
  else s
/-- VSAVE (R395). -/
def State.setVsave (s : State) (k v : Nat) : State := s.updCrew k fun c => { c with vsave := BitVec.ofNat 64 (v % 2 ^ 41) }

/-- A crew installs the image and acknowledges (R460): its preloaded lines, `THVEC`, its scheduler registers and VSAVE. The port counts it
while it is open (R457). -/
def execMulticastAck (crew : Nat) (s : State) : Out :=
  let b := s.pkg.boot
  onUnit (decide (crew < 1024)) (if !b.mbusy || !b.acking.contains crew then s
    else
      let e := 0xF0940 + 24 * crew
      let s1 := s.updCrew crew fun c => { c with
        thvec := BitVec.ofNat 64 b.mvbase
        icache := (List.range b.image.length).foldl (fun m j =>
          codePut (Config.victim (s.tick + j)) m (preloadKey (b.mvbase / 128 + j)) (b.image.getD j 0)) c.icache }
      let s2 := (((s1.schedWrite crew 0 (s.storeRead e 8)).schedWrite crew 8 (s.storeRead (e + 8) 8)).setVsave crew (s.storeRead (e + 16) 8))
      if !s.portOpen then s2
      else s2.updBoot fun b => { b with
        acks := b.acks + 1, acking := b.acking.filter fun k => k != crew, mbusy := b.acks + 1 != b.nlog, closes := s.clock + 35000 })
/-- No acknowledgement for 20 µs (R460). -/
def execMulticastTimeout (s : State) : Out :=
  let b := s.pkg.boot
  .next (if !s.portOpen || !b.mbusy then s
    else if s.clock < b.closes then s.after (b.closes - s.clock) .multicastTimeout
    else s.updBoot fun b => { b with mbusy := false, merr := true, acking := [] })

/-- FINISH (R461): the boot is complete or has failed; the enabled links then train (R429), held launches may start (R466), and the jobs
that a shutdown lost are reported to the owner (R440). [DESIGN CHOICE, log 125] -/
def execFinish (s : State) : Out :=
  let b := s.pkg.boot
  .next (if !s.portOpen then s
    else if b.fdone && !b.err && !b.mbusy && !b.merr && b.acks == b.nlog then
      let held := (s.slots.filter fun p => p.2.state == 1).map Prod.fst
      let s0 := (s.updFields fun f => { f with booted := true }).updPkg fun p => { p with lost := [], lostReport := p.lost }
      let s1 := held.foldl (fun s i => s.push (.launchRelease i)) (s0.signal 16)
      ((List.range 16).filter fun n => (s.linkAt n).en && (s.linkAt n).state == 0).foldl (fun s n => s.push (.retrain n)) s1
    else s.bootFails)

/-! The module configuration store (R428) and the shutdown (R440). -/

/-- The written content takes effect at the next power-up. -/
def execStoreCommit (s : State) : Out := .next (s.updPkg fun p => { p with store := p.draft })
/-- The jobs that run. -/
def State.runningJobs (s : State) : List Nat := ((s.slots.filter fun p => p.2.running).map fun p => p.2.job).eraseDups
/-- The module controller resets the package and keeps the jobs that are lost, for the next boot's report. [DESIGN CHOICE, log 125] -/
def execThermalShutdown (s : State) : Out :=
  .next { s with events := [.powerOnReset], timers := [], pkg := { s.pkg with lost := (s.pkg.lost ++ s.runningJobs).eraseDups } }

end Sys2Proof.Machine
end

