-- ==== Sys2Proof/Machine/Control.lean ====
section
/-!
DEFINITION. Writes of the control space (R384, R395, R398, R417, R420–R438, R457): who may write which block, and what a register's
fields take from a write.
-/
namespace Sys2Proof.Machine

/-- A write of a 64-bit register: its new value where it is written, and the bits that are written as 1. -/
structure RegWrite where
  val : Nat
  set : Nat
  mask : Nat
  deriving DecidableEq, Repr

/-- A command takes effect as its register is written: with the values that the registers hold then, before any later write (R418, R427). -/
def State.now (s : State) (f : State → Out) : State := match f s with | .next t => t | _ => s

/-- Whether a launch runs. -/
def State.launchRuns (s : State) : Bool := s.slots.any fun p => p.2.running
/-- Whether a launch of several packages runs (R438). -/
def State.multiRuns (s : State) : Bool := s.slots.any fun p => p.2.running && p.2.pkgs != []

/-- The device memory of the package is named by its package id (R366, R423): a new id gives its bytes and lines new addresses. [DEDUCED, log 91] -/
def State.renumber (s : State) (id : Nat) : State :=
  let old := s.pkg.pkgid
  let s1 := s.copies.foldl (fun s p => s.evict (p.1 / 2 ^ 49) (p.1 % 2 ^ 49)) s
  let at' := fun (a w : Nat) => if a / w = old then id * w + a % w else a
  let keep := fun (a w : Nat) => a / w != id || old == id
  { s1 with
    mem := (s1.mem.filter fun c => keep c.1 (2 ^ 41)).foldl (fun m c => Memory.write m (at' c.1 (2 ^ 41)) c.2) []
    lines := (s1.lines.filter fun p => keep p.1 (2 ^ 34)).foldl (fun m p => mput m (at' p.1 (2 ^ 34)) p.2) []
    watches := s1.watches.map fun w => { w with line := at' w.line (2 ^ 34) }
    leaves := [], walks := []
    pkg := { s1.pkg with pkgid := id, hostPages := s1.pkg.hostPages.map fun p => at' p (2 ^ 25) } }

/-- The package fields (R423). -/
def State.fieldWrite (s : State) (o : Nat) (w : RegWrite) : State :=
  if o = 0 then
    let u := w.val % 64
    let t := w.val / 256 % 2 ^ 20
    s.updFields fun f => { f with uwin := if 20 ≤ u ∧ u ≤ 40 then u else f.uwin, sto := if 10 ≤ t ∧ t ≤ 1000000 then t else f.sto }
  else if o = 0x10 then
    let id := w.val % 2 ^ 15
    if s.launchRuns || decide (0x7FF0 ≤ id) then s else s.renumber id
  else if o = 0x18 then s.rebase (w.val / 4096 * 4096)
  else s

/-- The translation block (R384). -/
def State.translWrite (s : State) (o : Nat) (w : RegWrite) : State :=
  if o = 0x200 then
    if s.launchRuns then s else s.updPkg fun p => { p with root := BitVec.ofNat 64 w.val &&& 0x00FFFFFFFFFF0000#64 }
  else if o = 0x208 then s.updTransl fun t => { t with sdva := w.val % 2 ^ 55 }
  else if o = 0x210 then s.updTransl fun t => { t with sdlen := w.val % 2 ^ 55 }
  else if o = 0x218 then
    let s1 := if w.set.testBit 2 then s.updTransl fun t => { t with bad := false } else s
    if w.set.testBit 0 then s1.now execShootdownGo else s1
  else s

/-- The recovery block (R398) and the bias block (R417). -/
def State.recoveryWrite (s : State) (o : Nat) (w : RegWrite) : State :=
  if o = 0x300 then s.updRecovery fun r => { r with job := w.val % 2 ^ 32 }
  else if o = 0x308 then
    let s1 := if w.set.testBit 4 then s.updRecovery fun r => { r with err := false } else s
    if w.mask % 4 = 0 then s1
    else
      let s2 := s1.updRecovery fun r => { r with cmd := w.val % 4 }
      if w.val % 4 = 1 then s2.now execSwapOut else if w.val % 4 = 2 then s2.now execSwapIn else s2
  else if o = 0x380 then s.updBias fun b => { b with fva := w.val / 65536 % 2 ^ 39 * 65536 }
  else if o = 0x388 then
    let s1 := s.updBias fun b => { b with dir := w.val.testBit 0, err := b.err && !w.set.testBit 3 }
    if w.set.testBit 1 then s1.now execBiasFlipGo else s1
  else s

/-- The interleave sets (R368), their status word, and the reduction tree (R438). -/
def State.setsWrite (s : State) (o : Nat) (w : RegWrite) : State :=
  if 0x400 ≤ o ∧ o < 0x500 then
    let i := (o - 0x400) / 64
    let j := (o - 0x400) % 64 / 8
    if j = 0 ∧ w.val.testBit 63 then s.now (execInterleaveSetWrite i (BitVec.ofNat 64 w.val))
    else s.updPkg fun p => { p with
      sets := mput p.sets i (mput (mget [] p.sets i) j (BitVec.ofNat 64 (w.val &&& setMasks.getD j 0))) }
  else if o = 0x500 then s.updPkg fun p => { p with setFail := p.setFail &&& ~~~(BitVec.ofNat 4 w.set) }
  else if (o = 0x600 ∨ o = 0x608) ∧ !s.multiRuns then
    s.updPkg fun p => { p with tree := mput p.tree ((o - 0x600) / 8) (BitVec.ofNat 64 (if o = 0x600 then w.val % 65536 else w.val)) }
  else s

/-- The package control block (R420). -/
def State.packageWrite (s : State) (o : Nat) (w : RegWrite) : State :=
  if o < 0x200 then s.fieldWrite o w
  else if o < 0x300 then s.translWrite o w
  else if o < 0x400 then s.recoveryWrite o w
  else s.setsWrite o w

/-- A link block (R436) and the route table (R435). -/
def State.linkWrite (s : State) (o : Nat) (w : RegWrite) : State :=
  let n := o / 256
  if 16 ≤ n ∨ o % 256 ≠ 0 then s
  else
    let en := w.val.testBit 2
    let s1 := s.updLink n fun l => { l with en := en }
    let s2 := if !en && (s.linkAt n).state == 2 then s1.now (execLinkDead n) else s1
    if w.set.testBit 3 then s2.now (execRetrain n) else s2
def State.routeWrite (s : State) (o : Nat) (w : RegWrite) : State :=
  s.updPkg fun p => { p with
    routes := (List.range 4).foldl (fun m i => mput m (o / 2 + i) (w.val / 2 ^ (16 * i) % 65536)) p.routes }

/-- A crew block: trap block (R395), scheduler registers (R323) and debug block (R424). -/
def State.crewWrite (s : State) (k o : Nat) (w : RegWrite) : State :=
  if o = 0 then s.now (execPreemptWrite k (BitVec.ofNat 8 w.val))
  else if o = 8 then s.now (execReleaseWrite k (BitVec.ofNat 32 w.set))
  else if o = 0x10 then s.setVsave k w.val
  else if o = 0x18 then if w.mask.testBit 32 then s.now (execDebugFreeze k (w.val.testBit 32)) else s
  else if o = 0x20 then s.now (execDebugWrite k (BitVec.ofNat 32 w.set))
  else if o = 0x40 ∨ o = 0x48 ∨ o = 0x50 then s.schedWrite k (o - 0x40) w.val
  else if o = 0x80 then s.now (execDebugResume k (BitVec.ofNat 32 w.set))
  else if o = 0x88 then if w.set.testBit 0 then s.now (execCreset k) else s
  else s

/-- The boot port (R457). -/
def State.portWrite (s : State) (o : Nat) (w : RegWrite) : State :=
  if o = 0xC00 then
    let s1 := if w.set.testBit 3 then s.updBoot fun b => { b with err := false } else s
    let s2 := if w.set.testBit 0 then s1.now execFlood else s1
    if w.set.testBit 4 then s2.now execFinish else s2
  else if o = 0xC10 then s.updBoot fun b => { b with msrc := w.val % 2 ^ 55 }
  else if o = 0xC18 then s.updBoot fun b => { b with mvbase := w.val % 2 ^ 55 }
  else if o = 0xC20 then s.updBoot fun b => { b with mlen := w.val % 2 ^ 17 }
  else if o = 0xC28 then
    let s1 := if w.set.testBit 2 then s.updBoot fun b => { b with merr := false } else s
    if w.set.testBit 0 then s1.now execMgo else s1
  else s

/-- The store window (R428): written while no launch runs; a 1 in its last byte commits. [DEDUCED, log 93] -/
def State.windowWrite (s : State) (o n v mask : Nat) : State :=
  if s.launchRuns then s
  else
    let new := (s.pkg.draft.readN o n &&& (2 ^ (8 * n) - 1 - mask)) ||| (v &&& mask)
    let s1 := s.updPkg fun p => { p with draft := p.draft.writeN o n new }
    let b := 256 ^ (0x3FFFFF - o)
    if o ≤ 0x3FFFFF ∧ 0x3FFFFF < o + n ∧ mask / b % 256 ≠ 0 ∧ new / b % 256 = 1 then s1.now execStoreCommit else s1

/-- A write of one register by the owner (`dev` false) or by system-mode code, at an 8-byte offset. Code of the part writes the
blocks the manual opens to it: translation, and the crew blocks. [DEDUCED, log 89] -/
def State.wordWrite (s : State) (dev : Bool) (o data mask : Nat) : State :=
  let w : RegWrite := { val := (s.ctlWord o &&& (2 ^ 64 - 1 - mask)) ||| (data &&& mask), set := data &&& mask, mask := mask }
  if 0x1000000 ≤ o ∧ o < 0x1400000 then s.crewWrite ((o - 0x1000000) / 4096) (o % 4096) w
  else if 0x100200 ≤ o ∧ o < 0x100300 then s.translWrite (o - 0x100000) w
  else if dev then s
  else if 0x100000 ≤ o ∧ o < 0x101000 then s.packageWrite (o - 0x100000) w
  else if 0x200000 ≤ o ∧ o < 0x201000 then s.linkWrite (o - 0x200000) w
  else if 0x300000 ≤ o ∧ o < 0x310000 then s.routeWrite (o - 0x300000) w
  else s

/-- A write of some bytes under a bit mask, register by register. -/
def State.wordsWrite (s : State) (dev : Bool) (off n v mask : Nat) : State :=
  let first := off / 8
  (List.range ((off % 8 + n + 7) / 8)).foldl (fun s j =>
    let lo := max off (8 * (first + j))
    let hi := min (off + n) (8 * (first + j) + 8)
    let sh := 8 * (lo - 8 * (first + j))
    let m := mask / 256 ^ (lo - off) % 256 ^ (hi - lo)
    if m = 0 then s else s.wordWrite dev (8 * (first + j)) (v / 256 ^ (lo - off) % 256 ^ (hi - lo) * 2 ^ sh) (m * 2 ^ sh)) s

/-- A write of the boot results block (R457, R459): by system-mode code of the boot crew while the port takes writes. -/
def State.bootWrite (s : State) (o n v bits : Nat) : State :=
  if !s.portOpen || s.pkg.boot.crew != some s.cur.crew then s
  else if 0x10 ≤ o ∧ o < 0x810 then
    if n = 2 ∧ o % 2 = 0 then s.now (execPhysAssign ((o - 0x10) / 2) (BitVec.ofNat 16 v)) else s.updBoot fun b => { b with err := true }
  else
    (List.range ((o % 8 + n + 7) / 8)).foldl (fun s j =>
      let q := o / 8 * 8 + 8 * j
      let cut := fun (x : Nat) => x * 256 ^ (o % 8) / 2 ^ (64 * j) % 2 ^ 64
      let mask := cut bits
      if mask = 0 then s
      else s.portWrite q { val := (s.bootWord q &&& (2 ^ 64 - 1 - mask)) ||| (cut v &&& mask), set := cut v &&& mask, mask := mask }) s

/-- The boot port and the PHYS entries of the boot results block, which no master writes (R422). -/
def bootOnly (o : Nat) : Bool := (decide (0x10 ≤ o) && decide (o < 0x810)) || (decide (0xC00 ≤ o) && decide (o < 0xD00))
/-- A control write of the bits of a mask (R204, R422, R425). Masters are 0–4; 5 stands for system-mode code of the part. -/
def execRegisterWrite (master off n : Nat) (value : CtlWrite) (s : State) : Out :=
  let v := value.value % 256 ^ n
  let m := value.mask % 256 ^ n
  let dev := master == deviceCode
  let boot := decide (0x400000 ≤ off) && decide (off < 0x401000)
  onUnit (decide (master ≤ 5)) (if dev then (if boot then s.bootWrite (off - 0x400000) n v m else s.wordsWrite true off n v m)
    else if boot && bootOnly (off - 0x400000) then s
    else if off = 0x10008 then (if (v &&& m) % 2 = 1 then s.now (execClaim master) else s)
    else if off = 0x10018 then (if (v &&& m) % 2 = 1 then s.now (execAccept master) else s)
    else if s.pkg.mgmt.owner ≠ master then s.reject master
    else if off = 0x10010 then (if m % 8 = 0 then s else s.now (execHandover master (v % 8)))
    else if 0x800000 ≤ off ∧ off < 0xC00000 then s.windowWrite (off - 0x800000) n v m
    else s.wordsWrite false off n v m)

end Sys2Proof.Machine
end

