-- ==== Sys2Proof/Machine/Dispatch.lean ====
section
/-!
DEFINITION. The dispatch: one arm per constructor of `Instr`, each one direct call of its meaning.
-/
namespace Sys2Proof.Machine

/-- The meaning of an instruction or event. -/
def exec (i : Instr) (s : State) : Host.Outcome State Fault Refusal :=
  match i with
  | .add d a b => Sys2Proof.Machine.execAdd d a b s
  | .sub d a b => Sys2Proof.Machine.execSub d a b s
  | .mul d a b => Sys2Proof.Machine.execMul d a b s
  | .mulh d a b => Sys2Proof.Machine.execMulh d a b s
  | .mulhu d a b => Sys2Proof.Machine.execMulhu d a b s
  | .div d a b => Sys2Proof.Machine.execDiv d a b s
  | .divu d a b => Sys2Proof.Machine.execDivu d a b s
  | .rem d a b => Sys2Proof.Machine.execRem d a b s
  | .remu d a b => Sys2Proof.Machine.execRemu d a b s
  | .and d a b => Sys2Proof.Machine.execAnd d a b s
  | .or d a b => Sys2Proof.Machine.execOr d a b s
  | .xor d a b => Sys2Proof.Machine.execXor d a b s
  | .andn d a b => Sys2Proof.Machine.execAndn d a b s
  | .sll d a b => Sys2Proof.Machine.execSll d a b s
  | .srl d a b => Sys2Proof.Machine.execSrl d a b s
  | .sra d a b => Sys2Proof.Machine.execSra d a b s
  | .rol d a b => Sys2Proof.Machine.execRol d a b s
  | .ror d a b => Sys2Proof.Machine.execRor d a b s
  | .min d a b => Sys2Proof.Machine.execMin d a b s
  | .max d a b => Sys2Proof.Machine.execMax d a b s
  | .minu d a b => Sys2Proof.Machine.execMinu d a b s
  | .maxu d a b => Sys2Proof.Machine.execMaxu d a b s
  | .slt d a b => Sys2Proof.Machine.execSlt d a b s
  | .sltu d a b => Sys2Proof.Machine.execSltu d a b s
  | .clz d a => Sys2Proof.Machine.execClz d a s
  | .ctz d a => Sys2Proof.Machine.execCtz d a s
  | .popc d a => Sys2Proof.Machine.execPopc d a s
  | .lea d a b sz => Sys2Proof.Machine.execLea d a b sz s
  | .sext d a w => Sys2Proof.Machine.execSext d a w s
  | .zext d a w => Sys2Proof.Machine.execZext d a w s
  | .sel d a b k => Sys2Proof.Machine.execSel d a b k s
  | .bfx d a p l => Sys2Proof.Machine.execBfx d a p l s
  | .bfxu d a p l => Sys2Proof.Machine.execBfxu d a p l s
  | .bfi d a p l => Sys2Proof.Machine.execBfi d a p l s
  | .addi d a im => Sys2Proof.Machine.execAddi d a im s
  | .andi d a im => Sys2Proof.Machine.execAndi d a im s
  | .ori d a im => Sys2Proof.Machine.execOri d a im s
  | .xori d a im => Sys2Proof.Machine.execXori d a im s
  | .slli d a sz => Sys2Proof.Machine.execSlli d a sz s
  | .srli d a sz => Sys2Proof.Machine.execSrli d a sz s
  | .srai d a sz => Sys2Proof.Machine.execSrai d a sz s
  | .roli d a sz => Sys2Proof.Machine.execRoli d a sz s
  | .slti d a im => Sys2Proof.Machine.execSlti d a im s
  | .sltiu d a im => Sys2Proof.Machine.execSltiu d a im s
  | .movi d im => Sys2Proof.Machine.execMovi d im s
  | .addhi d im => Sys2Proof.Machine.execAddhi d im s
  | .addtop d im => Sys2Proof.Machine.execAddtop d im s
  | .pcadd d im => Sys2Proof.Machine.execPcadd d im s
  | .cmp p a b c => Sys2Proof.Machine.execCmp p a b c s
  | .cmpi c p a im => Sys2Proof.Machine.execCmpi c p a im s
  | .pand d a b => Sys2Proof.Machine.execPand d a b s
  | .por d a b => Sys2Proof.Machine.execPor d a b s
  | .pxor d a b => Sys2Proof.Machine.execPxor d a b s
  | .pandn d a b => Sys2Proof.Machine.execPandn d a b s
  | .pnot d a => Sys2Proof.Machine.execPnot d a s
  | .pmov d a => Sys2Proof.Machine.execPmov d a s
  | .brc p n o => Sys2Proof.Machine.execBrc p n o s
  | .bz a o => Sys2Proof.Machine.execBz a o s
  | .bnz a o => Sys2Proof.Machine.execBnz a o s
  | .j o => Sys2Proof.Machine.execJ o s
  | .jal o => Sys2Proof.Machine.execJal o s
  | .jalr d a im => Sys2Proof.Machine.execJalr d a im s
  | .loop n a l => Sys2Proof.Machine.execLoop n a l s
  | .loopi n c l => Sys2Proof.Machine.execLoopi n c l s
  | .lbrk n => Sys2Proof.Machine.execLbrk n s
  | .csrr d c => Sys2Proof.Machine.execCsrr d c s
  | .csrw a c => Sys2Proof.Machine.execCsrw a c s
  | .csrs a c => Sys2Proof.Machine.execCsrs a c s
  | .csrc a c => Sys2Proof.Machine.execCsrc a c s
  | .spawn d a b => Sys2Proof.Machine.execSpawn d a b s
  | .spawnr d a b => Sys2Proof.Machine.execSpawnr d a b s
  | .yield a => Sys2Proof.Machine.execYield a s
  | .signal a => Sys2Proof.Machine.execSignal a s
  | .arm a b => Sys2Proof.Machine.execArm a b s
  | .cancelLaunch a => Sys2Proof.Machine.execCancelLaunch a s
  | .cancelGraph a => Sys2Proof.Machine.execCancelGraph a s
  | .cancelPhase a => Sys2Proof.Machine.execCancelPhase a s
  | .cancelJob a => Sys2Proof.Machine.execCancelJob a s
  | .ld d a im sz => Sys2Proof.Machine.execLd d a im sz s
  | .lds d a im sz => Sys2Proof.Machine.execLds d a im sz s
  | .st d a im sz => Sys2Proof.Machine.execSt d a im sz s
  | .stnBit d a b => Sys2Proof.Machine.execStnBit d a b s
  | .stnNib d a b => Sys2Proof.Machine.execStnNib d a b s
  | .ldp d a im => Sys2Proof.Machine.execLdp d a im s
  | .stp d a im => Sys2Proof.Machine.execStp d a im s
  | .amoswap d a b w => Sys2Proof.Machine.execAmoswap d a b w s
  | .amocas d a b w => Sys2Proof.Machine.execAmocas d a b w s
  | .amoadd d a b w => Sys2Proof.Machine.execAmoadd d a b w s
  | .join a b sz w t => Sys2Proof.Machine.execJoin a b sz w t s
  | .tread d a b c w t => Sys2Proof.Machine.execTread d a b c w t s
  | .twait d a b c w t => Sys2Proof.Machine.execTwait d a b c w t s
  | .xread d a im sz => Sys2Proof.Machine.execXread d a im sz s
  | .ltype a w t => Sys2Proof.Machine.execLtype a w t s
  | .freeze a b sz => Sys2Proof.Machine.execFreeze a b sz s
  | .lreset a => Sys2Proof.Machine.execLreset a s
  | .lquery d a => Sys2Proof.Machine.execLquery d a s
  | .fence d sz => Sys2Proof.Machine.execFence d sz s
  | .prefxL2 a => Sys2Proof.Machine.execPrefxL2 a s
  | .prefxL1 a => Sys2Proof.Machine.execPrefxL1 a s
  | .waitc t c sz l => Sys2Proof.Machine.execWaitc t c sz l s
  | .lclaim d n => Sys2Proof.Machine.execLclaim d n s
  | .vbcast d a e => Sys2Proof.Machine.execVbcast d a e s
  | .vext d a im j e => Sys2Proof.Machine.execVext d a im j e s
  | .vins d a im j e => Sys2Proof.Machine.execVins d a im j e s
  | .vadd d a b m t => Sys2Proof.Machine.execVadd d a b m t s
  | .vsub d a b m t => Sys2Proof.Machine.execVsub d a b m t s
  | .vmul d a b m t => Sys2Proof.Machine.execVmul d a b m t s
  | .vmulh d a b m t => Sys2Proof.Machine.execVmulh d a b m t s
  | .vmin d a b m t => Sys2Proof.Machine.execVmin d a b m t s
  | .vmax d a b m t => Sys2Proof.Machine.execVmax d a b m t s
  | .vabs d a m t => Sys2Proof.Machine.execVabs d a m t s
  | .vneg d a m t => Sys2Proof.Machine.execVneg d a m t s
  | .vsat d a m t => Sys2Proof.Machine.execVsat d a m t s
  | .vand d a b m t => Sys2Proof.Machine.execVand d a b m t s
  | .vor d a b m t => Sys2Proof.Machine.execVor d a b m t s
  | .vxor d a b m t => Sys2Proof.Machine.execVxor d a b m t s
  | .vshl d a b m t => Sys2Proof.Machine.execVshl d a b m t s
  | .vshr d a b m t => Sys2Proof.Machine.execVshr d a b m t s
  | .vsra d a b m t => Sys2Proof.Machine.execVsra d a b m t s
  | .vfma d a b c m => Sys2Proof.Machine.execVfma d a b c m s
  | .vfms d a b c m => Sys2Proof.Machine.execVfms d a b c m s
  | .vfnma d a b c m => Sys2Proof.Machine.execVfnma d a b c m s
  | .vcmp d a b m c t => Sys2Proof.Machine.execVcmp d a b m c t s
  | .vsel d a b m => Sys2Proof.Machine.execVsel d a b m s
  | .vmov d a m => Sys2Proof.Machine.execVmov d a m s
  | .viota d m => Sys2Proof.Machine.execViota d m s
  | .vperm d a b m => Sys2Proof.Machine.execVperm d a b m s
  | .vslideUp d a k m => Sys2Proof.Machine.execVslideUp d a k m s
  | .vslideDn d a k m => Sys2Proof.Machine.execVslideDn d a k m s
  | .vredsum d a m t => Sys2Proof.Machine.execVredsum d a m t s
  | .vredmin d a m t => Sys2Proof.Machine.execVredmin d a m t s
  | .vredmax d a m t => Sys2Proof.Machine.execVredmax d a m t s
  | .vscanAdd d a m t => Sys2Proof.Machine.execVscanAdd d a m t s
  | .vscanMin d a m t => Sys2Proof.Machine.execVscanMin d a m t s
  | .vscanMax d a m t => Sys2Proof.Machine.execVscanMax d a m t s
  | .vexp2 d a m => Sys2Proof.Machine.execVexp2 d a m s
  | .vlog2 d a m => Sys2Proof.Machine.execVlog2 d a m s
  | .vrcp d a m => Sys2Proof.Machine.execVrcp d a m s
  | .vrsq d a m => Sys2Proof.Machine.execVrsq d a m s
  | .vsqrt d a m => Sys2Proof.Machine.execVsqrt d a m s
  | .vtanh d a m => Sys2Proof.Machine.execVtanh d a m s
  | .vsigm d a m => Sys2Proof.Machine.execVsigm d a m s
  | .vcvt d a m f sz => Sys2Proof.Machine.execVcvt d a m f sz s
  | .vpack d a b m f => Sys2Proof.Machine.execVpack d a b m f s
  | .vunpack d a b m f => Sys2Proof.Machine.execVunpack d a b m f s
  | .vqnt d a b m c f => Sys2Proof.Machine.execVqnt d a b m c f s
  | .vdqnt d a b m c f => Sys2Proof.Machine.execVdqnt d a b m c f s
  | .vld d a m => Sys2Proof.Machine.execVld d a m s
  | .vst d a m => Sys2Proof.Machine.execVst d a m s
  | .vldx d a b m => Sys2Proof.Machine.execVldx d a b m s
  | .vstx d a b m => Sys2Proof.Machine.execVstx d a b m s
  | .joinv d a sz m w t => Sys2Proof.Machine.execJoinv d a sz m w t s
  | .xreadv d a m => Sys2Proof.Machine.execXreadv d a m s
  | .tshape a k => Sys2Proof.Machine.execTshape a k s
  | .tmapId e a b => Sys2Proof.Machine.execTmapId e a b s
  | .tmapTrans e a b => Sys2Proof.Machine.execTmapTrans e a b s
  | .tmapSlice e a b => Sys2Proof.Machine.execTmapSlice e a b s
  | .tmapStride e a b => Sys2Proof.Machine.execTmapStride e a b s
  | .tmapBcast e a b => Sys2Proof.Machine.execTmapBcast e a b s
  | .tmapGather e a b => Sys2Proof.Machine.execTmapGather e a b s
  | .talloc e k => Sys2Proof.Machine.execTalloc e k s
  | .trel e => Sys2Proof.Machine.execTrel e s
  | .tstat e a => Sys2Proof.Machine.execTstat e a s
  | .bankfmt b k => Sys2Proof.Machine.execBankfmt b k s
  | .shpld k => Sys2Proof.Machine.execShpld k s
  | .tload e a => Sys2Proof.Machine.execTload e a s
  | .tstore e a => Sys2Proof.Machine.execTstore e a s
  | .tforce e a b => Sys2Proof.Machine.execTforce e a b s
  | .tmm e a b c => Sys2Proof.Machine.execTmm e a b c s
  | .tmmx e a b c => Sys2Proof.Machine.execTmmx e a b c s
  | .tmprog a => Sys2Proof.Machine.execTmprog a s
  | .tew e a b o => Sys2Proof.Machine.execTew e a b o s
  | .tred e a x o => Sys2Proof.Machine.execTred e a x o s
  | .tcvt e a => Sys2Proof.Machine.execTcvt e a s
  | .ttrans e a => Sys2Proof.Machine.execTtrans e a s
  | .tgath e a b => Sys2Proof.Machine.execTgath e a b s
  | .tqnt e a sz => Sys2Proof.Machine.execTqnt e a sz s
  | .cpy n a b => Sys2Proof.Machine.execCpy n a b s
  | .cpymm n a b => Sys2Proof.Machine.execCpymm n a b s
  | .cqfence m => Sys2Proof.Machine.execCqfence m s
  | .cstat n a => Sys2Proof.Machine.execCstat n a s
  | .coll sz a b c o => Sys2Proof.Machine.execColl sz a b c o s
  | .collw sz => Sys2Proof.Machine.execCollw sz s
  | .codeShadowFullRetire record va pc => Sys2Proof.Machine.execCodeShadowFullRetire record va pc s
  | .recordEnqueue crew record prio src => Sys2Proof.Machine.execRecordEnqueue crew record prio src s
  | .joinCountDecrement record epc src => Sys2Proof.Machine.execJoinCountDecrement record epc src s
  | .cancelDelivery record => Sys2Proof.Machine.execCancelDelivery record s
  | .interruptEntry c => Sys2Proof.Machine.execInterruptEntry c s
  | .asyncFaultDelivery c => Sys2Proof.Machine.execAsyncFaultDelivery c s
  | .blockTimerExpiry c => Sys2Proof.Machine.execBlockTimerExpiry c s
  | .contextTakesRecord crew => Sys2Proof.Machine.execContextTakesRecord crew s
  | .parkAfterStoreEntry c => Sys2Proof.Machine.execParkAfterStoreEntry c s
  | .vectorCommandComplete c => Sys2Proof.Machine.execVectorCommandComplete c s
  | .arrivalBatch c => Sys2Proof.Machine.execArrivalBatch c s
  | .arrivalBatchTimer c => Sys2Proof.Machine.execArrivalBatchTimer c s
  | .tagClose c tag => Sys2Proof.Machine.execTagClose c tag s
  | .fenceComplete c => Sys2Proof.Machine.execFenceComplete c s
  | .hashctlWrite die value => Sys2Proof.Machine.execHashctlWrite die value s
  | .domainSwitch die => Sys2Proof.Machine.execDomainSwitch die s
  | .splitctlWrite crew value => Sys2Proof.Machine.execSplitctlWrite crew value s
  | .splitsFull crew => Sys2Proof.Machine.execSplitsFull crew s
  | .tloadBeat crew node => Sys2Proof.Machine.execTloadBeat crew node s
  | .sweepPass crew node => Sys2Proof.Machine.execSweepPass crew node s
  | .lanePass crew node => Sys2Proof.Machine.execLanePass crew node s
  | .conversionStep crew node => Sys2Proof.Machine.execConversionStep crew node s
  | .copyBeat c q => Sys2Proof.Machine.execCopyBeat c q s
  | .cpymmFollowOn c q => Sys2Proof.Machine.execCpymmFollowOn c q s
  | .writeOutLine crew => Sys2Proof.Machine.execWriteOutLine crew s
  | .reductionPartial launch slot part => Sys2Proof.Machine.execReductionPartial launch slot part s
  | .launchRelease slot => Sys2Proof.Machine.execLaunchRelease slot s
  | .phaseBoundary job => Sys2Proof.Machine.execPhaseBoundary job s
  | .launchComplete slot => Sys2Proof.Machine.execLaunchComplete slot s
  | .stealRequest thief victim => Sys2Proof.Machine.execStealRequest thief victim s
  | .stealReply thief record prio => Sys2Proof.Machine.execStealReply thief record prio s
  | .stealRoundTimer thief => Sys2Proof.Machine.execStealRoundTimer thief s
  | .messageSpill crew msg => Sys2Proof.Machine.execMessageSpill crew msg s
  | .rollbackRestart job => Sys2Proof.Machine.execRollbackRestart job s
  | .registerWrite master off n value => Sys2Proof.Machine.execRegisterWrite master off n value s
  | .railSettled unit => Sys2Proof.Machine.execRailSettled unit s
  | .joinAtHome line join => Sys2Proof.Machine.execJoinAtHome line join s
  | .discoveryAnswer crew => Sys2Proof.Machine.execDiscoveryAnswer crew s
  | .physAssign index value => Sys2Proof.Machine.execPhysAssign index value s
  | .multicastAck crew => Sys2Proof.Machine.execMulticastAck crew s
  | .interleaveSetWrite set value => Sys2Proof.Machine.execInterleaveSetWrite set value s
  | .preemptWrite crew value => Sys2Proof.Machine.execPreemptWrite crew value s
  | .releaseWrite crew value => Sys2Proof.Machine.execReleaseWrite crew value s
  | .debugWrite crew value => Sys2Proof.Machine.execDebugWrite crew value s
  | .debugFreeze crew on => Sys2Proof.Machine.execDebugFreeze crew on s
  | .debugResume crew value => Sys2Proof.Machine.execDebugResume crew value s
  | .creset crew => Sys2Proof.Machine.execCreset crew s
  | .frozenAbortTimeout crew => Sys2Proof.Machine.execFrozenAbortTimeout crew s
  | .claim master => Sys2Proof.Machine.execClaim master s
  | .handover master target => Sys2Proof.Machine.execHandover master target s
  | .accept master => Sys2Proof.Machine.execAccept master s
  | .linkDead link => Sys2Proof.Machine.execLinkDead link s
  | .retrain link => Sys2Proof.Machine.execRetrain link s
  | .flowSkip flow lost => Sys2Proof.Machine.execFlowSkip flow lost s
  | .flitReceive link flit => Sys2Proof.Machine.execFlitReceive link flit s
  | .umpireWindowExpiry slot => Sys2Proof.Machine.execUmpireWindowExpiry slot s
  | .busyRetryTimer slice => Sys2Proof.Machine.execBusyRetryTimer slice s
  | .linkReplayTimer link => Sys2Proof.Machine.execLinkReplayTimer link s
  | .storeTimeout c tag => Sys2Proof.Machine.execStoreTimeout c tag s
  | .homeRead agent line => Sys2Proof.Machine.execHomeRead agent line s
  | .homeWriteOwn agent line => Sys2Proof.Machine.execHomeWriteOwn agent line s
  | .homeUncachedWrite pa n data mask => Sys2Proof.Machine.execHomeUncachedWrite pa n data mask s
  | .homeUncachedRead line => Sys2Proof.Machine.execHomeUncachedRead line s
  | .homeWriteBack agent line => Sys2Proof.Machine.execHomeWriteBack agent line s
  | .systemAtomicAtHome pa op dbl cmp new => Sys2Proof.Machine.execSystemAtomicAtHome pa op dbl cmp new s
  | .lowerBoundFill agent line => Sys2Proof.Machine.execLowerBoundFill agent line s
  | .deltaGrant agent line => Sys2Proof.Machine.execDeltaGrant agent line s
  | .deltaDrain agent line => Sys2Proof.Machine.execDeltaDrain agent line s
  | .watchRegistration watch => Sys2Proof.Machine.execWatchRegistration watch s
  | .freezeLine line => Sys2Proof.Machine.execFreezeLine line s
  | .freezeNotice agent line => Sys2Proof.Machine.execFreezeNotice agent line s
  | .probe agent line tag kind => Sys2Proof.Machine.execProbe agent line tag kind s
  | .fillReply agent line tag => Sys2Proof.Machine.execFillReply agent line tag s
  | .pageWalk slice va => Sys2Proof.Machine.execPageWalk slice va s
  | .seqChunkWrite slot chunk => Sys2Proof.Machine.execSeqChunkWrite slot chunk s
  | .controlCancel slot => Sys2Proof.Machine.execControlCancel slot s
  | .controlRelease slot => Sys2Proof.Machine.execControlRelease slot s
  | .controlCancelJob slot => Sys2Proof.Machine.execControlCancelJob slot s
  | .controlNoAction slot => Sys2Proof.Machine.execControlNoAction slot s
  | .uncorrectableError array unit item => Sys2Proof.Machine.execUncorrectableError array unit item s
  | .scrub line badBytes => Sys2Proof.Machine.execScrub line badBytes s
  | .hostJoin off n data enables => Sys2Proof.Machine.execHostJoin off n data enables s
  | .hostWrite off n data enables => Sys2Proof.Machine.execHostWrite off n data enables s
  | .hostRead off n => Sys2Proof.Machine.execHostRead off n s
  | .hostSnoop half => Sys2Proof.Machine.execHostSnoop half s
  | .hostWriteAck c => Sys2Proof.Machine.execHostWriteAck c s
  | .ownerLoss master => Sys2Proof.Machine.execOwnerLoss master s
  | .hostLinkTrained fast => Sys2Proof.Machine.execHostLinkTrained fast s
  | .laneLockLoss link lost => Sys2Proof.Machine.execLaneLockLoss link lost s
  | .linkTrained link peer lanes => Sys2Proof.Machine.execLinkTrained link peer lanes s
  | .thermalThrottle die temp => Sys2Proof.Machine.execThermalThrottle die temp s
  | .notAnInstruction word => Sys2Proof.Machine.execNotAnInstruction word s
  | .instructionFetchFault reason => Sys2Proof.Machine.execInstructionFetchFault reason s
  | .crewPowerGating crew on => Sys2Proof.Machine.execCrewPowerGating crew on s
  | .ecall => Sys2Proof.Machine.execEcall s
  | .ebreak => Sys2Proof.Machine.execEbreak s
  | .tret => Sys2Proof.Machine.execTret s
  | .halt => Sys2Proof.Machine.execHalt s
  | .done => Sys2Proof.Machine.execDone s
  | .lfree => Sys2Proof.Machine.execLfree s
  | .vsync => Sys2Proof.Machine.execVsync s
  | .swapOut => Sys2Proof.Machine.execSwapOut s
  | .swapOutComplete => Sys2Proof.Machine.execSwapOutComplete s
  | .swapIn => Sys2Proof.Machine.execSwapIn s
  | .shootdownGo => Sys2Proof.Machine.execShootdownGo s
  | .shootdownComplete => Sys2Proof.Machine.execShootdownComplete s
  | .biasFlipGo => Sys2Proof.Machine.execBiasFlipGo s
  | .biasFlipPoint => Sys2Proof.Machine.execBiasFlipPoint s
  | .handoverTimeout => Sys2Proof.Machine.execHandoverTimeout s
  | .storeCommit => Sys2Proof.Machine.execStoreCommit s
  | .powerOnReset => Sys2Proof.Machine.execPowerOnReset s
  | .bootStart => Sys2Proof.Machine.execBootStart s
  | .flood => Sys2Proof.Machine.execFlood s
  | .discoveryWindowClose => Sys2Proof.Machine.execDiscoveryWindowClose s
  | .mgo => Sys2Proof.Machine.execMgo s
  | .multicastTimeout => Sys2Proof.Machine.execMulticastTimeout s
  | .finish => Sys2Proof.Machine.execFinish s
  | .thermalShutdown => Sys2Proof.Machine.execThermalShutdown s

end Sys2Proof.Machine
end

