-- ==== Sys2Proof/Machine/Fetch.lean ====
section
/-!
DEFINITION. Which context issues next (R18, R19, R402), when a wait ends, and the fetch of an instruction word (R117, R144, R361,
R454).
-/
namespace Sys2Proof.Machine

/-! Issue. -/

/-- Whether the condition a context waits for has cleared; it then issues its instruction again (R18). -/
def State.waitOver (s : State) (i : CtxId) : Bool :=
  let c := s.ctxAt i
  let k := s.crewAt i.crew
  match c.wait with
  | none | some .step | some .freezing | some .tableFull | some .alloc | some .readyFull => true
  | some .answer | some .fence | some .domain => c.answer.isSome
  | some .stores => c.drained && !s.writesOut c.record
  | some .spawned => c.drained
  | some .settled => c.settled
  | some (.line l) => !s.lineBusy l || s.serving.contains (l, i)
  | some .requests => !s.requestsHeld i.crew
  | some .reply => !s.replies.any fun x => x.reader == 32 * i.crew + i.n && x.answer == .pending
  | some .tagOpen => c.tagsClosed
  | some (.retiring f) => (f || c.drained) && !s.splitsLacks i.crew
  | some .hostAcks => c.hostWrites == 0
  | some .vector => c.vq == []
  | some (.counters a b d e) => c.cnt.within a b d e
  | some (.collective e) => match mget? k.colls e with | some x => !s.roundOpen e x | none => true
  | some (.ownRound e) => !s.ownRoundOpen c.record e
  | some (.slot kc n) => let t := s.tileAt kc n; !t.alloc || t.complete || (kc == i.crew && (s.writerOf kc n).isSome)
  | some (.faulted kc n) => match s.nodeAt? kc n with | some x => x.owed.isNone | none => true
  | some .pinFull => k.freePinEntry.isSome
  | some (.queueFull q) => decide ((s.queueAt i q).entries.length < 32) && decide (s.seatCopies i < 128)
  | some .engines => !{ s with cur := i }.enginesBusy

/-- Whether a context is able to issue: ACTIVE or HANDLER with an instruction that may be accepted, or STALLED on a condition that has
cleared; not halted, stopped or gated. A crew that leaves still completes its domain changes (R397). -/
def State.issuable (s : State) (i : CtxId) : Bool :=
  let c := s.ctxAt i
  !c.stopped && !c.halted && !(s.crewAt i.crew).gated && (!(s.crewAt i.crew).leaving || c.wait == some .domain) &&
    ((c.st == .active || c.st == .handler || c.st == .stalled) && s.waitOver i)

/-- A seat's choice: round-robin, starting after the context that issued last (R19). -/
def State.seatPick (s : State) (k seat : Nat) : Option CtxId :=
  let last := mget 3 (s.crewAt k).seatLast seat
  (((List.range 4).map fun j => ({ crew := k, n := 4 * seat + (last + 1 + j) % 4 } : CtxId)).find? s.issuable)
/-- The seats of the part's crews as numbers 8 × crew + seat. -/
def State.seats (s : State) : List Nat := s.crews.flatMap fun p => (List.range 8).map fun j => 8 * p.1 + j
/-- The next context to issue: the seats take turns, one instruction each. -/
def State.nextContext (s : State) : Option CtxId :=
  let here := 8 * s.cur.crew + s.cur.n / 4
  ((s.seats.filter fun x => decide (here < x)) ++ s.seats.filter fun x => decide (x ≤ here)).findSome? fun x => s.seatPick (x / 8) (x % 8)

/-- The context that issues becomes the current one, in the mode it waited in (R18). One that waits for its instruction's acceptance still
does (R167, R199). -/
def State.issue (s : State) (i : CtxId) : State :=
  let s1 := s.updCrew i.crew fun c => { c with seatLast := mput c.seatLast (i.n / 4) (i.n % 4) }
  let s2 := { s1 with cur := i, actor := (s.ctxAt i).launchId }
  s2.updCtx i fun c =>
    if c.ending || c.st != .stalled then c else { c with st := if c.depth = 0 then .active else .handler, wait := none }
/-- The current context's instruction is tried: it waits for nothing. -/
def State.tries (s : State) : State := s.upd fun c => { c with wait := none }

/-- The master of a control write. -/
def masterOf : Instr → Option Nat
  | .registerWrite m _ _ _ | .claim m | .accept m | .handover m _ => some m
  | _ => none
/-- The next of the events that are pending, and the others: the oldest, but control writes that stand together at the front come in the
same cycle, and are applied in ascending master id (R427). [DESIGN CHOICE, log 12] -/
def pickEvent (es : List Instr) : Option (Instr × List Instr) :=
  let run := es.takeWhile fun e => (masterOf e).isSome
  match (run.filterMap masterOf).min? with
  | none => match es with | e :: r => some (e, r) | [] => none
  | some m =>
    match es.findIdx? fun e => masterOf e == some m with
    | some i => es[i]?.map fun e => (e, es.eraseIdx i)
    | none => none

/-- A timer that is due, the earliest first. -/
def State.dueTimer (s : State) : Option (Instr × State) :=
  let due := s.timers.filter fun t => decide (t.1 ≤ s.clock)
  match due.foldl (fun (b : Option (Nat × Instr)) t => match b with
      | some x => if t.1 < x.1 then some t else b
      | none => some t) none with
  | none => none
  | some t => some (t.2, { s with timers := s.timers.erase t })

/-! Fetch. -/

/-- What a fetch gives. -/
inductive Fetched where
  | word (w : BitVec 32) (s : State)
  /-- A fault of access kind fetch, by its reason (R196). -/
  | failed (reason : Nat) (s : State)
  /-- A task-mode fetch from a system page (R53), with the word that lies there. -/
  | privileged (w : BitVec 32) (s : State)
  /-- The line is another package's, which has not answered, or the crew holds its requests (R365). -/
  | waits (s : State)

/-- The key of a line of a launch in an instruction cache. -/
def codeKey (launch vline : Nat) : Nat := launch * 2 ^ 48 + vline
/-- The word of a line at an address. -/
def lineWord (d : BitVec 1024) (va : Nat) : BitVec 32 := d.extractLsb' (8 * (va % 128)) 32
/-- The key of a line fetched from a system page: system-mode code alone runs it (R34, R134). -/
def systemKey (launch vline : Nat) : Nat := (launch + 2 ^ 33) * 2 ^ 48 + vline
/-- A fetched line is installed (R361). -/
def State.installCode (s : State) (key : Nat) (d : BitVec 1024) : State :=
  s.updCrew s.cur.crew fun c => { c with icache := codePut (Config.victim s.tick) c.icache key d }

/-- Whether system-mode code lies in the resident handler's image (R430). [DEDUCED, log 42] -/
def State.inHandler (s : State) (va : Nat) : Bool :=
  s.cx.depth != 0 && decide (s.pkg.boot.mvbase ≤ va) && decide (va < s.pkg.boot.mvbase + s.pkg.boot.mlen)
/-- The line of the handler's die-0 copy (R361, R415). -/
def State.handlerLine (s : State) (va : Nat) : Nat :=
  lineOf (s.pkg.pkgid * 2 ^ 41 + 0x2FFFF00000 + (va / 128 * 128 - s.pkg.boot.mvbase))

/-- A line fetched through the slice: of a launch's code shadow where it has one (R117, R361), else as the page reads. [DEDUCED, log 41] -/
def State.fetchLine (s : State) (va : Word) : Fetched :=
  let base := va &&& ~~~(127#64)
  match (if s.requestsHeld s.cur.crew then .error heldReason else s.leafFor (s.sliceFor s.cur.crew va) va needEx) with
  | .error r => if r = heldReason then .waits (s.upd fun c => { c with wait := some .requests }) else .failed r s
  | .ok (leaf, s1) =>
    match pageVerdict .fetch leaf.kind s.taskMode with
    | some (.cause c) => .failed (c % 16) s1
    | v =>
      match s1.dataAt (some s.reader) false s.cur.crew leaf base 128 with
      | .error r => if r = awaitsReply then .waits ((s1.askLine leaf base).upd fun c => { c with wait := some .reply }) else .failed r (if s.isRemote leaf base then s1.dropReplies else s1)
      | .ok (x, s3) =>
        let s2 := s3.readDone leaf base
        let own := match s1.bytesAt (leaf.addr base) with
          | some p => s1.shadows.find? fun (e : Shadow) => e.launch == s.cx.launchId && e.line == lineOf p
          | none => none
        let d := match own with | some e => e.data | none => BitVec.ofNat 1024 x
        let w := lineWord d va.toNat
        if v.isSome then .privileged w s2 else .word w (s2.installCode ((if leaf.kind = 1 then systemKey else codeKey) s.cx.launchId (va.toNat / 128)) d)

/-- The line of the current context's PC that its crew's instruction cache holds; in system mode also of a preloaded handler and of system
pages. -/
def State.cachedCode (s : State) : Option (BitVec 1024) :=
  let ic := (s.crewAt s.cur.crew).icache
  let l := s.pc.toNat / 128
  let own := mget? ic (codeKey s.cx.launchId l)
  if s.cx.depth = 0 then own
  else match mget? ic (preloadKey l) with
    | some d => some d
    | none => match mget? ic (systemKey s.cx.launchId l) with | some d => some d | none => own
/-- The word at the current context's PC (R117, R144, R361, R454). A PC that is no virtual address is non-canonical (R54). -/
def State.fetch (s : State) : Fetched :=
  let va := s.pc.toNat
  if s.cx.boot ∧ va < 0x1000 then .word (romWord va) s
  else if s.pc.extractLsb' 55 9 ≠ 0 then .failed 0 s
  else
    match s.cachedCode with
    | some d => .word (lineWord d va) s
    | none =>
      if s.inHandler va then
        let l := s.handlerLine va
        if (s.metaOf l).poison then .failed 7 s
        else .word (lineWord (s.lineData l) va) (s.installCode (preloadKey (va / 128)) (s.lineData l))
      else s.fetchLine s.pc

end Sys2Proof.Machine
end

