-- ==== Sys2Proof/Machine/Step.lean ====
section
/-!
DEFINITION. One step of the machine: its oldest pending event, else a timer that is due, else one instruction of the context whose
turn it is.
-/
namespace Sys2Proof.Machine

/-- Applies a function to a next state. -/
def mapNext (f : State → State) : Host.Outcome State Fault Refusal → Host.Outcome State Fault Refusal
  | .next s => .next (f s)
  | .fault e => .fault e
  | .refused r => .refused r

/-- The cycles of a step pass, one at least unless an event is pending, since events of one cycle may take several steps; the model's counter for
free values advances. [DESIGN CHOICE, log 1] -/
def State.tickOn (s : State) : State :=
  { s with clock := s.clock + (if s.events = [] then 1 else 0) + Config.stepCycles s.tick, tick := s.tick + 1 }

/-- The current context issues: an asynchronous fault or an interrupt first (R388, R394), unless its instruction has issued and waits for its
acceptance (R167, R199), else the end of a task that was waiting to end (R49), else the instruction at its PC. A task-mode fetch of a system page is a privileged operation before the word is decoded
(R34, R115). [DEDUCED, log 41] -/
def State.runContext (s : State) : Host.Outcome State Fault Refusal :=
  match s.asyncFault s.cur with
  | some t => .next t
  | none =>
    if s.cx.ending then .next (s.endTask s.cur (s.cx.wait == some (.retiring true)))
    else if s.mayInterrupt s.cur then .next (s.takeInterrupt s.cur)
    else
      match s.tries.fetch with
      | .failed r t => execInstructionFetchFault r t
      | .waits t => .next t
      | .privileged w t => (Res.trap 0x06 (w.setWidth 64) t).close
      | .word w t =>
        match decode w with
        | .ok i => exec i t
        | .error _ => execNotAnInstruction w t

/-- One step. Reports that were posted reach their queues at its end (R320). [DESIGN CHOICE, log 12] -/
def step (s : State) : Host.Outcome State Fault Refusal :=
  let s0 := s.tickOn
  mapNext State.settle (match pickEvent s0.events with
    | some (e, r) => exec e { s0 with events := r }
    | none =>
      match s0.dueTimer with
      | some (e, t) => exec e t
      | none =>
        match s0.nextContext with
        | some i => (s0.issue i).runContext
        | none => .next s0)

/-- A task-mode context that is ready to issue, with no interrupt or fault pending. -/
def Ctx.ready (c : Ctx) : Ctx :=
  { c with
    st := .active, wait := none, halted := false, stopped := false, boot := false, pendPre := false, pendSplits := false
    pendDbg := false, vpoison := none, queues := Vector.replicate 4 CopyQueue.fresh
    trap := { c.trap with tstatus := c.trap.tstatus &&& ~~~(3#64) } }

/-- A state in which the next step runs the instruction of a word: nothing else is due, it is context 0 of crew 0's turn, its PC is
an address, and the word lies there in the crew's instruction cache. [DEDUCED, log 11] -/
def State.withFetchWord (s : State) (nbits w : Nat) : State :=
  let c0 := (s.ctxAt { crew := 0, n := 0 }).ready
  let c := { c0 with pc := (c0.pc.extractLsb' 0 55).setWidth 64 }
  let key := codeKey c.launchId (c.pc.toNat / 128)
  let sh := 8 * (c.pc.toNat % 128)
  let old := mget (0 : BitVec 1024) (s.crewAt 0).icache key
  let line := mergeBits old (BitVec.ofNat 1024 (w % 2 ^ min nbits 32 * 2 ^ sh)) (BitVec.ofNat 1024 (0xFFFFFFFF * 2 ^ sh))
  ({ s with events := [], timers := [], cur := { crew := 1023, n := 31 } }).updCrew 0 fun k => { k with
    ctxs := mput k.ctxs 0 c, seatLast := mput k.seatLast 0 3, gated := false, leaving := false, nodes := [], icache := mput k.icache key line }

end Sys2Proof.Machine
end

