-- ==== Sys2Proof/Safety.lean ====
section
/-!
DEFINITION. What counts as a safe run, the data that stays well formed in every step, and the frames in which the statements say
what an instruction writes and what it leaves.
-/
namespace Sys2Proof.Machine

/-- A state from which any number of steps ends in a next state. -/
def State.Safe (s : State) : Prop := ∀ k, ∃ t, Host.Core.run Sys2Proof.core k s = Host.Outcome.next t

/-- Device memory is in its canonical form. -/
def State.MemWf (s : State) : Prop := Memory.wf s.mem = true

/-! Frames. -/

/-- Every byte of the 56-bit physical space (R366) reads as before. -/
def State.SameBytes (s t : State) : Prop := ∀ pa < 2 ^ 56, t.byteAt pa = s.byteAt pa

/-- Every byte of the physical space outside `n` bytes at an address reads as before. -/
def State.SameBytesBut (s t : State) (p n : Nat) : Prop := ∀ pa < 2 ^ 56, ¬(p ≤ pa ∧ pa < p + n) → t.byteAt pa = s.byteAt pa

/-- Every context but the issuing one is as before. -/
def State.SameOthers (s t : State) : Prop := ∀ i, i ≠ s.cur → t.ctxAt i = s.ctxAt i

/-- Nothing has changed but the issuing context, and no byte of memory. -/
structure State.OnlyHere (s t : State) : Prop where
  rest : t = s.upd fun _ => t.cx
  bytes : s.SameBytes t

/-- x(d) holds a value, unless d is the x0 that discards it (R22); the other scalar registers, and all of the machine but the PC
and the loop registers as `Step` leaves them (R149), are as before. -/
structure State.GivesX (s : State) (d : BitVec 6) (v : Word) (t : State) : Prop where
  value : t.X d = if d = 0 then 0 else v
  others : ∀ r, r ≠ d → t.X r = s.X r
  context : t.cx = { s.cx.advance .seq with x := t.cx.x }
  only : s.OnlyHere t

/-- The same of a predicate. -/
structure State.GivesP (s : State) (d : BitVec 3) (b : Bool) (t : State) : Prop where
  value : t.P d = if d = 0 then true else b
  others : ∀ r, r ≠ d → t.P r = s.P r
  context : t.cx = { s.cx.advance .seq with p := t.cx.p }
  only : s.OnlyHere t

/-- The context goes on at `n` and nothing else changes. -/
structure State.Goes (s : State) (n : Next) (t : State) : Prop where
  context : t.cx = s.cx.advance n
  only : s.OnlyHere t

/-- The instruction completes in a next state with a property. -/
def State.Runs (s : State) (i : Instr) (q : State → Prop) : Prop := ∃ t, exec i s = .next t ∧ q t

/-- `Step` of R149 over the loops in the order it examines them. -/
def walkLoops (next pc : Word) (jump : Bool) : List Loop → List Loop × Word
  | [] => ([], next)
  | l :: r =>
    if l.lc = 0 then
      let w := walkLoops next pc jump r
      (l :: w.1, w.2)
    else if next = l.le then
      if l.lc = 1 then
        let w := walkLoops next pc jump r
        ({ l with lc := 0 } :: w.1, w.2)
      else ({ l with lc := l.lc - 1 } :: r, l.ls)
    else
      let w := walkLoops next pc jump r
      if jump = true ∧ l.ls.toNat ≤ pc.toNat ∧ pc.toNat < l.le.toNat ∧ (next.toNat < l.ls.toNat ∨ l.le.toNat < next.toNat)
      then ({ l with lc := 0 } :: w.1, w.2)
      else (l :: w.1, w.2)

/-! Vector instructions. -/

/-- A vector instruction can issue: its context's queue has room, and `s1` is the state once lanes are claimed for a context that
holds none (R162, R165). -/
def State.LanesReady (s s1 : State) : Prop := s.cx.vq.length < 16 ∧ s.implicitClaim = some s1

/-- v(d) holds a value, and a command with the flags `f` is queued, whose completion is a pending event; the other vector registers,
and all of the machine but the PC and the loop registers, are as before. -/
structure State.GivesV (s : State) (d : BitVec 5) (r : VReg) (f : Flags) (t : State) : Prop where
  value : t.V d = r
  others : ∀ k, k ≠ d → t.V k = s.V k
  context : t.cx = { s.cx.advance .seq with v := t.cx.v, vq := s.cx.vq ++ [{ flags := f, isLoad := false }] }
  rest : t = (s.upd fun _ => t.cx).push (.vectorCommandComplete s.cur)
  bytes : s.SameBytes t

/-- The flags of 64 elements together. -/
def orAll (f : Nat → Flags) : Flags := (List.range 64).foldl (fun a j => a ||| f j) 0

/-- A vector instruction whose elements raise the flags `f` (R77): with none of them enabled it completes, gives v(d) and queues every
flag; else it traps with the lowest enabled flag, naming the first element that raised one and all it raised. -/
structure State.RunsLanes (s s1 : State) (i : Instr) (d : BitVec 5) (q : VReg → Prop) (f : Nat → Flags) : Prop where
  completes : (∀ j < 64, f j &&& trapEnables s.cx.fp.fpctl = 0) → ∃ r, q r ∧ s.Runs i (s1.GivesV d r (orAll f))
  traps : ∀ j < 64, ∀ c < 5, f j &&& trapEnables s.cx.fp.fpctl ≠ 0 → (∀ k < j, f k &&& trapEnables s.cx.fp.fpctl = 0) →
    (∃ k < 64, (f k &&& trapEnables s.cx.fp.fpctl).getLsbD c = true) →
    (∀ e < c, ∀ k < 64, (f k &&& trapEnables s.cx.fp.fpctl).getLsbD e = false) →
    exec i s = .next (s1.enterTrap s.cur (0x40 + c)
      (BitVec.ofNat 64 (j + 2 ^ 16 * (f j &&& trapEnables s.cx.fp.fpctl).toNat)) s.pc 0 false)

/-- Whether element `j` is active under a mask field (R174): all are under 0. -/
def State.active (s : State) (m : BitVec 3) (j : Nat) : Bool := m == 0 || (s.V (m.setWidth 5)).getLsbD j

/-- A register whose active elements of width `w` are `f`, the others being those of v(d) (R174). -/
def State.Lanewise (s : State) (d : BitVec 5) (m : BitVec 3) (w : Nat) (f : Nat → BitVec w) (r : VReg) : Prop :=
  ∀ j < 2048 / w, velem r w j = if s.active m j then f j else velem (s.V d) w j

/-! Rounding, against the exact value (R69–R71). -/

/-- The value of a float magnitude code with `m` fraction bits, in units of the format's least subnormal (R64). -/
def fltUnits (m c : Nat) : Nat := if c < 2 ^ m then c else (2 ^ m + c % 2 ^ m) * 2 ^ (c / 2 ^ m - 1)

/-- Rounding of a magnitude to one of its two neighbours among the values `u`, as R69 chooses. The magnitude is given by comparison: it is at
least `k / 256` units where `f k ≤ b`, and equal to it where `f k = b`, for an increasing `f`. -/
def Picks (u f : Nat → Nat) (b : Nat) (neg : Bool) (mode : Mode) (c : Nat) : Prop :=
  ∃ lo, f (256 * u lo) ≤ b ∧ b < f (256 * u (lo + 1)) ∧
    let half := f (128 * (u lo + u (lo + 1)))
    let up : Prop := match mode with
      | .rne => half < b ∨ (half = b ∧ lo % 2 = 1)
      | .rtz => False
      | .up => neg = false ∧ f (256 * u lo) < b
      | .down => neg = true ∧ f (256 * u lo) < b
      | .sr dv => f (256 * u lo + (256 - dv) * (u (lo + 1) - u lo)) ≤ b
    (up → c = lo + 1) ∧ (¬up → c = lo)

/-- `RoundTo` of a magnitude into a float format with `m` fraction bits, the largest finite magnitude code `mx` and the infinity `im`: the
magnitude code and the flags (R69, R71, R75). -/
def RoundsTo (m mx : Nat) (im : Option Nat) (f : Nat → Nat) (b : Nat) (neg : Bool) (mode : Mode) (q : Nat × Flags) : Prop :=
  ∃ c, Picks (fltUnits m) f b neg mode c ∧
    let exact := f (256 * fltUnits m c) = b
    (c ≤ mx → q = (c, (if exact then 0 else flagNX) ||| (if ¬exact ∧ b < f (256 * 2 ^ m) then flagUF else 0))) ∧
    (mx < c → q = (match im, mode, neg with
      | none, _, _ | some _, .rtz, _ | some _, .up, true | some _, .down, false => mx
      | some i, _, _ => i, flagOF ||| flagNX))

/-! Memory instructions. -/

/-- An access of class `u` passes its checks (R198) and reaches device memory at `p`, clean, outside the system bank; `s1` is the state
with its leaf cached. -/
structure State.Reaches (s s1 : State) (i : Instr) (u : Use) (va : Word) (leaf : Leaf) (p : Nat) : Prop where
  translated : s.translate i u va = .ok (leaf, s1)
  plain : leaf.sbank = false
  place : s.place (leaf.addr va) = .device p
  clean : (s.metaOf (lineOf p)).poison = false

/-- An access of class `u` passes its checks and reaches poison in device memory (R206); `s1` is the state with its leaf cached. -/
structure State.MeetsPoison (s s1 : State) (i : Instr) (u : Use) (va : Word) (leaf : Leaf) (p : Nat) : Prop where
  translated : s.translate i u va = .ok (leaf, s1)
  plain : leaf.sbank = false
  place : s.place (leaf.addr va) = .device p
  poisoned : (s.metaOf (lineOf p)).poison = true
  unasked : ∀ x ∈ s.replies, x.reader ≠ s.reader

/-- An instruction consumes poison: it traps with the address, or its job is rolled back in place of the trap and it issues again where
R409 holds (R206, R405). -/
def State.Consumes (s s1 : State) (i : Instr) (va : Word) : Prop :=
  (s.rollbackFor s.cx.launchId = none → exec i s = .next (s1.enterTrap s.cur 0x97 va s.pc 0 false)) ∧
  ∀ job, s.rollbackFor s.cx.launchId = some job →
    exec i s = .next ((s1.push (.rollbackRestart job)).upd fun c => { c with wait := none })

/-- One more write makes no home's arrival table spill an entry to memory (R379). -/
def State.ArrivalRoom (s : State) : Prop := s.arrivals.length < 1024 ∧ ∀ a ∈ s.arrivals, a.spill = none

/-- No home keeps the context waiting for its turn at a line, has granted it one or has an answer of another package for it (R374, R434). -/
def State.AwaitsNothing (s : State) (i : CtxId) : Prop :=
  (∀ x ∈ s.serving, x.2 ≠ i) ∧ (∀ q ∈ s.busyList ++ s.retry, ∀ r ∈ q.2, r.2.isOf i = false) ∧
    ∀ x ∈ s.replies, x.reader ≠ 32 * i.crew + i.n

/-- A leaf lets an access of class `u` through (R53) and gives device memory at `p`, outside the system bank. -/
def State.LeadsTo (s : State) (u : Use) (va : Word) (p : Nat) (leaf : Leaf) : Prop :=
  pageVerdict u leaf.kind s.taskMode = none ∧ leaf.sbank = false ∧ s.place (leaf.addr va) = .device p

/-- The leaf that a cached line at `p` stands for, by the kind and the permissions it carries (R360, R382). -/
def lineLeaf (p kind : Nat) (rd wr ex : Bool) : Leaf :=
  { pa := 128 * lineOf p, span := 128, kind := kind, rd := rd, wr := wr, ex := ex, hb := false, log := false, sbank := false }

/-- An access of class `u` reaches device memory at `p` by what its slice's leaf cache holds (R381), and by its crew's L1 or the slice's
line where it hits there (R360, R382); each such leaf has the property `q`, and so has the line that it fills. What the accesses before
it bring into the caches does not change that. -/
structure State.Cached (s : State) (u : Use) (va : Word) (p : Nat) (q : Leaf → Prop) : Prop where
  canonical : va.toNat < 2 ^ 55
  unheld : s.requestsHeld s.cur.crew = false
  slice : ∃ l, mget? s.leaves (leafKey (s.sliceFor s.cur.crew va) va) = some l ∧ permits u.need l.rd l.wr l.ex = true ∧
    s.LeadsTo u va p l ∧ q l ∧ q (lineLeaf p l.kind l.rd l.wr l.ex)
  line : ∀ c ∈ s.copies, c.1 / 2 ^ 49 = s.sliceFor s.cur.crew va → c.2.vline = va.toNat / 128 → c.2.dom = s.domainTag s.cur.crew →
    c.1 % 2 ^ 49 = lineOf p ∧
      (∀ x ∈ c.2.page, pageVerdict u x.kind s.taskMode = none ∧ q (lineLeaf p x.kind x.rd x.wr x.ex)) ∧
      ∀ x ∈ c.2.l1, x.crew = s.cur.crew → pageVerdict u x.kind s.taskMode = none ∧ q (lineLeaf p x.kind x.rd x.wr x.ex)
  here : s.place p = .device p
  offset : p % 128 = va.toNat % 128

/-- x(d) holds what a load gave; the memory system may have moved copies of lines, but no byte, no other register and no other context
has changed. -/
structure State.LoadsX (s : State) (d : BitVec 6) (v : Word) (t : State) : Prop where
  value : t.X d = if d = 0 then 0 else v
  others : ∀ r, r ≠ d → t.X r = s.X r
  context : t.cx = { s.cx.advance .seq with x := t.cx.x }
  contexts : s.SameOthers t
  bytes : s.SameBytes t

/-- A store by a leaf leaves no first copy of its line in a code shadow (R361): no launch makes it, the page is not executable ordinary
memory, or the launch's shadow holds the line. -/
def State.Unshadowed (s : State) (leaf : Leaf) (p : Nat) : Prop :=
  s.actor = noLaunch ∨ leaf.ex = false ∨ leaf.kind ≠ 0 ∨ ∃ e ∈ s.shadows, e.launch = s.actor ∧ e.line = lineOf p

/-- Nothing in the machine keeps a store of `n` bytes under a mask at `p` from its plain effect: memory is in canonical form, the bytes
lie in one line that is none of the slot page's guarded ones (R302), no live node reads a byte with an enabled bit (R349), no undo log
(R407) and no code shadow (R361) takes the line, and no home's count of the store spills (R379). -/
structure State.Writable (s : State) (va : Word) (leaf : Leaf) (p n mask : Nat) : Prop where
  mem : s.MemWf
  within : p % 128 + n ≤ 128
  unguarded : s.slotGuarded (lineOf p) = false
  unread : s.overlapping s.cur.crew (enabledBytes va n mask) = []
  unlogged : s.undoRegion = none
  unshadowed : s.Unshadowed leaf p
  room : s.ArrivalRoom

/-- An engine of a crew reads `n` bytes of one line at a virtual address (R53): they lie at `p` in device memory. `s1` is the state that its
caches then leave. -/
structure State.EngineReads (s s1 : State) (k va n : Nat) (sys : Bool) (p : Nat) : Prop where
  read : ∃ v, s.engineRead k va n sys = .ok (v, s1)
  leaf : ∃ l t, s.engineLeaf k va false sys = .ok (l, t) ∧ l.sbank = false ∧ s.place (l.addr (BitVec.ofNat 64 va)) = .device p

/-- Nothing keeps an engine's write of a line of device memory, on behalf of the acting launch, from its plain effect: memory is in canonical
form, the line at `p` is clean and not guarded (R302), and neither an undo log (R407) nor the launch's code shadow (R361) takes it. -/
structure State.EngineLine (s : State) (ex : Bool) (p : Nat) : Prop where
  mem : s.MemWf
  aligned : p % 128 = 0
  clean : (s.metaOf (lineOf p)).poison = false
  unguarded : s.slotGuarded (lineOf p) = false
  unlogged : s.undoRegion = none
  unshadowed : ex = false ∨ s.actor = noLaunch ∨ ∃ e ∈ s.shadows, e.launch = s.actor ∧ e.line = lineOf p

/-- An engine of a crew may write the line of a virtual address (R53), and its write to device memory at `p` has its plain effect. -/
def State.EngineWrites (s s1 : State) (k va : Nat) (sys : Bool) (p : Nat) : Prop :=
  ∃ l, s.engineWriteLeaf k va sys = .ok (l, s1) ∧ l.sbank = false ∧
    s.place (l.addr (BitVec.ofNat 64 (va / 128 * 128)) / 128 * 128) = .device p ∧ s.EngineLine (l.ex && l.kind == 0) p

/-- A byte of a value, lowest first. -/
def byteOf (v k : Nat) : Byte := BitVec.ofNat 8 (v / 256 ^ k)

/-- `n` bytes at `p` hold the data where the mask has ones and what they held elsewhere; the store is counted in `OCNT` and by its home;
no other byte, no register but the PC and the loop registers, and no other context has changed. -/
structure State.Stores (s : State) (p n data mask : Nat) (t : State) : Prop where
  written : ∀ k < n, t.byteAt (p + k) = (s.byteAt (p + k) &&& ~~~byteOf mask k) ||| (byteOf data k &&& byteOf mask k)
  bytes : s.SameBytesBut t p n
  context : t.cx = { s.cx.advance .seq with
    cnt := { s.cx.cnt with stores := s.cx.cnt.stores + 1 }, tags := t.cx.tags, arrived := s.cx.arrived + 1 }
  contexts : s.SameOthers t

/-! Tile instructions. -/

/-- A handle that passes the checks of R237 steps 1–2: it is not null, and the slot it names is allocated, of its generation and not
released. -/
structure State.Names (s : State) (h : BitVec 32) : Prop where
  valid : h.getLsbD 31 = true
  slot : (s.slotNamed s.cur.crew h).alloc = true ∧ (s.slotNamed s.cur.crew h).st ≠ .draining
  generation : (s.slotNamed s.cur.crew h).gen = h.extractLsb' 10 12

/-- An input handle is usable at issue (R238): its slot is READY, or FILLING in the issuing crew with a live node of the same task
as its writer. -/
def State.Usable (s : State) (h : BitVec 32) : Prop :=
  let t := s.slotNamed s.cur.crew h
  t.st = .ready ∨ (t.st = .filling ∧ ownerCrew s.cur.crew h = s.cur.crew ∧
    ∃ j n, s.writerOf s.cur.crew (hSlot h) = some (j, n) ∧ n.record = s.cx.record)

/-- A handle that passes R237 step 3: an EMPTY slot of the issuing crew that the task owns. -/
structure State.Output (s : State) (h : BitVec 32) : Prop where
  names : s.Names h
  here : ownerCrew s.cur.crew h = s.cur.crew
  owned : s.cx.record ≠ 0 ∧ (s.slotNamed s.cur.crew h).owner = s.cx.record
  empty : (s.slotNamed s.cur.crew h).st = .empty

/-- A trap of the issuing instruction. -/
def State.Traps (s : State) (i : Instr) (cause : Nat) (tval : Word) : Prop :=
  exec i s = .next (s.enterTrap s.cur cause tval s.pc 0 false)

/-- The instruction changes registers of its context, as given, and goes on. -/
def State.Becomes (s : State) (i : Instr) (f : Ctx → Ctx) : Prop := exec i s = .next (s.upd fun c => (f c).advance .seq)

/-- The thunk table of the crew has room for a node (R345), every live creation number lies within 2^31 of the new one's (R328), and entry
`j` is its lowest free one. -/
structure State.NodeRoom (s : State) (j : Nat) : Prop where
  task : ((s.crewAt s.cur.crew).nodes.filter fun p => p.2.record == s.cx.record).length < 64
  table : (s.crewAt s.cur.crew).nodes.length < 256
  near : ∀ p ∈ (s.crewAt s.cur.crew).nodes, p.2.cno = (s.crewAt s.cur.crew).cno ∨ 2 ^ 31 < s.age s.cur.crew p.2.cno
  free : j < 256 ∧ s.nodeAt? s.cur.crew j = none ∧ ∀ i < j, s.nodeAt? s.cur.crew i ≠ none

/-- A node is recorded (R249 steps 5–6): it holds the instruction and its operands, the output slot is FILLING, the output register's
map is ID. No other node, slot, register or byte has changed. -/
structure State.Records (s : State) (i : Instr) (e : BitVec 4) (ins : List (Nat × BitVec 4)) (xa : Word)
    (range : Option (Nat × Nat)) (j : Nat) (t : State) : Prop where
  node : ∃ n, t.nodeAt? s.cur.crew j = some n ∧ encode i = some n.word ∧ n.cpc = s.pc ∧ n.cno = (s.crewAt s.cur.crew).cno ∧
    n.ctx = s.cur ∧ n.record = s.cx.record ∧ n.out = s.cx.getT e ∧ n.outReg = e.toNat ∧
    (∀ p, (∀ q ∈ ins, q.1 ≠ p) → mget? n.ins p = none) ∧
    (∀ p r, (p, r) ∈ ins → mget? n.ins p = some { handle := s.cx.getT r, reg := r.toNat, map := s.cx.mapOf r }) ∧
    n.xa = xa ∧ n.tsh = s.cx.tsh ∧ n.k4 = s.cx.k4 ∧ n.fpctl = s.cx.fp.fpctl ∧ n.mprog = s.cx.mprog ∧ n.mask = 0 ∧ n.range = range
  nodes : ∀ k i, (k, i) ≠ (s.cur.crew, j) → t.nodeAt? k i = s.nodeAt? k i
  number : (t.crewAt s.cur.crew).cno = ((s.crewAt s.cur.crew).cno + 1) % 2 ^ 32
  slot : t.tileAt s.cur.crew (hSlot (s.cx.getT e)) = { s.tileAt s.cur.crew (hSlot (s.cx.getT e)) with st := .filling }
  slots : ∀ k n, (k, n) ≠ (s.cur.crew, hSlot (s.cx.getT e)) → t.tileAt k n = s.tileAt k n
  context : t.cx = { s.cx.advance .seq with maps := mput s.cx.maps e.toNat TMap.ident }
  contexts : s.SameOthers t
  bytes : s.SameBytes t

/-! Records, queues and the machine's own events. -/

/-- No launch of the machine keeps an undo log (R406). -/
def State.NoUndo (s : State) : Prop := ∀ l, ({ s with actor := l } : State).undoRegion = none

/-- A hardware write of `n` bytes at `p` has its plain effect: memory is in canonical form, the bytes lie in one clean line, and no
undo log is kept. -/
structure State.Simple (s : State) (p n : Nat) : Prop where
  mem : s.MemWf
  within : p % 128 + n ≤ 128
  clean : (s.metaOf (lineOf p)).poison = false
  unlogged : s.NoUndo

/-- The `n` bytes at `p` are those of a value, lowest first, and every other byte is as before. -/
structure State.Written (s : State) (p n v : Nat) (t : State) : Prop where
  written : ∀ k < n, t.byteAt (p + k) = byteOf v k
  bytes : s.SameBytesBut t p n

/-- `n` bytes at `p` hold a value, lowest first. -/
def State.Holds (s : State) (p n v : Nat) : Prop := ∀ k < n, s.byteAt (p + k) = byteOf v k

/-- Every byte of the physical space outside the 192 bytes of some records reads as before. -/
def State.SameBytesOff (s t : State) (qs : List Nat) : Prop := ∀ pa < 2 ^ 56, (∀ q ∈ qs, ¬(q ≤ pa ∧ pa < q + 192)) → t.byteAt pa = s.byteAt pa

/-- A virtual address names the same place for the hardware's own accesses whatever some records hold: they are none of its page
tables. -/
def State.Steady (s : State) (qs : List Nat) (va : Word) : Prop :=
  ∀ t : State, t.pkg = s.pkg → t.flying = s.flying → s.SameBytesOff t qs → (∀ l, (t.metaOf l).poison = (s.metaOf l).poison) →
    t.hwPlace va = s.hwPlace va

/-- The 192 bytes of each of some records lie at its address in device memory, clean, apart from the others and from their page tables;
memory is in canonical form, and no undo log is kept. -/
structure State.RecordsAt (s : State) (rs : List (Word × Nat)) : Prop where
  mem : s.MemWf
  aligned : ∀ x ∈ rs, x.2 % 64 = 0
  place : ∀ x ∈ rs, ∀ o < 192, s.hwPlace (x.1 + BitVec.ofNat 64 o) = .device (x.2 + o) ∧
    s.Steady (rs.map Prod.snd) (x.1 + BitVec.ofNat 64 o)
  clean : ∀ x ∈ rs, ∀ o < 192, (s.metaOf (lineOf (x.2 + o))).poison = false
  apart : rs.Pairwise fun x y => x.2 + 192 ≤ y.2 ∨ y.2 + 192 ≤ x.2
  unlogged : s.NoUndo

/-- The record at `q` holds the continuation of the context that parks (R42): the PC it resumes at, the frame pointer, the registers of the
LIVE mask, the predicates and WAKE; PINNED is 0, HOSTWAIT as given, and the other flags and the SLOTs outside LIVE are as before. -/
structure State.Continues (s : State) (q : Nat) (code : Word) (live : BitVec 16) (wake : Nat) (hostWait : Bool) (t : State) : Prop where
  resumes : t.Holds q 8 code.toNat
  frame : t.Holds (q + 8) 8 (s.X 2).toNat
  mask : t.Holds (q + 0x36) 2 live.toNat
  slots : ∀ j < 15, live.getLsbD j = true → t.Holds (q + 0x40 + 8 * j) 8 (s.X (BitVec.ofNat 6 (4 + j))).toNat
  link : live.getLsbD 15 = true → t.Holds (q + 0xB8) 8 (s.X 1).toNat
  kept : ∀ j < 16, live.getLsbD j = false → ∀ k < 8, t.byteAt (q + 0x40 + 8 * j + k) = s.byteAt (q + 0x40 + 8 * j + k)
  preds : ∀ b : BitVec 3, (t.byteAt (q + 0x3B)).getLsbD b.toNat = s.P b
  waits : t.Holds (q + 0x3C) 2 wake
  flags : t.Holds (q + 0x2E) 2 ((s.readPa (q + 0x2E) 2 &&& 0xFFED) + if hostWait then 16 else 0)

/-- The results of a collective round, of `n` bytes each, go to some virtual addresses (R275): their lines lie one after the other at
addresses in device memory, apart from each other and from the page tables that lead to them, and nothing keeps a write of them from its
plain effect. -/
structure State.ResultsAt (s : State) (rs : List (Word × Nat)) (n : Nat) : Prop where
  mem : s.MemWf
  unlogged : s.NoUndo
  apart : rs.Pairwise fun x y => x.2 + n ≤ y.2 ∨ y.2 + n ≤ x.2
  lines : ∀ x ∈ rs, x.2 % 128 = 0 ∧ ∀ j < n / 128, (s.metaOf (lineOf (x.2 + 128 * j))).poison = false ∧
    s.slotGuarded (lineOf (x.2 + 128 * j)) = false ∧
    ∀ t : State, t.pkg = s.pkg → t.flying = s.flying → (∀ l, (t.metaOf l).poison = (s.metaOf l).poison) →
      (∀ pa < 2 ^ 56, (∀ y ∈ rs, ¬(y.2 ≤ pa ∧ pa < y.2 + n)) → t.byteAt pa = s.byteAt pa) →
      ∃ l, t.walk (x.1 + BitVec.ofNat 64 (128 * j)) needWr = .ok l ∧ l.sbank = false ∧ (l.ex = false ∨ l.kind ≠ 0) ∧
        t.place (l.addr (x.1 + BitVec.ofNat 64 (128 * j)) / 128 * 128) = .device (x.2 + 128 * j)

/-- A context is FREE: nothing of a task is left in it but its pending interrupts. -/
def State.Freed (s : State) (i : CtxId) (t : State) : Prop :=
  t.ctxAt i = { Ctx.fresh with pendPre := (s.ctxAt i).pendPre, pendSplits := (s.ctxAt i).pendSplits, pendDbg := (s.ctxAt i).pendDbg }

/-- The record of a launch slot that an address names is taken from its pool and not retired (R283). -/
structure State.LiveRecord (s : State) (x : Nat) (r : Word) : Prop where
  aligned : r.toNat % 64 = 0
  taken : ∃ k, (s.slotAt x).recordIndex r = some k ∧ k ∈ (s.slotAt x).taken
  running : s.recordFlags r / 32 % 2 = 0

/-- The issuing context waits; nothing else changes. -/
def State.Waits (s : State) (i : Instr) (w : Wait) : Prop := exec i s = .next (s.upd fun c => { c with st := .stalled, wait := some w })

end Sys2Proof.Machine
end

