-- ==== Sys2Proof/Certificates/Slice0/Obligations.lean ====
section
/-!
DEFINITION. The statements for the provers, from the manual's numbered rules, family by family. `s.Runs i q` says that `i`
completes from `s` in a next state with the property `q`.
-/
open Sys2Proof Sys2Proof.Machine
/-! Scalar instructions (R133–R152). -/

/-- R136, R22: addition, subtraction, products, bitwise logic, minima, maxima, comparisons and LEA write the low 64 bits of the exact
result to x(d), and nothing else; x0 discards it. -/
def Obligations.ScalarArithmetic : Prop :=
  ∀ (s : State) (d a b : BitVec 6) (h : BitVec 2),
    let x := s.X a
    let y := s.X b
    s.Runs (.add d a b) (s.GivesX d (BitVec.ofInt 64 (x.toInt + y.toInt))) ∧
    s.Runs (.sub d a b) (s.GivesX d (BitVec.ofInt 64 (x.toInt - y.toInt))) ∧
    s.Runs (.mul d a b) (s.GivesX d (BitVec.ofInt 64 (x.toInt * y.toInt))) ∧
    s.Runs (.mulh d a b) (s.GivesX d (BitVec.ofInt 64 (x.toInt * y.toInt / 2 ^ 64))) ∧
    s.Runs (.mulhu d a b) (s.GivesX d (BitVec.ofNat 64 (x.toNat * y.toNat / 2 ^ 64))) ∧
    s.Runs (.and d a b) (s.GivesX d (x &&& y)) ∧
    s.Runs (.or d a b) (s.GivesX d (x ||| y)) ∧
    s.Runs (.xor d a b) (s.GivesX d (x ^^^ y)) ∧
    s.Runs (.andn d a b) (s.GivesX d (x &&& ~~~y)) ∧
    s.Runs (.min d a b) (s.GivesX d (if x.toInt ≤ y.toInt then x else y)) ∧
    s.Runs (.max d a b) (s.GivesX d (if y.toInt ≤ x.toInt then x else y)) ∧
    s.Runs (.minu d a b) (s.GivesX d (if x.toNat ≤ y.toNat then x else y)) ∧
    s.Runs (.maxu d a b) (s.GivesX d (if y.toNat ≤ x.toNat then x else y)) ∧
    s.Runs (.slt d a b) (s.GivesX d (if x.toInt < y.toInt then 1 else 0)) ∧
    s.Runs (.sltu d a b) (s.GivesX d (if x.toNat < y.toNat then 1 else 0)) ∧
    s.Runs (.lea d a b h) (s.GivesX d (BitVec.ofNat 64 (x.toNat + y.toNat * 2 ^ h.toNat)))

/-- R136, R137: shifts and rotates by B[5:0], B[63:6] being ignored, as exact products and quotients by a power of two; and the
quotients and remainders of `Divide`, its corners included. No division traps. -/
def Obligations.ShiftsAndDivision : Prop :=
  ∀ (s : State) (d a b : BitVec 6),
    let x := s.X a
    let y := s.X b
    let n := y.toNat % 64
    let q : Int := if y = 0 then 2 ^ 64 - 1 else if x.toInt = -(2 ^ 63) ∧ y.toInt = -1 then -(2 ^ 63) else x.toInt.tdiv y.toInt
    let r : Int := if y = 0 then x.toInt else if x.toInt = -(2 ^ 63) ∧ y.toInt = -1 then 0 else x.toInt - q * y.toInt
    s.Runs (.sll d a b) (s.GivesX d (BitVec.ofNat 64 (x.toNat * 2 ^ n))) ∧
    s.Runs (.srl d a b) (s.GivesX d (BitVec.ofNat 64 (x.toNat / 2 ^ n))) ∧
    s.Runs (.sra d a b) (s.GivesX d (BitVec.ofInt 64 (x.toInt / 2 ^ n))) ∧
    s.Runs (.rol d a b) (s.GivesX d (BitVec.ofNat 64 (x.toNat * 2 ^ n + x.toNat / 2 ^ (64 - n)))) ∧
    s.Runs (.ror d a b) (s.GivesX d (BitVec.ofNat 64 (x.toNat / 2 ^ n + x.toNat * 2 ^ (64 - n)))) ∧
    s.Runs (.div d a b) (s.GivesX d (BitVec.ofInt 64 q)) ∧
    s.Runs (.rem d a b) (s.GivesX d (BitVec.ofInt 64 r)) ∧
    s.Runs (.divu d a b) (s.GivesX d (if y = 0 then BitVec.allOnes 64 else BitVec.ofNat 64 (x.toNat / y.toNat))) ∧
    s.Runs (.remu d a b) (s.GivesX d (BitVec.ofNat 64 (x.toNat - x.toNat / y.toNat * y.toNat)))

/-- R136: the bit counts, the extensions, SEL, and the bit fields, where `p` is pos and `l` is len − 1; BFI keeps every other bit of
x(d). -/
def Obligations.BitOperations : Prop :=
  ∀ (s : State) (d a b p l : BitVec 6) (k : BitVec 3) (w : BitVec 2),
    let x := s.X a
    let len := l.toNat + 1
    (∃ n ≤ 64, (∀ j, 64 - n ≤ j → x.getLsbD j = false) ∧ (n < 64 → x.getLsbD (63 - n) = true) ∧
      s.Runs (.clz d a) (s.GivesX d (BitVec.ofNat 64 n))) ∧
    (∃ n ≤ 64, (∀ j < n, x.getLsbD j = false) ∧ (n < 64 → x.getLsbD n = true) ∧
      s.Runs (.ctz d a) (s.GivesX d (BitVec.ofNat 64 n))) ∧
    s.Runs (.popc d a) (s.GivesX d (BitVec.ofNat 64 ((List.range 64).map fun j => (x.getLsbD j).toNat).sum)) ∧
    (w ≠ 3 →
      s.Runs (.sext d a w) (s.GivesX d (BitVec.ofInt 64 (Int.bmod x.toNat (2 ^ (8 * 2 ^ w.toNat))))) ∧
      s.Runs (.zext d a w) (s.GivesX d (BitVec.ofNat 64 (x.toNat % 2 ^ (8 * 2 ^ w.toNat))))) ∧
    s.Runs (.sel d a b k) (s.GivesX d (if s.P k = true then x else s.X b)) ∧
    (p.toNat + len ≤ 64 →
      s.Runs (.bfx d a p l) (s.GivesX d (BitVec.ofInt 64 (Int.bmod (x.toNat / 2 ^ p.toNat) (2 ^ len)))) ∧
      s.Runs (.bfxu d a p l) (s.GivesX d (BitVec.ofNat 64 (x.toNat / 2 ^ p.toNat % 2 ^ len))) ∧
      ∃ v : Word, s.Runs (.bfi d a p l) (s.GivesX d v) ∧
        ∀ j < 64, v.getLsbD j = if p.toNat ≤ j ∧ j < p.toNat + len then x.getLsbD (j - p.toNat) else (s.X d).getLsbD j)

/-- R138, R139: the immediate forms, with the sign-extended immediate, and the constants; ADDHI and ADDTOP read x(d) first, PCADD
adds to the address of the instruction. -/
def Obligations.Immediates : Prop :=
  ∀ (s : State) (d a h : BitVec 6) (i : BitVec 14) (k : BitVec 13) (u : BitVec 20),
    let x := s.X a
    s.Runs (.addi d a i) (s.GivesX d (BitVec.ofInt 64 (x.toInt + i.toInt))) ∧
    s.Runs (.andi d a i) (s.GivesX d (x &&& BitVec.ofInt 64 i.toInt)) ∧
    s.Runs (.ori d a i) (s.GivesX d (x ||| BitVec.ofInt 64 i.toInt)) ∧
    s.Runs (.xori d a i) (s.GivesX d (x ^^^ BitVec.ofInt 64 i.toInt)) ∧
    s.Runs (.slli d a h) (s.GivesX d (BitVec.ofNat 64 (x.toNat * 2 ^ h.toNat))) ∧
    s.Runs (.srli d a h) (s.GivesX d (BitVec.ofNat 64 (x.toNat / 2 ^ h.toNat))) ∧
    s.Runs (.srai d a h) (s.GivesX d (BitVec.ofInt 64 (x.toInt / 2 ^ h.toNat))) ∧
    s.Runs (.roli d a h) (s.GivesX d (BitVec.ofNat 64 (x.toNat * 2 ^ h.toNat + x.toNat / 2 ^ (64 - h.toNat)))) ∧
    s.Runs (.slti d a k) (s.GivesX d (if x.toInt < k.toInt then 1 else 0)) ∧
    s.Runs (.sltiu d a k) (s.GivesX d (if x.toNat < (BitVec.ofInt 64 k.toInt).toNat then 1 else 0)) ∧
    s.Runs (.movi d u) (s.GivesX d (BitVec.ofInt 64 u.toInt)) ∧
    s.Runs (.addhi d u) (s.GivesX d (BitVec.ofInt 64 ((s.X d).toInt + u.toInt * 2 ^ 20))) ∧
    s.Runs (.addtop d u) (s.GivesX d (BitVec.ofInt 64 ((s.X d).toInt + u.toInt * 2 ^ 40))) ∧
    s.Runs (.pcadd d u) (s.GivesX d (BitVec.ofInt 64 (s.pc.toInt + u.toInt * 2 ^ 12)))

/-- R140, R141, R22: the compares and the predicate logic write one predicate; p0 discards it. -/
def Obligations.Predicates : Prop :=
  ∀ (s : State) (p : BitVec 3) (a b : BitVec 6) (c : BitVec 3) (i : BitVec 14) (d e f : BitVec 3), c.toNat ≤ 5 →
    let holds := fun (x y : Word) => match c.toNat with
      | 0 => decide (x = y)
      | 1 => decide (x ≠ y)
      | 2 => decide (x.toInt < y.toInt)
      | 3 => decide (y.toInt ≤ x.toInt)
      | 4 => decide (x.toNat < y.toNat)
      | _ => decide (y.toNat ≤ x.toNat)
    s.Runs (.cmp p a b c) (s.GivesP p (holds (s.X a) (s.X b))) ∧
    s.Runs (.cmpi c p a i) (s.GivesP p (holds (s.X a) (BitVec.ofInt 64 i.toInt))) ∧
    s.Runs (.pand d e f) (s.GivesP d (s.P e && s.P f)) ∧
    s.Runs (.por d e f) (s.GivesP d (s.P e || s.P f)) ∧
    s.Runs (.pxor d e f) (s.GivesP d (xor (s.P e) (s.P f))) ∧
    s.Runs (.pandn d e f) (s.GivesP d (s.P e && !s.P f)) ∧
    s.Runs (.pnot d e) (s.GivesP d (!s.P e)) ∧
    s.Runs (.pmov d e) (s.GivesP d (s.P e))

/-- R142, R143, R145: branches and jumps take their targets, relative to the address of the instruction, as jumps, or go on; nothing
else changes. JAL and JALR write the link address, which is the address sequential execution would reach with the loop step applied;
JALR reads x(a) first, is a jump when d is 0 and traps on a misaligned target without writing x(d).
R149, R151: the next address and the loops after an instruction that completes. In task mode the loops are examined by descending
start, loop 1 first when the starts are equal; a call applies the step to PC + 4 and then takes its target; in system mode no loop
steps. -/
def Obligations.BranchesAndLoops : Prop :=
  (∀ (s : State) (p : BitVec 3) (n : BitVec 1) (o : BitVec 22) (d a : BitVec 6) (q : BitVec 19) (i : BitVec 14) (j : BitVec 26),
    let dest := fun (k : Int) => BitVec.ofInt 64 (s.pc.toInt + 4 * k)
    let link := (s.cx.advance .seq).pc
    let t := BitVec.ofInt 64 ((s.X a).toInt + i.toInt)
    let keeps := fun (n : Next) (r : BitVec 6) (u : State) =>
      u.X r = (if r = 0 then 0 else link) ∧ (∀ k, k ≠ r → u.X k = s.X k) ∧
      u.cx = { s.cx.advance n with x := u.cx.x } ∧ s.OnlyHere u
    s.Runs (.brc p n o) (s.Goes (if (s.P p).toNat ≠ n.toNat then .jump (dest o.toInt) else .seq)) ∧
    s.Runs (.bz a q) (s.Goes (if s.X a = 0 then .jump (dest q.toInt) else .seq)) ∧
    s.Runs (.bnz a q) (s.Goes (if s.X a ≠ 0 then .jump (dest q.toInt) else .seq)) ∧
    s.Runs (.j j) (s.Goes (.jump (dest j.toInt))) ∧
    s.Runs (.jal j) (keeps (.call (dest j.toInt)) 1) ∧
    (t.toNat % 4 = 0 → s.Runs (.jalr d a i) (keeps (if d = 0 then .jump t else .call t) d)) ∧
    (t.toNat % 4 ≠ 0 → exec (.jalr d a i) s = .next (s.enterTrap s.cur 0x0F t s.pc 0 false))) ∧
  (∀ (c : Ctx) (t : Word),
    let steps := fun (next : Word) (jump : Bool) (r : Ctx) =>
      r = { c with l0 := r.l0, l1 := r.l1, pc := r.pc } ∧
      (c.depth ≠ 0 → r.l0 = c.l0 ∧ r.l1 = c.l1 ∧ r.pc = next) ∧
      (c.depth = 0 → c.l1.ls.toNat < c.l0.ls.toNat → walkLoops next c.pc jump [c.l0, c.l1] = ([r.l0, r.l1], r.pc)) ∧
      (c.depth = 0 → c.l0.ls.toNat ≤ c.l1.ls.toNat → walkLoops next c.pc jump [c.l1, c.l0] = ([r.l1, r.l0], r.pc))
    steps (c.pc + 4) false (c.advance .seq) ∧ steps t true (c.advance (.jump t)) ∧
    c.advance (.call t) = { c.advance .seq with pc := t })

/-- R146–R148, R151: the loop instructions. A set-up writes its loop's three registers and leaves the other loop, a zero trip jumps
to the end, LBRK ends an active loop and leaves its body; in system mode all three trap with the instruction word. -/
def Obligations.LoopInstructions : Prop :=
  ∀ (s : State) (n : BitVec 1) (a : BitVec 6) (l : BitVec 14) (c : BitVec 8) (k : BitVec 6),
    let put := fun (m : Loop) (x : Ctx) => if n = 0 then { x with l0 := m } else { x with l1 := m }
    let becomes := fun (f : Ctx → Ctx) (t : State) => t = s.upd f ∧ s.SameBytes t
    let setUp := fun (count len : Word) =>
      becomes fun x => (put { ls := s.pc + 4, le := s.pc + 4 + 4 * len, lc := count } x).advance
        (if count = 0 then .jump (s.pc + 4 + 4 * len) else .seq)
    let old := if n = 0 then s.cx.l0 else s.cx.l1
    (s.cx.depth = 0 →
      s.Runs (.loop n a l) (setUp (s.X a) (l.setWidth 64)) ∧
      s.Runs (.loopi n c k) (setUp (c.setWidth 64) (k.setWidth 64)) ∧
      s.Runs (.lbrk n) (becomes fun x =>
        if old.lc = 0 then x.advance .seq else (put { old with lc := 0 } x).advance (.jump old.le))) ∧
    (s.cx.depth ≠ 0 → ∀ i ∈ [Instr.loop n a l, .loopi n c k, .lbrk n], ∀ w, encode i = some w →
      exec i s = .next (s.enterTrap s.cur 0x10 (w.setWidth 64) s.pc 0 false))

/-! Control and status registers, traps and the system instructions (R27–R35, R57, R153–R161, R386–R391). -/

/-- R28, R29, R31, R32, R153, R163: what CSRR gives of every CSR a task may read. An access of FPFLAGS first takes in the flags of
earlier vector instructions (R155); a read that is logged is recorded with its value, and traps with splits-overflow where the record
does not fit (R30, R327).
Model's choices: log 35. -/
def Obligations.CsrReadsTask : Prop :=
  ∀ (s : State) (d : BitVec 6),
    let c := s.cx
    let k := s.cur.crew
    let n := s.cur.n
    let ctl := (s.crewAt k).splitctl
    n < 32 → c.grant ≤ 64 → c.req ≤ 64 → c.vq.length ≤ 16 →
    let plain : List (BitVec 12 × Word) := [(0x001, c.fp.fpctl), (0x003, c.fp.k4lo), (0x004, c.fp.k4hi), (0x021, c.coord)]
    let counts := BitVec.ofNat 64 (c.cnt.loads % 256 + 2 ^ 8 * (c.cnt.stores % 256) + 2 ^ 16 * (c.cnt.copies % 256) +
      2 ^ 24 * (c.cnt.demands % 256))
    let lanes := BitVec.ofNat 64 (c.grant + 2 ^ 7 * (if c.vq = [] then 0 else 1) + 2 ^ 8 * c.req + 2 ^ 16 * c.vq.length)
    let crew := BitVec.ofNat 64 ((s.crewAt k).logical.getD 0 % 1024 + 2 ^ 10 * crewPx k + 2 ^ 15 * crewPy k + 2 ^ 20 * crewDie k +
      2 ^ 22 * crewSquad k + 2 ^ 26 * crewQuad k + 2 ^ 28 * crewInQuad k)
    let logged : List (BitVec 12 × Nat × Word) := [(0x020, 0, c.launch ++ c.serial), (0x022, 1, BitVec.ofNat 64 (n / 4 + 8 * (n % 4))),
      (0x023, 2, crew), (0x012, 3, BitVec.ofNat 64 (s.clock - (s.crewAt k).cycleBase)), (0x011, 4, counts), (0x010, 5, lanes)]
    (∀ e ∈ plain, s.Runs (.csrr d e.1) (s.GivesX d e.2)) ∧
    (∀ j < 16, s.Runs (.csrr d (BitVec.ofNat 12 (0x30 + j))) (s.GivesX d (mget 0 (s.crewAt k).bfmt j))) ∧
    (∀ e ∈ logged,
      (c.depth ≠ 0 ∨ splitsCsrs ctl = false → s.Runs (.csrr d e.1) (s.GivesX d e.2.2)) ∧
      (c.depth = 0 → splitsCsrs ctl = true → splitsFull? ctl = false →
        s.Runs (.csrr d e.1) ((s.splitsPut k 7 (n / 4 + 8 * (n % 4)) e.2.1 e.2.2.toNat).GivesX d e.2.2)) ∧
      (c.depth = 0 → splitsCsrs ctl = true → splitsFull? ctl = true →
        exec (.csrr d e.1) s = .next (s.enterTrap s.cur 0x150 7 s.pc 0 false))) ∧
    s.Runs (.csrr d 0x002) ((s.upd Ctx.drainVec).GivesX d
      (c.fp.fpflags ||| (c.vq.foldl (fun a v => a ||| v.flags) (0 : BitVec 5)).setWidth 64))

/-- R27, R134, R154: the checks of a CSR instruction, in order; the first that fails traps with the instruction word, and neither the
CSR nor x(d) is written.
R28, R153, R363, R386, R393: what CSRR gives of the system CSRs in system mode. TSTATUS shows the pending interrupts in [18:16];
`HASHCTL` the domain of the crew's squad. -/
def Obligations.CsrReadsSystem : Prop :=
  (∀ (s : State) (d a : BitVec 6) (n : BitVec 12) (w : BitVec 32),
    let traps := fun (i : Instr) (cause : Nat) =>
      encode i = some w → exec i s = .next (s.enterTrap s.cur cause (w.setWidth 64) s.pc 0 false)
    let all := [Instr.csrr d n, .csrw a n, .csrs a n, .csrc a n]
    (s.cx.depth = 0 → 0x800 ≤ n.toNat → ∀ i ∈ all, traps i 0x07) ∧
    ((s.cx.depth ≠ 0 ∨ n.toNat < 0x800) → csrOf n.toNat = none → ∀ i ∈ all, traps i 0x08) ∧
    (∀ r, (s.cx.depth ≠ 0 ∨ n.toNat < 0x800) → csrOf n.toNat = some r → r.readOnly = true →
      ∀ i ∈ [Instr.csrw a n, .csrs a n, .csrc a n], traps i 0x09)) ∧
  (∀ (s : State) (d : BitVec 6), s.cx.depth ≠ 0 →
    let c := s.cx
    let k := s.crewAt s.cur.crew
    let values : List (BitVec 12 × Word) := [(0x801, c.trap.tcause), (0x802, c.trap.tval), (0x803, c.trap.tepc), (0x804, c.trap.tdpc),
      (0x805, k.thvec), (0x806, c.trap.tscratch), (0x810, k.splitctl)]
    (∀ e ∈ values, s.Runs (.csrr d e.1) (s.GivesX d e.2)) ∧
    (∀ j : Fin 64, s.Runs (.csrr d (BitVec.ofNat 12 (0x840 + j.val))) (s.GivesX d c.tnode[j])) ∧
    (∃ v : Word, s.Runs (.csrr d 0x800) (s.GivesX d v) ∧ ∀ j < 64, v.getLsbD j =
      if j = 16 then c.pendPre else if j = 17 then c.pendSplits else if j = 18 then c.pendDbg else c.trap.tstatus.getLsbD j) ∧
    (∀ (n : Nat) (m : Domain) (before' after' : Map Domain),
      let die := s.dieAt (crewDie s.cur.crew)
      die.domains = before' ++ (n, m) :: after' → n < 8 → m.squads.getLsbD (crewSquad s.cur.crew) = true →
      (∀ p ∈ before', p.2.squads.getLsbD (crewSquad s.cur.crew) = false) →
      s.Runs (.csrr d 0x811) (s.GivesX d (BitVec.ofNat 64 (m.members.toNat + (if m.mode then 2 ^ 32 else 0) + 2 ^ 33 * n +
        2 ^ 36 * m.squads.toNat + (if die.busy then 2 ^ 52 else 0))))))

/-- R11, R31, R32, R153, R155, R386, R393: CSRW writes x(a), CSRS the old value or x(a), CSRC the old value and not x(a), each CSR by
its own rule: FPCTL refuses a reserved RM, reserved fields of FPCTL and FPFLAGS stay 0, TSTATUS keeps DEPTH and every other bit
written, THVEC's low bits are written as 0, SPLITCTL's write is an event of the crew. A value of `HASHCTL` that R363 refuses traps; any
other is sent to the die's control port and stalls its context, which goes on once its change is complete.
Model's choices: log 35, 128. -/
def Obligations.CsrWrites : Prop :=
  ∀ (s : State) (a : BitVec 6) (n : BitVec 12),
    let x := s.X a
    let forms : List (Instr × (Word → Word)) := [(.csrw a n, fun _ => x), (.csrs a n, fun v => v ||| x), (.csrc a n, fun v => v &&& ~~~x)]
    let sets := fun (s : State) (i : Instr) (f : Ctx → Ctx) => exec i s = .next (s.upd fun c => (f c).advance .seq)
    ∀ e ∈ forms,
      (n = 0x001 →
        let v := e.2 s.cx.fp.fpctl
        (v.toNat % 8 ≤ 4 → sets s e.1 fun c => { c with fp := { c.fp with fpctl := v &&& 0x1FFF07 } }) ∧
        (5 ≤ v.toNat % 8 → exec e.1 s = .next (s.enterTrap s.cur 0x0A v s.pc 0 false))) ∧
      (n = 0x002 → exec e.1 s = .next (s.upd fun c =>
        ({ c.drainVec with fp := { c.drainVec.fp with fpflags := e.2 c.drainVec.fp.fpflags &&& 0x1F } }).advance .seq)) ∧
      (n = 0x003 → sets s e.1 fun c => { c with fp := { c.fp with k4lo := e.2 c.fp.k4lo } }) ∧
      (n = 0x004 → sets s e.1 fun c => { c with fp := { c.fp with k4hi := e.2 c.fp.k4hi } }) ∧
      (s.cx.depth ≠ 0 →
        (n = 0x800 → ∃ v : Word, (∀ j < 64, v.getLsbD j = if j < 2 then s.cx.trap.tstatus.getLsbD j else
            if 16 ≤ j ∧ j ≤ 18 then false else (e.2 s.cx.tstatus).getLsbD j) ∧
          sets s e.1 fun c => { c with trap := { c.trap with tstatus := v } }) ∧
        (n = 0x801 → sets s e.1 fun c => { c with trap := { c.trap with tcause := e.2 c.trap.tcause } }) ∧
        (n = 0x802 → sets s e.1 fun c => { c with trap := { c.trap with tval := e.2 c.trap.tval } }) ∧
        (n = 0x803 → sets s e.1 fun c => { c with trap := { c.trap with tepc := e.2 c.trap.tepc } }) ∧
        (n = 0x804 → sets s e.1 fun c => { c with trap := { c.trap with tdpc := e.2 c.trap.tdpc } }) ∧
        (n = 0x806 → sets s e.1 fun c => { c with trap := { c.trap with tscratch := e.2 c.trap.tscratch } }) ∧
        (n = 0x805 → exec e.1 s = .next ((s.updCrew s.cur.crew fun k => { k with thvec := e.2 k.thvec &&& ~~~3 }).upd
          fun c => c.advance .seq)) ∧
        (n = 0x810 → exec e.1 s = .next ((s.push (.splitctlWrite s.cur.crew (e.2 (s.crewAt s.cur.crew).splitctl))).upd
          fun c => c.advance .seq)) ∧
        (n = 0x811 →
          let die := crewDie s.cur.crew
          let v := e.2 (s.csr s.cur .hashctl)
          let then' := domainsAfter (s.dieAt die).domains v
          let refused := v.toNat / 2 ^ 53 ≠ 0 ∨ (∃ p ∈ then', p.2.squads ≠ 0 ∧ p.2.members = 0) ∨
            (v.toNat % 2 ^ 32 ≠ 0 ∧ v.toNat / 2 ^ 36 % 2 ^ 16 = 0) ∨ ∃ q < 16, ∀ p ∈ then', p.2.squads.getLsbD q = false
          (s.cx.answer ≠ none → sets s e.1 fun c => { c with answer := none }) ∧
          (s.cx.answer = none → refused → exec e.1 s = .next (s.enterTrap s.cur 0x0A v s.pc 0 false)) ∧
          (s.cx.answer = none → ¬refused → exec e.1 s = .next (((s.updDie die fun y => { y with owners := y.owners ++ [s.cur] }).push
            (.hashctlWrite die v)).upd fun c => { c with st := .stalled, wait := some .domain }))))

/-- R33, R35, R57, R168, R387: taking an exception or an interrupt. Earlier vector commands complete; the cause, the value, the PCs and
the raised depth are in the trap CSRs, the record address is in the context's image, the context is in system mode at THVEC; every
other register of the context, every other context and every byte of memory is as before.
R18, R35, R327: a trap at depth 2 does not enter the handler: the context is FREE and holds no task, once the splits buffer can record the
stop of a task. The boot context stops with its
PC, its depth and its registers, and BOOTFAIL is set while the boot is not complete.
Model's choices: log 37. -/
def Obligations.TrapEntry : Prop :=
  (∀ (s : State) (i : CtxId) (cause : Nat) (tval epc dpc : Word) (intr : Bool),
    let c := s.ctxAt i
    c.boot = false → c.depth ≤ 1 → (s.crewAt i.crew).sysbank.wf = true →
    let t := s.enterTrap i cause tval epc dpc intr
    let u := t.ctxAt i
    u.pc = (s.crewAt i.crew).thvec ∧ u.st = .handler ∧ u.depth = c.depth + 1 ∧
    u.trap.tcause = BitVec.ofNat 64 cause ∧ u.trap.tval = tval ∧ u.trap.tepc = epc ∧ u.trap.tdpc = dpc ∧
    u.trap.tscratch = c.trap.tscratch ∧
    (∀ j, 2 ≤ j → j < 64 → u.trap.tstatus.getLsbD j =
      if j = 3 then intr else if j < 10 then false else c.trap.tstatus.getLsbD j) ∧
    u.x = c.x ∧ u.p = c.p ∧ u.v = c.v ∧ u.t = c.t ∧ u.tsh = c.tsh ∧ u.maps = c.maps ∧ u.mprog = c.mprog ∧ u.l0 = c.l0 ∧ u.l1 = c.l1 ∧
    u.record = c.record ∧ u.grant = c.grant ∧ u.req = c.req ∧ u.coord = c.coord ∧ u.vq = [] ∧ u.fp = { c.fp with fpflags := c.fp.fpflags ||| (c.vq.foldl (fun a v => a ||| v.flags) (0 : BitVec 5)).setWidth 64 } ∧
    (t.crewAt i.crew).sysbank.readN (0x3000 + 1024 * i.n) 8 = c.record.toNat ∧
    (∀ j, j ≠ i → t.ctxAt j = s.ctxAt j) ∧ s.SameBytes t) ∧
  (∀ (s : State) (i : CtxId) (cause : Nat) (tval epc dpc : Word) (intr : Bool),
    let c := s.ctxAt i
    let t := s.enterTrap i cause tval epc dpc intr
    let u := t.ctxAt i
    (c.boot = false → c.depth = 2 → (c.record = 0 ∨ s.splitsLacks i.crew = false) → u.st = .free ∧ u.record = 0 ∧ u.depth = 0) ∧
    (c.boot = true → u.stopped = true ∧ u.pc = c.pc ∧ u.depth = c.depth ∧ u.x = c.x ∧ u.p = c.p ∧ u.v = c.v ∧
      (s.pkg.fields.booted = false → t.pkg.fields.bootfail = true)))

/-- R134, R159, R386–R388: TRET. It traps in task mode, on a reserved bit of TSTATUS and on a misaligned TEPC; from depth 2 it goes
back to TEPC at depth 1 with BLOCK clear; a handler of depth 1 without a task leaves its context FREE, whatever TEPC holds; from depth 1, for a task that no cancellation has reached, it
returns to task mode at TEPC with the loop step of R149, BLOCKED if BLOCK was set; no register and no byte of memory changes. After an
interrupt the context claims its lanes again (R165), and traps where the splits buffer has no room for the grant (R327). A task that a
cancellation has reached leaves its context, once its stores are counted (R49).
R34, R134, R157, R158, R161: ECALL and EBREAK trap in either mode with TVAL = 0 and TEPC = the address of the instruction. HALT
traps in task mode; in system mode, once every earlier store and join is counted, those to host memory too (R299), it stops its context
at the next instruction, in HANDLER; before that it stalls.
Model's choices: log 30. -/
def Obligations.TrapReturn : Prop :=
  (∀ s : State,
    let c := s.cx
    let st := c.trap.tstatus
    let reserved := ∃ j < 64, 10 ≤ j ∧ ¬(16 ≤ j ∧ j ≤ 18) ∧ st.getLsbD j = true
    let returned := fun (u : Ctx) => ∀ j < 64, u.trap.tstatus.getLsbD j =
      if j < 2 then decide (c.depth = 2) && j == 0 else if j = 2 then false else st.getLsbD j
    (c.depth = 0 → exec .tret s = .next (s.enterTrap s.cur 0x0B 0 s.pc 0 false)) ∧
    (c.depth ≠ 0 → reserved → exec .tret s = .next (s.enterTrap s.cur 0x0C c.tstatus s.pc 0 false)) ∧
    (c.depth = 1 → ¬reserved → c.record = 0 → s.Runs .tret fun t => t.cx.st = .free ∧ t.cx.depth = 0 ∧ t.cx.x = c.x ∧
      (∀ j, j ≠ s.cur → t.ctxAt j = s.ctxAt j) ∧ s.SameBytes t) ∧
    (c.depth ≠ 0 → ¬reserved → (c.depth ≠ 1 ∨ c.record ≠ 0) → c.trap.tepc.toNat % 4 ≠ 0 → exec .tret s = .next (s.enterTrap s.cur 0x0F c.trap.tepc s.pc 0 false)) ∧
    (c.depth = 2 → ¬reserved → c.trap.tepc.toNat % 4 = 0 →
      s.Runs .tret fun t => t.cx = { c with pc := c.trap.tepc, trap := t.cx.trap } ∧ returned t.cx ∧ s.OnlyHere t) ∧
    (c.depth = 1 → ¬reserved → c.trap.tepc.toNat % 4 = 0 → c.record ≠ 0 →
     let ctl := (s.crewAt s.cur.crew).splitctl
     let holders := ((s.crewAt s.cur.crew).ctxs.filter fun p => p.1 != s.cur.n && p.2.grant != 0).length + 1
     let claims := c.req ≠ 0 ∧ st.getLsbD 3 = true
     let room := splitsGrants ctl = false ∨ splitsFull? ctl = false
     (c.cancelled = true → splitsOn ctl = false →
       (c.drained = true → s.Runs .tret (s.Freed s.cur)) ∧
       (c.drained = false → s.Runs .tret fun t => t.cx.st = .stalled ∧ t.cx.wait = some (.retiring false) ∧ t.cx.record = c.record)) ∧
     (c.cancelled = false → claims → ¬room → exec .tret s = .next (s.enterTrap s.cur 0x150 6 s.pc 0 false)) ∧
     (c.cancelled = false → ¬claims ∨ room →
      s.Runs .tret fun t =>
        let r := stepLoops c.l0 c.l1 c.trap.tepc c.trap.tepc false
        t.cx.grant = (if c.req ≠ 0 ∧ st.getLsbD 3 = true then min c.req (8 * max 1 (8 / holders)) else c.grant) ∧ t.cx.req = c.req ∧
        returned t.cx ∧ t.cx.st = (if st.getLsbD 2 then .blocked else .active) ∧
        t.cx.l0 = r.1 ∧ t.cx.l1 = r.2.1 ∧ t.cx.pc = r.2.2 ∧
        t.cx.x = c.x ∧ t.cx.p = c.p ∧ t.cx.v = c.v ∧ t.cx.t = c.t ∧ t.cx.tsh = c.tsh ∧ t.cx.fp = c.fp ∧ t.cx.record = c.record ∧
        (∀ j, j ≠ s.cur → t.ctxAt j = s.ctxAt j) ∧ s.SameBytes t))) ∧
  (∀ s : State, exec .ecall s = .next (s.enterTrap s.cur 0x0D 0 s.pc 0 false) ∧
    exec .ebreak s = .next (s.enterTrap s.cur 0x0E 0 s.pc 0 false) ∧
    (s.cx.depth = 0 → exec .halt s = .next (s.enterTrap s.cur 0x06 0x5C000003 s.pc 0 false)) ∧
    (s.cx.depth ≠ 0 → s.cx.cnt.stores ≠ 0 → s.cx.vq = [] → s.Waits .halt .settled) ∧
    (s.cx.depth ≠ 0 → s.cx.cnt.stores = 0 →
      s.Runs .halt fun t => t.cx.halted = true ∧ t.cx.st = .handler ∧ t.cx.pc = s.pc + 4 ∧ t.cx.x = s.cx.x ∧ t.cx.p = s.cx.p ∧
        t.cx.v = s.cx.v ∧ t.cx.trap = s.cx.trap ∧ s.OnlyHere t))

/-! Vector instructions (R162–R191). A context issues one when its queue has room; `s1` is the state once lanes are claimed. -/

/-- R89, R173–R175, R178: integer arithmetic, shifts and logic on packed elements of each type, under a mask; no flag, no trap, every
source read first. -/
def Obligations.VectorInteger : Prop :=
  ∀ (s s1 : State) (d a b : BitVec 5) (m t : BitVec 3), s.LanesReady s1 → t.toNat < 6 →
    let w := typeWidth t.toNat
    let signed := t.toNat < 3
    let x := fun j => velem (s.V a) w j
    let y := fun j => velem (s.V b) w j
    let gives := fun (i : Instr) (f : Nat → BitVec w) => ∃ r, s.Lanewise d m w f r ∧ s.Runs i (s1.GivesV d r 0)
    gives (.vadd d a b m t) (fun j => BitVec.ofNat w ((x j).toNat + (y j).toNat)) ∧
    gives (.vsub d a b m t) (fun j => BitVec.ofInt w ((x j).toNat - (y j).toNat)) ∧
    gives (.vmul d a b m t) (fun j => BitVec.ofNat w ((x j).toNat * (y j).toNat)) ∧
    gives (.vmulh d a b m t) (fun j => if signed then BitVec.ofInt w ((x j).toInt * (y j).toInt / 2 ^ w)
      else BitVec.ofNat w ((x j).toNat * (y j).toNat / 2 ^ w)) ∧
    gives (.vmin d a b m t) (fun j => if (if signed then (x j).toInt ≤ (y j).toInt else (x j).toNat ≤ (y j).toNat) then x j else y j) ∧
    gives (.vmax d a b m t) (fun j => if (if signed then (y j).toInt ≤ (x j).toInt else (y j).toNat ≤ (x j).toNat) then x j else y j) ∧
    gives (.vabs d a m t) (fun j => BitVec.ofNat w (x j).toInt.natAbs) ∧
    gives (.vneg d a m t) (fun j => BitVec.ofInt w (-(x j).toInt)) ∧
    gives (.vand d a b m t) (fun j => x j &&& y j) ∧
    gives (.vor d a b m t) (fun j => x j ||| y j) ∧
    gives (.vxor d a b m t) (fun j => x j ^^^ y j) ∧
    gives (.vshl d a b m t) (fun j => BitVec.ofNat w ((x j).toNat * 2 ^ ((y j).toNat % w))) ∧
    gives (.vshr d a b m t) (fun j => BitVec.ofNat w ((x j).toNat / 2 ^ ((y j).toNat % w))) ∧
    gives (.vsra d a b m t) (fun j => BitVec.ofInt w ((x j).toInt / 2 ^ ((y j).toNat % w)))

/-- R180, R183, R184: saturation, the integer compares into a mask, selection and movement; `VCMP` clears every bit at and above the
element count, `VSEL` writes all 64 elements; none raises a flag.
R22, R177: broadcast, extract and insert, with the element's index in two fields. `VEXT` zero-extends into x(d), unless d is x0. -/
def Obligations.VectorMoves : Prop :=
  (∀ (s s1 : State) (d a b : BitVec 5) (m c : BitVec 3) (t : BitVec 2) (k : BitVec 6), s.LanesReady s1 →
    let x := fun j => velem (s.V a) 32 j
    let y := fun j => velem (s.V b) 32 j
    let gives := fun (i : Instr) (q : VReg → Prop) => ∃ r, q r ∧ s.Runs i (s1.GivesV d r 0)
    let clamp := fun (z : BitVec 3) (lo hi : Int) =>
      gives (.vsat d a m z) (s.Lanewise d m 32 fun j => BitVec.ofInt 32 (max lo (min hi (x j).toInt)))
    clamp 1 (-32768) 32767 ∧ clamp 2 (-128) 127 ∧ clamp 4 0 65535 ∧ clamp 5 0 255 ∧
    (t.toNat < 3 → c.toNat ≤ 5 → gives (.vcmp d a b m c t) fun r => ∀ j < 2048, r.getLsbD j =
      (decide (j < 64 * 2 ^ t.toNat) && s.active m j &&
        (let w := 32 / 2 ^ t.toNat
         let u := velem (s.V a) w j
         let v := velem (s.V b) w j
         match c.toNat with
         | 0 => decide (u = v)
         | 1 => decide (u ≠ v)
         | 2 => decide (u.toInt < v.toInt)
         | 3 => decide (v.toInt ≤ u.toInt)
         | 4 => decide (u.toNat < v.toNat)
         | _ => decide (v.toNat ≤ u.toNat)))) ∧
    (m ≠ 0 → gives (.vsel d a b m) fun r => ∀ j < 64, velem r 32 j = if (s.V (m.setWidth 5)).getLsbD j then x j else y j) ∧
    gives (.vmov d a m) (s.Lanewise d m 32 x) ∧
    gives (.viota d m) (s.Lanewise d m 32 fun j => BitVec.ofNat 32 j) ∧
    gives (.vperm d a b m) (s.Lanewise d m 32 fun j => if (y j).toNat < 64 then x (y j).toNat else 0) ∧
    gives (.vslideUp d a k m) (s.Lanewise d m 32 fun j => if k.toNat ≤ j then x (j - k.toNat) else 0) ∧
    gives (.vslideDn d a k m) (s.Lanewise d m 32 fun j => if j + k.toNat ≤ 63 then x (j + k.toNat) else 0)) ∧
  (∀ (s s1 : State) (d v : BitVec 5) (x a i : BitVec 6) (j e : BitVec 2), s.LanesReady s1 → e.toNat ≤ 2 →
    let w := 32 / 2 ^ e.toNat
    let k := i.toNat + 64 * j.toNat
    k < 2048 / w →
    (∃ r, (∀ n < 2048 / w, velem r w n = (s.X a).setWidth w) ∧ s.Runs (.vbcast d a e) (s1.GivesV d r 0)) ∧
    (∃ r, (∀ n < 2048 / w, velem r w n = if n = k then (s.X a).setWidth w else velem (s.V d) w n) ∧
      s.Runs (.vins d a i j e) (s1.GivesV d r 0)) ∧
    s.Runs (.vext x v i j e) fun t =>
      t.X x = (if x = 0 then 0 else (velem (s.V v) w k).setWidth 64) ∧ (∀ r, r ≠ x → t.X r = s.X r) ∧
      t.cx = { s1.cx.advance .seq with x := t.cx.x, vq := s.cx.vq ++ [{ flags := 0, isLoad := false }] } ∧
      t = (s1.upd fun _ => t.cx).push (.vectorCommandComplete s.cur) ∧ s1.SameBytes t)

/-- R72, R77, R79–R82, R178, R179, R181, R187, R191: the FP32 instructions element by element, with the flags each element raises and
the traps of the enabled ones: sums, products and fused products rounded by RM (SR as RNE), minima and maxima, the sign operations,
the special functions, and the decoding of quantised codes.
R77, R183: the FP32 compares. EQ is numeric equality, no NaN equals anything, LT and GE need two numbers; NV is raised by a
signalling NaN, and by any NaN under LT and GE.
R69–R72, R75, R79, R90: those results against the exact values: a finite sum, product, fused product, reciprocal or root is the exact one
rounded once; a NaN operand gives the canonical NaN; minima and maxima follow numeric order; and the special operands of R90.
Model's choices: log 3. -/
def Obligations.VectorFloat : Prop :=
  (∀ (s s1 : State) (d a b c : BitVec 5) (m : BitVec 3) (f : BitVec 4), s.LanesReady s1 →
    let x := fun j => velem (s.V a) 32 j
    let y := fun j => velem (s.V b) 32 j
    let z := fun j => velem (s.V c) 32 j
    let mode := fpMode s.cx.fp.fpctl
    let gives := fun (i : Instr) (g : Nat → BitVec 32 × Flags) =>
      s.RunsLanes s1 i d (s.Lanewise d m 32 fun j => (g j).1) fun j => if s.active m j then (g j).2 else 0
    gives (.vadd d a b m 6) (fun j => fAdd (x j) (y j) mode) ∧
    gives (.vsub d a b m 6) (fun j => fSub (x j) (y j) mode) ∧
    gives (.vmul d a b m 6) (fun j => fMul (x j) (y j) mode) ∧
    gives (.vmin d a b m 6) (fun j => minMaxF32 false (x j) (y j)) ∧
    gives (.vmax d a b m 6) (fun j => minMaxF32 true (x j) (y j)) ∧
    gives (.vabs d a m 6) (fun j => (x j &&& 0x7FFFFFFF, 0)) ∧
    gives (.vneg d a m 6) (fun j => (x j ^^^ 0x80000000, 0)) ∧
    gives (.vfma d a b c m) (fun j => fFma (x j) (y j) (z j) false false mode) ∧
    gives (.vfms d a b c m) (fun j => fFma (x j) (y j) (z j) false true mode) ∧
    gives (.vfnma d a b c m) (fun j => fFma (x j) (y j) (z j) true false mode) ∧
    gives (.vexp2 d a m) (fun j => specialFn 0 (x j)) ∧
    gives (.vlog2 d a m) (fun j => specialFn 1 (x j)) ∧
    gives (.vrcp d a m) (fun j => specialFn 2 (x j)) ∧
    gives (.vrsq d a m) (fun j => specialFn 3 (x j)) ∧
    gives (.vsqrt d a m) (fun j => specialFn 4 (x j)) ∧
    gives (.vtanh d a m) (fun j => specialFn 5 (x j)) ∧
    gives (.vsigm d a m) (fun j => specialFn 6 (x j)) ∧
    gives (.vdqnt d a b m 1 f) (fun j => bx32Decode f.toNat s.cx.k4 (if j < 32 then (y 0).extractLsb' 0 8 else (y 0).extractLsb' 8 8)
      (velem (s.V a) (32 / fmtPack f.toNat) j).toNat) ∧
    gives (.vdqnt d a b m 2 9) (fun j => nq4Decode (y 1) ((y 0).extractLsb' 0 8) (velem (s.V a) 4 j).toNat)) ∧
  (∀ (s s1 : State) (d a b : BitVec 5) (m c : BitVec 3), s.LanesReady s1 → c.toNat ≤ 3 →
    let x := fun j => f32 (velem (s.V a) 32 j)
    let y := fun j => f32 (velem (s.V b) 32 j)
    let nan := fun j => (x j).isNaN || (y j).isNaN
    let holds := fun j => match c.toNat with
      | 0 => !nan j && !(x j).lt (y j) && !(y j).lt (x j)
      | 1 => nan j || (x j).lt (y j) || (y j).lt (x j)
      | 2 => !nan j && (x j).lt (y j)
      | _ => !nan j && !(x j).lt (y j)
    s.RunsLanes s1 (.vcmp d a b m c 3) d (fun r => ∀ j < 2048, r.getLsbD j = (decide (j < 64) && s.active m j && holds j))
      fun j => if s.active m j && (if c.toNat < 2 then (x j).isSignalling || (y j).isSignalling else nan j) then flagNV else 0) ∧
  (∀ (x y z : BitVec 32) (mode : Mode) (i : Int), (∀ dv, mode ≠ .sr dv) →
    let mag := fun (w : BitVec 32) => w.toNat % 2 ^ 31
    let neg := fun (w : BitVec 32) => decide (2 ^ 31 ≤ w.toNat)
    let nan := fun (w : BitVec 32) => 0x7F800000 < mag w
    let quiet := fun (w : BitVec 32) => nan w → 0x7FC00000 ≤ mag w
    let finite := fun (w : BitVec 32) => mag w < 0x7F800000
    let u := fun (w : BitVec 32) => fltUnits 23 (mag w)
    let v := fun (w : BitVec 32) => if neg w then -(u w : Int) else (u w : Int)
    let rounds := fun (s : Bool) (f : Nat → Nat) (b : Nat) (mode : Mode) (r : BitVec 32 × Flags) => ∃ c g,
      r = (BitVec.ofNat 32 ((if s then 2 ^ 31 else 0) + c), g) ∧ RoundsTo 23 0x7F7FFFFF (some 0x7F800000) f b s mode (c, g)
    let sum := fun (n : Int) => rounds (decide (n < 0)) id (256 * n.natAbs) mode
    let product := fun (n : Int) => rounds (decide (n < 0)) (fun h => h * 2 ^ 141) n.natAbs mode
    let zero := fun (s : Bool) => (if s then 0x80000000#32 else 0#32, (0 : Flags))
    let infinite := fun (s : Bool) => (if s then 0xFF800000#32 else 0x7F800000#32, (0 : Flags))
    let down := decide (mode = .down)
    let invalid := (canonNaN, flagNV)
    let nanOf := fun (ws : List (BitVec 32)) => (canonNaN, if ∀ w ∈ ws, quiet w then (0 : Flags) else flagNV)
    let key := fun (w : BitVec 32) => if neg w then -(mag w : Int) - 1 else (mag w : Int)
    let table : List (Nat × BitVec 32 × BitVec 32 × Flags) := [
      (0, 0xFF800000, 0, 0), (0, 0x80000000, 0x3F800000, 0), (0, 0, 0x3F800000, 0), (0, 0x7F800000, 0x7F800000, 0),
      (1, 0xFF800000, canonNaN, flagNV), (1, 0x80000000, 0xFF800000, flagDZ), (1, 0, 0xFF800000, flagDZ), (1, 0x7F800000, 0x7F800000, 0),
      (2, 0xFF800000, 0x80000000, 0), (2, 0x80000000, 0xFF800000, flagDZ), (2, 0, 0x7F800000, flagDZ), (2, 0x7F800000, 0, 0),
      (3, 0xFF800000, canonNaN, flagNV), (3, 0x80000000, 0xFF800000, flagDZ), (3, 0, 0x7F800000, flagDZ), (3, 0x7F800000, 0, 0),
      (4, 0xFF800000, canonNaN, flagNV), (4, 0x80000000, 0x80000000, 0), (4, 0, 0, 0), (4, 0x7F800000, 0x7F800000, 0),
      (5, 0xFF800000, 0xBF800000, 0), (5, 0x80000000, 0x80000000, 0), (5, 0, 0, 0), (5, 0x7F800000, 0x3F800000, 0),
      (6, 0xFF800000, 0, 0), (6, 0x80000000, 0x3F000000, 0), (6, 0, 0x3F000000, 0), (6, 0x7F800000, 0x3F800000, 0), (1, 0x3F800000, 0, 0)]
    (finite x → finite y →
      (v x + v y ≠ 0 → sum (v x + v y) (fAdd x y mode)) ∧ (v x - v y ≠ 0 → sum (v x - v y) (fSub x y mode)) ∧
      (v x + v y = 0 → fAdd x y mode = zero (if mag x = 0 ∧ neg x = neg y then neg x else down)) ∧
      (v x - v y = 0 → fSub x y mode = zero (if mag x = 0 ∧ neg x ≠ neg y then neg x else down)) ∧
      (v x * v y ≠ 0 → product (v x * v y) (fMul x y mode)) ∧
      (v x * v y = 0 → fMul x y mode = zero (neg x != neg y)) ∧
      (finite z →
        (∀ n, n = v x * v y + v z * 2 ^ 149 → n ≠ 0 → product n (fFma x y z false false mode)) ∧
        (∀ n, n = v x * v y - v z * 2 ^ 149 → n ≠ 0 → product n (fFma x y z false true mode)) ∧
        (∀ n, n = -(v x * v y) + v z * 2 ^ 149 → n ≠ 0 → product n (fFma x y z true false mode)))) ∧
    (nan x ∨ nan y → fAdd x y mode = nanOf [x, y] ∧ fSub x y mode = nanOf [x, y] ∧ fMul x y mode = nanOf [x, y] ∧
      fFma x y z false false mode = nanOf [x, y, z] ∧ ∀ b, minMaxF32 b x y = nanOf [x, y]) ∧
    (mag x = 0x7F800000 →
      (finite y → fAdd x y mode = infinite (neg x) ∧ fSub x y mode = infinite (neg x) ∧
        fMul x y mode = if mag y = 0 then invalid else infinite (neg x != neg y)) ∧
      (mag y = 0x7F800000 → fAdd x y mode = (if neg x = neg y then infinite (neg x) else invalid) ∧
        fSub x y mode = (if neg x = neg y then invalid else infinite (neg x)) ∧ fMul x y mode = infinite (neg x != neg y))) ∧
    (¬nan x → ¬nan y → minMaxF32 false x y = (if key y < key x then y else x, 0) ∧ minMaxF32 true x y = (if key x < key y then y else x, 0)) ∧
    (∀ fn < 7, nan x → specialFn fn x = nanOf [x]) ∧
    (∀ e ∈ table, specialFn e.1 e.2.1 = e.2.2) ∧
    (finite x → 0 < u x →
      rounds (neg x) (fun h => h * u x) (2 ^ 306) .rne (specialFn 2 x) ∧
      (neg x = true → ∀ fn ∈ [1, 3, 4], specialFn fn x = invalid) ∧
      (neg x = false → rounds false (fun h => h * h) (u x * 2 ^ 165) .rne (specialFn 4 x) ∧
        rounds false (fun h => h * h * u x) (2 ^ 463) .rne (specialFn 3 x))) ∧
    (v x = i * 2 ^ 149 → -149 ≤ i → i ≤ 127 → (specialFn 0 x).2 = 0 ∧ v (specialFn 0 x).1 = 2 ^ (149 + i).toNat))

/-- R72, R95, R186: the FP32 reductions and the fixed tree. `n l i` is node i of level l: the leaves are the elements, an inactive one
being the identity, which is absent for a sum; a node combines its neighbours, left operand the lower-numbered. The result is element
0, an absent sum being −0, and elements 1 to 63 become 0.
R89, R95, R186: the integer reductions: the wrapping sum, the least and the greatest active element, or the identity when none is
active; elements 1 to 63 become 0, whatever the mask. -/
def Obligations.Reductions : Prop :=
  (∀ (s s1 : State) (d a : BitVec 5) (m : BitVec 3) (n : Nat → Nat → RNode), s.LanesReady s1 →
    let x := fun j => velem (s.V a) 32 j
    let tree := fun (op : BitVec 32 → BitVec 32 → BitVec 32 × Flags) (id : Option (BitVec 32)) =>
      (∀ i < 64, n 0 i = (if s.active m i then some (x i) else id, 0)) ∧
      ∀ l < 6, ∀ i < 64 / 2 ^ (l + 1), n (l + 1) i = combine op (n l (2 * i)) (n l (2 * i + 1))
    let gives := fun (i : Instr) =>
      s.RunsLanes s1 i d (fun r => velem r 32 0 = ((n 6 0).1).getD 0x80000000 ∧ ∀ j < 64, j ≠ 0 → velem r 32 j = 0)
        fun j => if j = 0 then (n 6 0).2 else 0
    (tree (fun u v => fAdd u v (fpMode s.cx.fp.fpctl)) none → gives (.vredsum d a m 2)) ∧
    (tree (minMaxF32 false) (some 0x7F800000) → gives (.vredmin d a m 2)) ∧
    (tree (minMaxF32 true) (some 0xFF800000) → gives (.vredmax d a m 2))) ∧
  (∀ (s s1 : State) (d a : BitVec 5) (m : BitVec 3), s.LanesReady s1 →
    let x := fun j => velem (s.V a) 32 j
    let gives := fun (i : Instr) (q : BitVec 32 → Prop) =>
      ∃ r, q (velem r 32 0) ∧ (∀ j < 64, j ≠ 0 → velem r 32 j = 0) ∧ s.Runs i (s1.GivesV d r 0)
    let extreme := fun (le : BitVec 32 → BitVec 32 → Prop) (e r : BitVec 32) =>
      (∀ j < 64, s.active m j = true → le r (x j)) ∧
      ((∃ j < 64, s.active m j = true ∧ r = x j) ∨ ((∀ j < 64, s.active m j = false) ∧ r = e))
    gives (.vredsum d a m 0) (fun r => r = BitVec.ofNat 32 (((List.range 64).map fun j => if s.active m j then (x j).toNat else 0).sum)) ∧
    gives (.vredmin d a m 0) (extreme (fun u v => u.toInt ≤ v.toInt) 0x7FFFFFFF) ∧
    gives (.vredmin d a m 1) (extreme (fun u v => u.toNat ≤ v.toNat) 0xFFFFFFFF) ∧
    gives (.vredmax d a m 0) (extreme (fun u v => v.toInt ≤ u.toInt) 0x80000000) ∧
    gives (.vredmax d a m 1) (extreme (fun u v => v.toNat ≤ u.toNat) 0))

/-- R96, R186: an inclusive scan in six steps at distances 1 to 32, `n l i` being element i before step l and `g l i` the flags of its
own nodes; element 63 equals the reduction's element 0 bit for bit. -/
def Obligations.Scans : Prop :=
  ∀ (s s1 : State) (d a : BitVec 5) (m : BitVec 3) (n : Nat → Nat → Option (BitVec 32)) (g : Nat → Nat → Flags), s.LanesReady s1 →
    let x := fun j => velem (s.V a) 32 j
    let steps := fun (op : BitVec 32 → BitVec 32 → BitVec 32 × Flags) (id : Option (BitVec 32)) =>
      (∀ i < 64, n 0 i = (if s.active m i then some (x i) else id) ∧ g 0 i = 0) ∧
      ∀ l < 6, ∀ i < 64,
        if 2 ^ l ≤ i then
          let r := combine op (n l (i - 2 ^ l), 0) (n l i, 0)
          n (l + 1) i = r.1 ∧ g (l + 1) i = g l i ||| r.2
        else n (l + 1) i = n l i ∧ g (l + 1) i = g l i
    let gives := fun (i : Instr) => s.RunsLanes s1 i d (fun r => ∀ j < 64, velem r 32 j = (n 6 j).getD 0x80000000) (g 6)
    let whole := fun (f : BitVec 32 → BitVec 32 → BitVec 32) => fun u v => (f u v, (0 : Flags))
    (steps (whole fun u v => u + v) (some 0) → gives (.vscanAdd d a m 0)) ∧
    (steps (fun u v => fAdd u v (fpMode s.cx.fp.fpctl)) none → gives (.vscanAdd d a m 2)) ∧
    (steps (whole fun u v => if v.toInt < u.toInt then v else u) (some 0x7FFFFFFF) → gives (.vscanMin d a m 0)) ∧
    (steps (whole fun u v => if v.toNat < u.toNat then v else u) (some 0xFFFFFFFF) → gives (.vscanMin d a m 1)) ∧
    (steps (minMaxF32 false) (some 0x7F800000) → gives (.vscanMin d a m 2)) ∧
    (steps (whole fun u v => if u.toInt < v.toInt then v else u) (some 0x80000000) → gives (.vscanMax d a m 0)) ∧
    (steps (whole fun u v => if u.toNat < v.toNat then v else u) (some 0) → gives (.vscanMax d a m 1)) ∧
    (steps (minMaxF32 true) (some 0xFF800000) → gives (.vscanMax d a m 2)) ∧
    (∀ o t, o < 3 → t < 3 → ∀ mode, velem (laneScan o t m (s.mask m) (s.V a) mode).1 32 63 =
      velem (laneReduce o t m (s.mask m) (s.V a) mode).1 32 0)

/-- R62, R63, R69–R73, R76, R77, R80, R88, R188–R191: conversions between formats, packing and unpacking of codes, and quantisation
with its scale word, in the packing of each format. A packed result's further positions become 0; inactive codes are kept.
R83, R191: what `VQNT` under BX32 chooses for a block: X = 0 with no active element, 0xFF when every active element is a NaN, else
Clamp(Floor(Log2 a) − Emax + 127, 0, 254) of the greatest active magnitude a, 0 for a = 0, 254 for ∞; each active code is the rounding of
its element by that scale.
R86, R191: under NQ4, q as R191's cases choose it from S and the greatest active magnitude b, and the codes of finite elements as the
nearest levels, ties to the lower code.
R69–R71, R75: `RoundTo` into a float format, against the exact value.
Model's choices: log 31, 131. -/
def Obligations.VectorFormats : Prop :=
  let greatest := fun (mask : VReg) (m : BitVec 3) (a : VReg) (sel : Nat → Prop) (g : Nat) =>
    let mag := fun j => (velem a 32 j).toNat % 2 ^ 31
    let counts := fun j => j < 64 ∧ sel j ∧ (m = 0 ∨ mask.getLsbD j = true) ∧ mag j ≤ 0x7F800000
    (∃ j, counts j ∧ mag j = g) ∧ ∀ j, counts j → mag j ≤ g
  (∀ (s s1 : State) (d a b : BitVec 5) (m : BitVec 3) (f g : BitVec 4) (c : BitVec 2), s.LanesReady s1 →
    let rm := (s.cx.fp.fpctl.extractLsb' 0 3).toNat
    let seed := (s.cx.fp.fpctl.extractLsb' 8 8).toNat
    let tab := s.cx.k4
    let mode := fun (fmt i : Nat) =>
      if rm = 4 then (if fmt = 0 then Mode.rne else .sr (dither (i / 16) (i % 16) seed)) else modeOf rm 0
    let w := 32 / fmtPack f.toNat
    let code := fun (v : VReg) (j : Nat) => velem v w j
    let packed := fun (r : VReg) (new : Nat → Nat) => ∀ j < 2048 / w,
      code r j = if j < 64 then (if s.active m j then BitVec.ofNat w (new j) else code (s.V d) j) else 0
    let conv := fun j => roundTo f.toNat tab (valOf g.toNat tab (velem (s.V a) (32 / fmtPack g.toNat) j).toNat) (mode f.toNat j)
    let group := (velem (s.V b) 32 0).toNat % fmtPack f.toNat
    s.RunsLanes s1 (.vcvt d a m f g) d (fun r => packed r fun j => (conv j).1) (fun j => if s.active m j then (conv j).2 else 0) ∧
    (∃ r, (∀ j < 2048 / w, code r j = if j / 64 = group ∧ s.active m (j % 64) = true
        then BitVec.ofNat w ((velem (s.V a) 32 (j % 64)).toNat % 2 ^ fmtBits f.toNat) else code (s.V d) j) ∧
      s.Runs (.vpack d a b m f) (s1.GivesV d r 0)) ∧
    (∃ r, s.Lanewise d m 32 (fun j =>
        let u := (code (s.V a) (64 * group + j)).toNat % 2 ^ fmtBits f.toNat
        if f = 11 ∨ f = 12 ∨ f = 14 then BitVec.ofInt 32 (Int.bmod u (2 ^ fmtBits f.toNat)) else BitVec.ofNat 32 u) r ∧
      s.Runs (.vunpack d a b m f) (s1.GivesV d r 0)) ∧
    (let q := laneQnt c.toNat f.toNat rm seed tab m (s.mask m) (s.V d) (s.V a) (s.V b)
     (∀ e ∈ q.1.2, e.2 &&& trapEnables s.cx.fp.fpctl = 0) →
     s.Runs (.vqnt d a b m c f) fun t =>
      t.V d = (if d = b then vset q.1.1 32 0 q.2 else q.1.1) ∧
      t.V b = vset (if d = b then q.1.1 else s.V b) 32 0 q.2 ∧
      (∀ k, k ≠ d → k ≠ b → t.V k = s.V k) ∧
      t.cx = { s1.cx.advance .seq with v := t.cx.v, vq := s.cx.vq ++ [{ flags := orFlags q.1.2, isLoad := false }] } ∧
      t = (s1.upd fun _ => t.cx).push (.vectorCommandComplete s.cur) ∧ s1.SameBytes t)) ∧
  (∀ (f rm seed : Nat) (tab : BitVec 128) (m : BitVec 3) (mask old a b : VReg),
    let act := fun j => m = 0 ∨ mask.getLsbD j = true
    let x := fun j => f32 (velem a 32 j)
    let q := laneQnt 1 f rm seed tab m mask old a b
    ∀ h < 2,
      let scale := q.2.extractLsb' (8 * h) 8
      ((∀ j < 64, j / 32 = h → ¬act j) → scale = 0) ∧
      ((∃ j < 64, j / 32 = h ∧ act j) → (∀ j < 64, j / 32 = h → act j → (x j).isNaN = true) → scale = 0xFF) ∧
      (∀ j < 64, j / 32 = h → act j → velem q.1.1 (32 / fmtPack f) j =
        BitVec.ofNat (32 / fmtPack f) (bx32Encode f tab scale (x j) (convMode rm seed f j)).1) ∧
      (∀ g, greatest mask m a (fun j => j / 32 = h) g → ∀ e ∈ [(4, 8), (5, 15), (6, 4), (7, 2), (8, 2), (12, 0), (10, 7)], f = e.1 →
        (g = 0 → scale = 0) ∧ (g = 0x7F800000 → scale = 254) ∧
        (0 < g → g < 0x7F800000 →
          (scale.toNat : Int) = max 0 (min 254 ((Nat.log2 (fltUnits 23 g) : Int) - 149 - (e.2 : Nat) + 127))))) ∧
  (∀ (rm seed : Nat) (tab : BitVec 128) (m : BitVec 3) (mask old a b : VReg) (g : Nat),
    let act := fun j => m = 0 ∨ mask.getLsbD j = true
    let s := velem b 32 1
    let q := laneQnt 2 9 rm seed tab m mask old a b
    let code := q.2.toNat
    let big := s.toNat % 2 ^ 31
    let u := fltUnits 23 big
    let ub := fltUnits 23 g
    let value := fun (w : BitVec 32) => (if w.getLsbD 31 then -1 else 1) * (fltUnits 23 (w.toNat % 2 ^ 31) : Int)
    (greatest mask m a (fun _ => True) g ∨ (g = 0 ∧ ∀ j < 64, act j → 0x7F800000 < (velem a 32 j).toNat % 2 ^ 31)) →
    (big = 0 ∨ 0x7F800000 < big → code = 0) ∧
    (big = 0x7F800000 → g < 0x7F800000 → code = 0) ∧
    (g = 0x7F800000 → s.getLsbD 31 = true → code = 0) ∧
    (g = 0x7F800000 → s.getLsbD 31 = false → 0 < big → big ≤ 0x7F800000 → code = 255) ∧
    (g < 0x7F800000 → 0 < big → big < 0x7F800000 → code = if s.getLsbD 31 then 0 else min 255 ((256 * ub + u - 1) / u - 1)) ∧
    (0 < big → big < 0x7F800000 → ∀ j < 64, act j → (velem a 32 j).toNat % 2 ^ 31 < 0x7F800000 →
      let off := fun (c : Nat) => (nq4Level c * value s * (code + 1) - value (velem a 32 j) * 2 ^ 20).natAbs
      let c := (velem q.1.1 4 j).toNat
      ∀ k < 16, off c ≤ off k ∧ (k < c → off c < off k))) ∧
  (∀ (fmt : Nat) (tab : BitVec 128) (neg : Bool) (n : Nat) (e : Int) (mode : Mode) (w m mx pad : Nat) (emin : Int) (im : Option Nat),
    kindOf fmt = .flt w m emin mx im pad → n ≠ 0 → (∀ dv, mode = .sr dv → dv < 256) →
    let k := e - (emin - m - 8)
    ∃ c g, roundTo fmt tab (.fin neg n e) mode = (2 ^ pad * ((if neg then 2 ^ (w - 1) else 0) + c), g) ∧
      RoundsTo m mx im (fun h => h * 2 ^ (-k).toNat) (n * 2 ^ k.toNat) neg mode (c, g))

/-- R162, R164–R166, R171, R327: LCLAIM grants by the number of contexts that hold lanes and writes the grant; the first vector instruction
of a context without lanes claims 64; LFREE gives the claim up; both take a place in the command queue. VSYNC goes on once no command is
left and stalls its context before. Where the queue is full, no vector instruction issues and its oldest command completes.
Model's choices: log 34, 126, 129. -/
def Obligations.LaneClaims : Prop :=
  ∀ (s : State) (d : BitVec 6) (n : BitVec 3) (v a b : BitVec 5) (m t : BitVec 3),
    let ctl := (s.crewAt s.cur.crew).splitctl
    let lanes := 8 * (n.toNat + 1)
    let holders := ((s.crewAt s.cur.crew).ctxs.filter fun p => p.1 != s.cur.n && p.2.grant != 0).length + 1
    let grant := fun k => min k (8 * max 1 (8 / holders))
    let logged := fun g => if splitsGrants ctl then s.splitsPut s.cur.crew 6 (s.cur.n / 4 + 8 * (s.cur.n % 4)) g 0 else s
    let room := splitsGrants ctl = false ∨ splitsFull? ctl = false
    let space := s.cx.vq.length < 16
    let queued := fun (x : State) (u : State) => u = ((x.upd fun _ => u.cx).push (.vectorCommandComplete s.cur))
    let next : Ctx := { s.cx.advance .seq with vq := s.cx.vq ++ [{ flags := 0, isLoad := false }] }
    (space → room →
      s.Runs (.lclaim d n) (fun u => queued (logged (grant lanes)) u ∧ u.X d = (if d = 0 then 0 else BitVec.ofNat 64 (grant lanes)) ∧
        (∀ r, r ≠ d → u.X r = s.X r) ∧ u.cx = { next with x := u.cx.x, grant := grant lanes, req := lanes }) ∧
      s.Runs .lfree (fun u => queued (logged 0) u ∧ u.cx = { next with grant := 0 })) ∧
    (room → s.cx.grant = 0 → s.implicitClaim = some ((logged (grant 64)).upd fun c => { c with grant := grant 64, req := 64 })) ∧
    (space → ¬room → ∀ i ∈ [Instr.lclaim d n, .lfree], exec i s = .next (s.enterTrap s.cur 0x150 6 s.pc 0 false)) ∧
    (s.cx.grant ≠ 0 → s.implicitClaim = some s) ∧
    (s.cx.vq = [] → s.Runs .vsync (s.Goes .seq)) ∧
    (space → s.cx.vq ≠ [] → s.cx.cancelled = false → s.Waits .vsync .vector) ∧
    (¬space → ∀ i ∈ [Instr.vadd v a b m t, .lclaim d n, .lfree, .vsync, .vld v a m, .vst v a m, .joinv v a 0 m 2 2, .xreadv v a m],
      exec i s = .next ((s.push (.vectorCommandComplete s.cur)).upd fun c => { c with wait := none }))

/-! Memory, lattice and ordering instructions (R192–R234). -/

/-- R7, R201, R205: the scalar loads give the bytes at the address, little-endian: LD zero-extended, LDS sign-extended, LDP two words,
the first discarded when d is x0. Nothing else changes but copies in caches.
R53, R224: `XREAD` of a frozen page, a frozen line or a filled FILL1 line gives its bytes zero-extended; of any other lattice line
it traps with exact-read-of-growing. No join of the line is held or travels (R327, R374).
R206: a load that reads poison traps with its address, or rolls its job back where R409 holds. -/
def Obligations.Loads : Prop :=
  (∀ (s s1 : State) (d a : BitVec 6) (i : BitVec 11) (z : BitVec 3) (leaf : Leaf) (p : Nat),
    let n : Nat := 2 ^ z.toNat
    let va := BitVec.ofInt 64 ((s.X a).toInt + i.toInt * n)
    let wide := BitVec.ofInt 64 ((s.X a).toInt + i.toInt * 16)
    (z.toNat < 4 → va.toNat % n = 0 → s.Reaches s1 (.ld d a i z) .load va leaf p →
      s.Runs (.ld d a i z) (s.LoadsX d (BitVec.ofNat 64 (s.readPa p n)))) ∧
    (z.toNat < 3 → va.toNat % n = 0 → s.Reaches s1 (.lds d a i z) .load va leaf p →
      s.Runs (.lds d a i z) (s.LoadsX d (BitVec.ofInt 64 (Int.bmod (s.readPa p n) (2 ^ (8 * n)))))) ∧
    (d.toNat % 2 = 0 → wide.toNat % 16 = 0 → s.Reaches s1 (.ldp d a i) .load wide leaf p →
      s.Runs (.ldp d a i) fun t =>
        t.X d = (if d = 0 then 0 else BitVec.ofNat 64 (s.readPa p 8)) ∧ t.X (d + 1) = BitVec.ofNat 64 (s.readPa (p + 8) 8) ∧
        (∀ r, r ≠ d → r ≠ d + 1 → t.X r = s.X r) ∧ t.cx = { s.cx.advance .seq with x := t.cx.x } ∧ s.SameOthers t ∧ s.SameBytes t)) ∧
  (∀ (s s1 : State) (d a : BitVec 6) (i : BitVec 11) (z : BitVec 3) (leaf : Leaf) (p : Nat),
    let n : Nat := 2 ^ z.toNat
    let va := BitVec.ofInt 64 ((s.X a).toInt + i.toInt * n)
    let m := s.metaOf (lineOf p)
    let exact := m.frozen = true ∨ (m.type = 6 ∧ m.filled = true)
    z.toNat < 4 → va.toNat % n = 0 → s.Reaches s1 (.xread d a i z) .exact va leaf p → s.lineBusy (lineOf p) = false →
      (leaf.kind = 3 ∨ exact → s.Runs (.xread d a i z) (s.LoadsX d (BitVec.ofNat 64 (s.readPa p n)))) ∧
      (leaf.kind = 2 → ¬exact → exec (.xread d a i z) s = .next (s1.enterTrap s.cur 0xC1 va s.pc 0 false))) ∧
  (∀ (s s1 : State) (d a : BitVec 6) (i : BitVec 11) (z : BitVec 3) (leaf : Leaf) (p : Nat),
    let n : Nat := 2 ^ z.toNat
    let va := BitVec.ofInt 64 ((s.X a).toInt + i.toInt * n)
    let wide := BitVec.ofInt 64 ((s.X a).toInt + i.toInt * 16)
    let m := s.metaOf (lineOf p)
    (va.toNat % n = 0 → ∀ x ∈ [Instr.ld d a i z, .lds d a i z], s.MeetsPoison s1 x .load va leaf p → s.Consumes s1 x va) ∧
    (wide.toNat % 16 = 0 → s.MeetsPoison s1 (.ldp d a i) .load wide leaf p → s.Consumes s1 (.ldp d a i) wide) ∧
    (va.toNat % n = 0 → s.MeetsPoison s1 (.xread d a i z) .exact va leaf p → s.lineBusy (lineOf p) = false →
      (leaf.kind = 3 ∨ m.frozen = true ∨ (m.type = 6 ∧ m.filled = true)) → s.Consumes s1 (.xread d a i z) va))

/-- R201, R203–R205: the scalar stores write the low bytes of x(d), the bits of x(b) that the mask of `STN` enables, one by one or in
nibbles, or the 16 bytes of `STP`, and no other byte; each counts as one store.
R206: a store that covers part of poison is not performed and counts as poisoned in the status word.
Model's choices: log 23. -/
def Obligations.ScalarStores : Prop :=
  ∀ (s s1 : State) (d a b : BitVec 6) (i : BitVec 11) (z : BitVec 3) (leaf : Leaf) (p : Nat),
    let n : Nat := 2 ^ z.toNat
    let va := BitVec.ofInt 64 ((s.X a).toInt + i.toInt * n)
    let wide := BitVec.ofInt 64 ((s.X a).toInt + i.toInt * 16)
    let ones := fun (n : Nat) => 2 ^ (8 * n) - 1
    let poisons := fun (t : State) => s.SameBytes t ∧ s.SameOthers t ∧ t.cx = { s.cx.advance .seq with
      cnt := { s.cx.cnt with stores := s.cx.cnt.stores + 1 }
      arrFails := { s.cx.arrFails with poisoned := s.cx.arrFails.poisoned + 1 }
      tags := t.cx.tags, arrived := s.cx.arrived + 1 }
    (z.toNat < 4 → va.toNat % n = 0 → s.Reaches s1 (.st d a i z) .store va leaf p → s.Writable va leaf p n (ones n) →
      s.Runs (.st d a i z) (s.Stores p n (s.X d).toNat (ones n))) ∧
    ((s.X a).toNat % 8 = 0 → s.Reaches s1 (.stnBit d a b) .store (s.X a) leaf p → s.Writable (s.X a) leaf p 8 (s.X d).toNat →
      s.Runs (.stnBit d a b) (s.Stores p 8 (s.X b).toNat (s.X d).toNat)) ∧
    (∀ m : Word, (∀ k < 64, m.getLsbD k = (s.X d).getLsbD (k / 4)) →
      (s.X a).toNat % 8 = 0 → s.Reaches s1 (.stnNib d a b) .store (s.X a) leaf p → s.Writable (s.X a) leaf p 8 m.toNat →
      s.Runs (.stnNib d a b) (s.Stores p 8 (s.X b).toNat m.toNat)) ∧
    (d.toNat % 2 = 0 → wide.toNat % 16 = 0 → s.Reaches s1 (.stp d a i) .store wide leaf p → s.Writable wide leaf p 16 (ones 16) →
      s.Runs (.stp d a i) (s.Stores p 16 ((s.X d).toNat + 2 ^ 64 * (s.X (d + 1)).toNat) (ones 16))) ∧
    (s.rollbackFor s.cx.launchId = none →
      (z.toNat < 4 → va.toNat % n = 0 → s.MeetsPoison s1 (.st d a i z) .store va leaf p → s.Writable va leaf p n (ones n) →
        s.Runs (.st d a i z) poisons) ∧
      (d.toNat % 2 = 0 → wide.toNat % 16 = 0 → s.MeetsPoison s1 (.stp d a i) .store wide leaf p → s.Writable wide leaf p 16 (ones 16) →
        s.Runs (.stp d a i) poisons))

/-- R34, R207, R208: the system atomics, in system mode on system memory once every earlier store is counted: the old value goes to
x(d), the new one to memory; a failed compare writes nothing; in task mode they trap, and in system mode a poisoned word does (R206).
Model's choices: log 19. -/
def Obligations.SystemAtomics : Prop :=
  ∀ (s s1 : State) (d a b : BitVec 6) (w : BitVec 1) (leaf : Leaf) (p : Nat),
    let n := 4 * (w.toNat + 1)
    let old := s.readPa p n
    let low := fun (v : Word) => v.toNat % 256 ^ n
    let ready := fun (i : Instr) => s.cx.depth ≠ 0 ∧ (s.X a).toNat % n = 0 ∧ s.cx.cnt.stores = 0 ∧
      s.Reaches s1 i .atomic (s.X a) leaf p ∧ s.MemWf ∧ p % 128 + n ≤ 128 ∧ s.undoRegion = none ∧
      s.slotGuarded (lineOf p) = false ∧ s.ArrivalRoom
    let swaps := fun (new : Nat) (t : State) =>
      t.X d = (if d = 0 then 0 else BitVec.ofNat 64 old) ∧ (∀ r, r ≠ d → t.X r = s.X r) ∧
      (∀ k < n, t.byteAt (p + k) = byteOf new k) ∧ s.SameBytesBut t p n ∧ s.SameOthers t ∧
      t.cx = { s.cx.advance .seq with
        x := t.cx.x, cnt := { s.cx.cnt with stores := 1 }, tags := t.cx.tags, arrived := s.cx.arrived + 1 }
    (ready (.amoswap d a b w) → s.Runs (.amoswap d a b w) (swaps (low (s.X b)))) ∧
    (ready (.amoadd d a b w) → s.Runs (.amoadd d a b w) (swaps ((old + low (s.X b)) % 256 ^ n))) ∧
    (ready (.amocas d a b w) → old = low (s.X d) → low (s.X b) ≠ old → s.Runs (.amocas d a b w) (swaps (low (s.X b)))) ∧
    (ready (.amocas d a b w) → (old ≠ low (s.X d) ∨ low (s.X b) = old) → s.Runs (.amocas d a b w) (s.LoadsX d (BitVec.ofNat 64 old))) ∧
    (s.cx.depth ≠ 0 → (s.X a).toNat % n = 0 → s.cx.cnt.stores = 0 →
      ∀ i ∈ [Instr.amoswap d a b w, .amocas d a b w, .amoadd d a b w], s.MeetsPoison s1 i .atomic (s.X a) leaf p →
        s.Consumes s1 i (s.X a)) ∧
    (s.cx.depth = 0 → ∀ i ∈ [Instr.amoswap d a b w, .amocas d a b w, .amoadd d a b w], ∀ word, encode i = some word →
      exec i s = .next (s.enterTrap s.cur 0x06 (word.setWidth 64) s.pc 0 false))

/-- R53, R192, R194–R196, R198, R202, R382: where an access traps: misaligned first, with the address in TVAL; then as the translation
and the page's kind say. Nothing is loaded or stored. A vector access traps for its lowest active element that is misaligned or
refused; here that is its lowest active element of all; `JOINV` and `XREADV` trap for the first of their lines that has one. Its claim
of lanes stands (R165, R167). A misaligned `FREEZE` names its address, or else its length (R225). A request that its crew holds
while its domain changes is no trap (R365).
Model's choices: log 83, 126. -/
def Obligations.AccessTraps : Prop :=
  ∀ (s : State) (d a b : BitVec 6) (i : BitVec 11) (z : BitVec 3) (v r q : BitVec 5) (m sc t : BitVec 3) (w1 : BitVec 1) (w cnt : BitVec 2)
    (t4 : BitVec 4) (j : Nat),
    let n : Nat := 2 ^ z.toNat
    let va := BitVec.ofInt 64 ((s.X a).toInt + i.toInt * n)
    let wide := BitVec.ofInt 64 ((s.X a).toInt + i.toInt * 16)
    let base := s.X (r.setWidth 6)
    let ty := latOfCode t.toNat
    let unit := if ty = .fill1 then 128 else 2 ^ w.toNat
    let trigs := (List.range (cnt.toNat + 1)).map fun k => s.X (b + BitVec.ofNat 6 k)
    let fails := fun (s1 : State) (x : Instr) (u : Use) (va : Word) => ∀ c t, s.translate x u va = .error (c, t) → c ≠ heldCause →
      exec x s = .next (s1.enterTrap s.cur c t s.pc 0 false)
    let traps := fun (x : Instr) (u : Use) (va : Word) (n : Nat) =>
      (va.toNat % n ≠ 0 → exec x s = .next (s.enterTrap s.cur (0x80 + 16 * u.kind + 5) va s.pc 0 false)) ∧
      (va.toNat % n = 0 → fails s x u va)
    let turnless := ∀ x ∈ s.serving, x.2 ≠ s.cur
    traps (.ld d a i z) .load va n ∧ traps (.lds d a i z) .load va n ∧ traps (.ldp d a i) .load wide 16 ∧
    traps (.xread d a i z) .exact va n ∧ traps (.st d a i z) .store va n ∧ traps (.stp d a i) .store wide 16 ∧
    traps (.stnBit d a b) .store (s.X a) 8 ∧ traps (.stnNib d a b) .store (s.X a) 8 ∧
    (s.cx.depth ≠ 0 → (∀ x ∈ [Instr.amoswap d a b w1, .amocas d a b w1, .amoadd d a b w1], traps x .atomic (s.X a) (4 * (w1.toNat + 1))) ∧
      fails s (.lquery d a) .query (s.X a)) ∧
    (turnless → traps (.join a b sc w t) .join (s.X a) unit) ∧
    (s.cx.answer = none → triggerFault ty w.toNat (elemIndex ty w.toNat (s.X a)) trigs = none →
      traps (.tread d a b cnt w t) .thresh (s.X a) unit ∧
      (s.cx.depth ≠ 0 ∨ (s.cx.l0.lc = 0 ∧ s.cx.l1.lc = 0) → traps (.twait d a b cnt w t) .thresh (s.X a) unit)) ∧
    traps (.ltype a w t4) .ltype (s.X a) 128 ∧
    ((s.X a).toNat % 128 ≠ 0 → s.Traps (.freeze a b sc) 0xA5 (s.X a)) ∧
    ((s.X a).toNat % 128 = 0 → (s.X b).toNat % 128 ≠ 0 → s.Traps (.freeze a b sc) 0xA5 (s.X b)) ∧
    ((s.X a).toNat % 128 = 0 → (s.X b).toNat % 128 = 0 → s.X b ≠ 0 → s.cx.freezeAt = none →
      fails s (.freeze a b sc) .freeze (s.X a)) ∧
    (∀ s1, s.LanesReady s1 →
      let lanes := fun (x : Instr) (u : Use) (va : Word) (n : Nat) =>
        (va.toNat % n ≠ 0 → exec x s = .next (s1.enterTrap s.cur (0x80 + 16 * u.kind + 5) va s.pc 0 false)) ∧
        (va.toNat % n = 0 → fails s1 x u va)
      (j < 64 → s.active m j = true → (∀ k < j, s.active m k = false) →
        let row := base + BitVec.ofNat 64 (4 * j)
        let off := base + (velem (s.V q) 32 j).setWidth 64
        lanes (.vld v r m) .load row 4 ∧ lanes (.vst v r m) .store row 4 ∧ lanes (.vldx v r q m) .load off 4 ∧
        lanes (.vstx v r q m) .store off 4) ∧
      (turnless → ∀ h < 2, (∃ k < 32, s.active m (32 * h + k) = true) → (∀ k < 32 * h, s.active m k = false) →
        let line := base + BitVec.ofNat 64 (128 * h)
        lanes (.joinv v r sc m w t) .join line 128 ∧ lanes (.xreadv v r m) .exact line 128))

/-- R52–R54, R196, R198, R360, R365, R381, R382: what decides an access before its data. A hit in the crew's L1 carries the page's kind and
permissions; so does the line of the slice that serves it. Where neither holds the line with what the access needs, a translation is
made: a non-canonical address, then the walk's reason. A miss in the L1 waits while the crew's domain changes. Then the matrix of the
page's kind decides; a task's access to a system page is privileged.
Model's choices: log 18, 83. -/
def Obligations.AccessChecks : Prop :=
  ∀ (s s1 : State) (i : Instr) (u : Use) (va : Word) (leaf : Leaf) (r : Nat),
    let slice := s.sliceFor s.cur.crew va
    let l1 := s.l1Leaf s.cur.crew va u.need
    let line := s.sliceLeaf s.cur.crew va u.need
    let held := s.requestsHeld s.cur.crew
    (held = false → 2 ^ 55 ≤ va.toNat → s.translate i u va = .error (0x80 + 16 * u.kind, va)) ∧
    (l1 = none → held = true → s.translate i u va = .error (heldCause, va)) ∧
    (l1 = none → held = false → line = none → r < 16 → s.leafFor slice va u.need = .error r →
      s.translate i u va = .error (0x80 + 16 * u.kind + (if u.kind = 2 ∧ (r = 8 ∨ r = 10) then 1 else r), va)) ∧
    ((l1 = some leaf ∧ s1 = s) ∨ (l1 = none ∧ held = false ∧ line = some leaf ∧ s1 = s) ∨
        (l1 = none ∧ held = false ∧ line = none ∧ s.leafFor slice va u.need = .ok (leaf, s1)) →
      let refuses := fun (c : Nat) => s.translate i u va = .error (c, va)
      (leaf.kind = 1 → s.cx.depth = 0 → s.translate i u va = .error (0x06, wordOf i)) ∧
      (leaf.kind = 1 → s.cx.depth ≠ 0 → u ∈ [Use.join, .thresh, .exact, .ltype, .freeze] → refuses (0x80 + 16 * u.kind + 4)) ∧
      (leaf.kind = 1 → s.cx.depth ≠ 0 → u ∈ [Use.load, .store, .atomic, .query, .engineRead, .engineWrite, .fetch] →
        s.translate i u va = .ok (leaf, s1)) ∧
      (leaf.kind ≠ 1 → u = .atomic → refuses 0xA4) ∧
      (leaf.kind = 0 → u ∈ [Use.join, .thresh, .exact, .ltype, .freeze] → refuses (0x80 + 16 * u.kind + 4)) ∧
      (leaf.kind = 2 → u ∈ [Use.load, .store, .fetch] → refuses (0x80 + 16 * u.kind + 4)) ∧
      (leaf.kind = 3 → u ∈ [Use.thresh, .ltype, .freeze] → refuses (0x80 + 16 * u.kind + 4)) ∧
      (leaf.kind = 3 → u ∈ [Use.store, .engineWrite] → refuses (0x80 + 16 * u.kind + 6)) ∧
      (leaf.kind = 3 → u = .join → refuses 0xC0) ∧
      (leaf.kind = 0 → u ∈ [Use.load, .store, .query, .engineRead, .engineWrite, .fetch] → s.translate i u va = .ok (leaf, s1)) ∧
      (leaf.kind = 2 → u ∈ [Use.join, .thresh, .exact, .ltype, .freeze, .query, .engineRead, .engineWrite] →
        s.translate i u va = .ok (leaf, s1)) ∧
      (leaf.kind = 3 → u ∈ [Use.load, .exact, .query, .engineRead, .fetch] → s.translate i u va = .ok (leaf, s1)))

/-- R381, R382: one level of a page-table walk: the entry of the level at `table`, eight bytes of memory, decides. A clear V or a
reserved field is not mapped, a kind of 4 to 7 is a bad kind, a needed permission missing at any level refuses, a leaf gives its page
and a table the next level; a poisoned line of the table is a walk fault, a table at an address that names nothing an access violation.
Model's choices: log 17, 18. -/
def Obligations.PageWalk : Prop :=
  ∀ (s : State) (va k table p : Nat) (need : Need) (rd wr ex : Bool),
    k < 3 →
    let bits := 16 + 13 * k
    let e := s.readPa p 8
    let bit := fun (n : Nat) => e.testBit n
    let field := fun (lo n : Nat) => e / 2 ^ lo % 2 ^ n
    let page := field 16 40 * 2 ^ 16
    let here := s.walkFrom none va need (k + 1) table rd wr ex
    let ok := (!need.rd || (rd && bit 5)) && (!need.wr || (wr && bit 6)) && (!need.ex || (ex && bit 7))
    let reserved := field 11 5 ≠ 0 ∨ field 56 8 ≠ 0 ∨ (k = 0 ∧ bit 1 = false) ∨ (bit 1 = true ∧ page % 2 ^ bits ≠ 0) ∨
      (bit 10 = true ∧ field 2 3 ≠ 1)
    let at' := s.place (table + 8 * (va / 2 ^ bits % 8192))
    (at' = .nowhere → here = .error 8) ∧
    (at' = .device p → (s.metaOf (lineOf p)).poison = true → here = .error 12) ∧
    (at' = .device p → (s.metaOf (lineOf p)).poison = false →
      (bit 0 = false → here = .error 1) ∧
      (bit 0 = true → reserved → here = .error 1) ∧
      (bit 0 = true → ¬reserved → 4 ≤ field 2 3 → here = .error 2) ∧
      (bit 0 = true → ¬reserved → field 2 3 < 4 → ok = false → here = .error 3) ∧
      (bit 0 = true → ¬reserved → field 2 3 < 4 → ok = true → bit 1 = true → here = .ok {
        pa := page, span := 2 ^ bits, kind := field 2 3, rd := rd && bit 5, wr := wr && bit 6, ex := ex && bit 7, hb := bit 8
        log := bit 9, sbank := bit 10 }) ∧
      (bit 0 = true → ¬reserved → field 2 3 < 4 → ok = true → bit 1 = false →
        here = s.walkFrom none va need k page (rd && bit 5) (wr && bit 6) (ex && bit 7)))

/-- R59, R60: `Join` of a line with some data, element by element: a TOP line stays; a FILL1 line takes its first fill and goes to TOP on
a different one; in every other type each element joins by its type's rule, and the line is TOP when every element holds TopValue.
R59, R60, R209: the operand of a lattice instruction: element i holds the register's low bits, every other element the type's
bottom; joining it changes no other element, and joining a line's own bottom changes nothing. -/
def Obligations.LatticeJoin : Prop :=
  (∀ (t : LatType) (wc : Nat) (l : LatLine) (d : BitVec 1024), wc < 4 → (t = .maxf → wc = 2) → (t = .maxkv ∨ t = .span → wc = 3) →
    let w := 8 * 2 ^ wc
    let el := fun (v : BitVec 1024) (i : Nat) => v.toNat / 2 ^ (w * i) % 2 ^ w
    let key := fun (f : Nat) => if 2 ^ 31 ≤ f then 2 ^ 32 - 1 - f else f + 2 ^ 31
    let half := fun (v k : Nat) => Int.bmod (v / 2 ^ (32 * k) % 2 ^ 32) (2 ^ 32)
    let join := fun (a b e : Nat) => match t with
      | .maxu | .maxkv => e = max a b
      | .minu => e = min a b
      | .maxf => e = if key a < key b then b else a
      | .or => ∀ k, e.testBit k = (a.testBit k || b.testBit k)
      | .cnt => e = min (a + b) (2 ^ w - 1)
      | .span => half e 0 = min (half a 0) (half b 0) ∧ half e 1 = max (half a 1) (half b 1)
      | .fill1 => True
    let top : Nat := match t with
      | .minu => 0
      | .maxf => 0x7FFFFFFF
      | .span => 0x7FFFFFFF80000000
      | _ => 2 ^ w - 1
    let n := latJoin t wc l d
    (l.top = true → n = l) ∧
    (l.top = false → t = .fill1 →
      (l.filled = false → n = { data := d, filled := true, top := false }) ∧
      (l.filled = true → n = { l with top := decide (l.data ≠ d) })) ∧
    (l.top = false → t ≠ .fill1 →
      n.filled = l.filled ∧ (∀ i < 1024 / w, join (el l.data i) (el d i) (el n.data i)) ∧
      (n.top = true ↔ ∀ i < 1024 / w, el n.data i = top))) ∧
  (∀ (t : LatType) (wc i : Nat) (v : Word) (l : LatLine), wc < 4 → t ≠ .fill1 → (t = .maxf → wc = 2) → (t = .maxkv ∨ t = .span → wc = 3) →
    let w := 8 * 2 ^ wc
    i < 1024 / w →
    let el := fun (v : BitVec 1024) (i : Nat) => v.toNat / 2 ^ (w * i) % 2 ^ w
    let bottom : Nat := match t with
      | .minu => 2 ^ w - 1
      | .maxf => 0xFFFFFFFF
      | .span => 0x800000007FFFFFFF
      | _ => 0
    (∀ j < 1024 / w, el (liftElem t wc i v) j = if j = i then v.toNat % 2 ^ w else bottom) ∧
    (∀ j < 1024 / w, j ≠ i → el (latJoin t wc l (liftElem t wc i v)).data j = el l.data j) ∧
    (latJoin t wc l (bottomLine t wc)).data = l.data)

/-- R209, R213–R215: `JOIN` completes and counts as one store wherever its address is aligned and mapped to a lattice page, the earlier
writes that its scope waits for are counted, no join of the line is held or travels, and the line's type and width match and it grows.
`JOIN` of a typed, growing, clean line: A slice that holds the line as a delta absorbs it there; else the home
joins it into the line; no other line and no register changes. Where the type or the width differs or the line
is frozen it traps. No join here is logged in a splits buffer, and no home's count of it spills (R325, R379). -/
def Obligations.Joins : Prop :=
  ∀ (s s1 : State) (a b : BitVec 6) (sc t : BitVec 3) (w : BitVec 2) (leaf : Leaf) (p : Nat),
    let va := s.X a
    let ty := latOfCode t.toNat
    let wc := w.toNat
    let l := lineOf p
    let m := s.metaOf l
    let slice := s.sliceFor s.cur.crew va
    let data := liftElem ty wc (elemIndex ty wc va) (s.X b)
    let i : Instr := .join a b sc w t
    let counted := fun (u : State) => s.SameOthers u ∧ u.cx = { s.cx.advance .seq with
      cnt := { s.cx.cnt with stores := s.cx.cnt.stores + 1 }, tags := u.cx.tags, arrived := s.cx.arrived + 1 }
    let aligned := va.toNat % (if ty = .fill1 then 128 else 2 ^ wc) = 0
    let released := sc = 0 ∨ s.cx.cnt.stores = 0
    let ready := aligned ∧ s.Reaches s1 i .join va leaf p ∧ released ∧ s.lineBusy l = false
    let unlogged := fun (slice : Nat) => splitsJoins (s.crewAt (loggingCrew slice)).splitctl = false
    (aligned → s.translate i .join va = .ok (leaf, s1) → released → s.busyAt leaf va = false →
      (∀ k, s.latticeAt leaf va = .ok k → (s.metaOf k).type = t.setWidth 4 ∧ (s.metaOf k).width = w ∧ (s.metaOf k).frozen = false) →
      s.Runs i fun u => u.cx.pc = (s.cx.advance .seq).pc ∧ u.cx.x = s.cx.x ∧
        u.cx.cnt = { s.cx.cnt with stores := s.cx.cnt.stores + 1 }) ∧
    (ready → m.type = t.setWidth 4 → m.width = w → m.frozen = false →
      (∀ c, s.copyAt? slice l = some c → c.st = .d → s.undoRegion = none → unlogged slice → s.ArrivalRoom →
        s.Runs i fun u => counted u ∧ u.mem = s.mem ∧ u.lines = s.lines ∧ ∃ e, u.copyAt? slice l = some e ∧ e.st = .d ∧
          latJoin ty wc { data := c.data, filled := c.filled, top := c.top } data = { data := e.data, filled := e.filled, top := e.top }) ∧
      ((∀ c, s.copyAt? slice l = some c → c.st ≠ .d) → s.MemWf → s.undoRegion = none → (∀ x ∈ s.watches, x.line ≠ l) →
        unlogged (homeOf l) → s.ArrivalRoom → s.Runs i fun u => counted u ∧ u.latLine l = latJoin ty wc (s.latLine l) data ∧
          (∀ k, k ≠ l → u.memLine k = s.memLine k ∧ u.metaOf k = s.metaOf k) ∧ u.copies = s.copies)) ∧
    (ready → unlogged (homeOf l) →
      let traps := fun (c : Nat) (u : State) => exec i s = .next (u.enterTrap s.cur c va s.pc 0 false)
      (m.type ≠ t.setWidth 4 → traps 0xC3 s1) ∧
      (m.type = t.setWidth 4 → m.width ≠ w → traps 0xC4 s1) ∧
      (m.type = t.setWidth 4 → m.width = w → m.frozen = true → ∃ r, r.kind = 3 ∧ r.addr = 128 * l ∧ traps 0xC0 (s1.post r)))

/-- R61, R218, R219: the answer of a threshold read: 4 for a TOP line or an element at its TopValue, else the first trigger passed, else
5 on a frozen line, else none yet; which sets of triggers are refused: more than one, but for OR and SPAN, whose triggers must join to the
element's TopValue pair by pair, the first pair that does not being named; and what has once been passed stays passed: joining anything
into a line that is not TOP, and does not become so, keeps every trigger it passed. -/
def Obligations.ThresholdAnswers : Prop :=
  ∀ (t : LatType) (wc i : Nat) (trigs : List Word) (l : LatLine) (trig d : BitVec 1024) (frozen : Bool),
    let w := latWidth t wc
    let atTop := l.top = true ∨ topElem t w = some (lineElem t wc i l.data)
    let pass := fun (k : Nat) => passed t wc l (liftElem t wc i (trigs.getD k 0)) = true
    (atTop → answer t wc i trigs l frozen = some 4) ∧
    (¬atTop → ∀ k < trigs.length, pass k → (∀ j < k, ¬pass j) → answer t wc i trigs l frozen = some k) ∧
    (¬atTop → (∀ k < trigs.length, ¬pass k) → answer t wc i trigs l frozen = if frozen then some 5 else none) ∧
    (t ≠ .or → t ≠ .span → triggerFault t wc i trigs = if trigs.length = 1 then none else some trigs.length) ∧
    (wc < 4 → i < 1024 / w → t = .or ∨ (t = .span ∧ wc = 3) →
      let trig := fun (k : Nat) => (trigs.getD k 0).toNat % 2 ^ w
      let half := fun (v k : Nat) => Int.bmod (v / 2 ^ (32 * k) % 2 ^ 32) (2 ^ 32)
      let covers := fun (j k : Nat) => if t = .or then trig j ||| trig k = 2 ^ w - 1
        else min (half (trig j) 0) (half (trig k) 0) = -2 ^ 31 ∧ max (half (trig j) 1) (half (trig k) 1) = 2 ^ 31 - 1
      let pair := fun (j k : Nat) => j < k ∧ k < trigs.length
      ((∀ j k, pair j k → covers j k) → triggerFault t wc i trigs = none) ∧
      (∀ j k, pair j k → ¬covers j k → (∀ m n, pair m n → (m < j ∨ (m = j ∧ n < k)) → covers m n) →
        triggerFault t wc i trigs = some (0x100 * k + j))) ∧
    (wc < 4 → (t = .maxf → wc = 2) → (t = .maxkv ∨ t = .span → wc = 3) →
      l.top = false → (latJoin t wc l d).top = false → passed t wc l trig = true → passed t wc (latJoin t wc l d) trig = true)

/-- R42, R198, R206, R217–R222, R378: `TREAD` and `TWAIT`. With an answer already given, or decided by the line, they write the code to
x(d) and go on; an undecided `TREAD` stalls with a watch of its line registered; an undecided `TWAIT` of a task parks: its record holds the
continuation, with LIVE ← x(d) and WAKE ← d, its context is FREE, and the watch wakes the record. `TWAIT` with an active loop traps in
task mode. A poisoned line is consumed. The watch is the line's first, and its slice has room for it; the parked task holds no tile
state and has nothing outstanding.
Model's choices: log 30, 123. -/
def Obligations.ThresholdReads : Prop :=
  ∀ (s s1 : State) (d a b : BitVec 6) (c w : BitVec 2) (t : BitVec 3) (leaf : Leaf) (p code : Nat),
    let va := s.X a
    let ty := latOfCode t.toNat
    let wc := w.toNat
    let l := lineOf p
    let el := elemIndex ty wc va
    let trigs := (List.range (c.toNat + 1)).map fun k => s.X (b + BitVec.ofNat 6 k)
    let ready := fun (i : Instr) => s.cx.answer = none ∧ triggerFault ty wc el trigs = none ∧
      va.toNat % (if ty = .fill1 then 128 else 2 ^ wc) = 0 ∧ s.Reaches s1 i .thresh va leaf p ∧
      (s.metaOf l).type = t.setWidth 4 ∧ (s.metaOf l).width = w ∧ s.lineBusy l = false
    let decided := answer ty wc el trigs (s.latLine l) (s.metaOf l).frozen
    let gives := fun (u : State) => u.X d = (if d = 0 then 0 else BitVec.ofNat 64 code) ∧ (∀ r, r ≠ d → u.X r = s.X r) ∧
      u.cx = { s.cx.advance .seq with x := u.cx.x, answer := none } ∧ s.SameOthers u ∧ s.SameBytes u
    let idle := s.cx.depth ≠ 0 ∨ (s.cx.l0.lc = 0 ∧ s.cx.l1.lc = 0)
    let watched := fun (by' : Waiter) (u : State) =>
      ∃ x, u.watches = s.watches ++ [x] ∧ x.line = l ∧ x.elem = el ∧ x.trigs = trigs ∧ x.waiter = by'
    (s.cx.answer = some code → s.Runs (.tread d a b c w t) gives ∧ s.Runs (.twait d a b c w t) gives) ∧
    (ready (.tread d a b c w t) → decided = some code → s.Runs (.tread d a b c w t) gives) ∧
    (ready (.twait d a b c w t) → decided = some code → idle → s.Runs (.twait d a b c w t) gives) ∧
    (ready (.tread d a b c w t) → decided = none → s.cx.cancelled = false → (∀ x ∈ s.copiesOf l, x.2.st ≠ .d) →
      (∀ x ∈ s.watches, x.line ≠ l) → s.watches.length < 16384 →
      s.Runs (.tread d a b c w t) fun u => u.cx.st = .stalled ∧ u.cx.wait = some .answer ∧ u.cx.pc = s.pc ∧ u.cx.x = s.cx.x ∧
        (u.metaOf l).watch = true ∧ watched (.context s.cur) u) ∧
    (∀ q, ready (.twait d a b c w t) → decided = none → s.cx.depth = 0 → s.cx.l0.lc = 0 → s.cx.l1.lc = 0 → s.cx.cancelled = false →
      s.cx.drained = true → s.writesOut s.cx.record = false → splitsOn (s.crewAt s.cur.crew).splitctl = false →
      s.holdsTiles s.cur = false → (∀ x ∈ s.copiesOf l, x.2.st ≠ .d) → (∀ x ∈ s.watches, x.line ≠ l ∧ x.waiter ≠ .context s.cur) →
      s.watches.length < 16384 → s.AwaitsNothing s.cur → s.RecordsAt [(s.cx.record, q)] → (∀ o < 192, lineOf (q + o) ≠ l) →
      s.Runs (.twait d a b c w t) fun u => s.Freed s.cur u ∧ (u.metaOf l).watch = true ∧ watched (.parked s.cx.record s.cur.crew) u ∧
        s.Continues q (s.pc + 4) ((s.X d).setWidth 16) d.toNat leaf.hb u ∧ s.SameBytesOff u [q]) ∧
    (s.cx.answer = none → triggerFault ty wc el trigs = none → va.toNat % (if ty = .fill1 then 128 else 2 ^ wc) = 0 →
      (s.metaOf l).type = t.setWidth 4 → (s.metaOf l).width = w → s.lineBusy l = false →
      (s.MeetsPoison s1 (.tread d a b c w t) .thresh va leaf p → s.Consumes s1 (.tread d a b c w t) va) ∧
      (idle → s.MeetsPoison s1 (.twait d a b c w t) .thresh va leaf p → s.Consumes s1 (.twait d a b c w t) va)) ∧
    (s.cx.answer = none → ¬idle → ∀ word, encode (.twait d a b c w t) = some word →
      exec (.twait d a b c w t) s = .next (s.enterTrap s.cur 0x140 (word.setWidth 64) s.pc 0 false))

/-- R216, R225–R228: the line instructions. `LTYPE` of a line at bottom types it at the new bottom, of any other traps; `FREEZE` of one
line freezes it and keeps its data, of none goes on; `LRESET` records the request for an arena the launch owns and traps for any other;
`LQUERY` gives the home's view in system mode and traps in task mode.
Model's choices: log 26, 121. -/
def Obligations.LineInstructions : Prop :=
  ∀ (s s1 : State) (d a b : BitVec 6) (w : BitVec 2) (t : BitVec 4) (sc : BitVec 3) (leaf : Leaf) (p : Nat),
    let va := s.X a
    let l := lineOf p
    let m := s.metaOf l
    let finds := fun (i : Instr) (u : Use) => s.translate i u va = .ok (leaf, s1) ∧ s.place (leaf.addr va) = .device p ∧
      s.lineBusy l = false
    let grown := ∀ x ∈ s.copiesOf l, x.2.st ≠ .d
    let atBottom := m.type = 0xF ∨ (m.filled = false ∧ m.top = false ∧ s.memLine l = bottomLine (latOfCode m.type.toNat) m.width.toNat)
    let keeps := fun (u : State) => u.cx = s.cx.advance .seq ∧ s.SameOthers u
    (t.toNat < 8 → va.toNat % 128 = 0 → finds (.ltype a w t) .ltype → grown →
      (m.frozen = false → atBottom → s.MemWf → s.undoRegion = none → s.Runs (.ltype a w t) fun u => keeps u ∧
        u.metaOf l = { m with type := t, width := w, filled := false, top := false, hstate := hsI, holder := 0 } ∧
        u.memLine l = bottomLine (latOfCode t.toNat) w.toNat ∧ (∀ k, k ≠ l → u.memLine k = s.memLine k ∧ u.metaOf k = s.metaOf k)) ∧
      (m.frozen = true ∨ ¬atBottom → exec (.ltype a w t) s = .next (s1.enterTrap s.cur 0xC2 va s.pc 0 false))) ∧
    (va.toNat % 128 = 0 → s.X b = 0 → s.Runs (.freeze a b sc) (s.Goes .seq)) ∧
    (va.toNat % 128 = 0 → s.X b = 128 → s.cx.freezeAt = none → finds (.freeze a b sc) .freeze → grown →
      s.undoRegion = none → (∀ x ∈ s.watches, x.line ≠ l) →
      s.Runs (.freeze a b sc) fun u => keeps u ∧ (u.metaOf l).frozen = true ∧ u.memLine l = s.memLine l ∧
        (∀ k, k ≠ l → u.memLine k = s.memLine k ∧ u.metaOf k = s.metaOf k)) ∧
    (∀ x r, s.slotOf s.cx.launchId = some x →
      (s.slotAt x).arenas.find? (fun e => e.1 == va.toNat) = some r →
      (r.2.2 = true → s.Runs (.lreset a) fun u => keeps u ∧ u.mem = s.mem ∧ u.lines = s.lines ∧ u.copies = s.copies ∧
        (r.1, r.2.1) ∈ (u.jobAt ((s.slotAt x).image / 256 ^ 0x18 % 256 ^ 4)).resets) ∧
      (r.2.2 = false → exec (.lreset a) s = .next (s.enterTrap s.cur 0xC6 va s.pc 0 false))) ∧
    (∀ x, s.slotOf s.cx.launchId = some x → (∀ e ∈ (s.slotAt x).arenas, e.1 ≠ va.toNat) →
      exec (.lreset a) s = .next (s.enterTrap s.cur 0xC7 va s.pc 0 false)) ∧
    (s.cx.depth ≠ 0 → s.translate (.lquery d a) .query va = .ok (leaf, s1) →
      s.place (leaf.addr va) = .device p ∨ s.place (leaf.addr va) = .host p →
      s.Runs (.lquery d a) (s1.GivesX d (BitVec.ofNat 64 (m.bits.toNat + 2 ^ 32 * min (s.watches.countP fun x => x.line == l) 0xFFFF +
        2 ^ 48 * (if (s.copiesOf l).any fun x => x.2.st == .d then 1 else 0))))) ∧
    (s.cx.depth = 0 → ∀ word, encode (.lquery d a) = some word →
      exec (.lquery d a) s = .next (s.enterTrap s.cur 0x06 (word.setWidth 64) s.pc 0 false))

/-- R229, R230, R233, R234, R380: `FENCE` at CREW, or once the homes' answers are there (and at SYS the host's), writes the status word and
clears the accumulator. Before that it stalls: first until the tag before it is closed, then, its own tag closed, for the answers, then
at SYS for the host's acknowledgements; `WAITC` goes on when every counter is within its limit, 15 being no limit; a prefetch
always goes on and changes no byte and no register.
Model's choices: log 29. -/
def Obligations.FenceAndWait : Prop :=
  ∀ (s : State) (d a : BitVec 6) (sc : BitVec 3) (t c z l : BitVec 4),
    let f := s.cx.fails
    let bit := fun (n k : Nat) => if n = 0 then 0 else 2 ^ k
    let status := BitVec.ofNat 64 (bit f.lost 0 + bit f.refused 1 + bit f.poisoned 2 + bit f.timedout 3 + 2 ^ 8 * min f.lost 255 +
      2 ^ 16 * min f.refused 255 + 2 ^ 24 * min f.poisoned 255 + 2 ^ 32 * min f.timedout 255)
    let within := fun (n : Nat) (k : BitVec 4) => k = 15 ∨ n ≤ k.toNat
    let cnt := s.cx.cnt
    let closed := ∀ p ∈ s.cx.tags, p.1 = s.cx.tag ∨ p.2.sent = p.2.arrived
    let held := fun (w : Wait) (u : State) =>
      u.cx.st = .stalled ∧ u.cx.wait = some w ∧ u.cx.fails = f ∧ u.cx.x = s.cx.x ∧ u.cx.pc = s.pc
    let met := within cnt.loads l ∧ within cnt.stores z ∧ within cnt.copies c ∧ within cnt.demands t
    (sc = 0 ∨ (s.cx.answer ≠ none ∧ (sc = 5 → s.cx.hostWrites = 0)) →
      s.Runs (.fence d sc) ((s.upd fun x => { x.drainVec with fails := Failures.none, answer := none }).GivesX d status)) ∧
    (sc ≠ 0 → s.cx.cancelled = false →
      (s.cx.answer = none → closed → s.Runs (.fence d sc) fun u => held .fence u ∧ u.cx.tag = (s.cx.tag + 1) % 4 ∧
        u.events = s.events ++ [.tagClose s.cur s.cx.tag]) ∧
      (s.cx.answer = none → ¬closed → s.Runs (.fence d sc) fun u => held .tagOpen u ∧ u.cx.tag = s.cx.tag) ∧
      (s.cx.answer ≠ none → sc = 5 → s.cx.hostWrites ≠ 0 → s.Runs (.fence d sc) (held .hostAcks))) ∧
    (met → s.Runs (.waitc t c z l) (s.Goes .seq)) ∧
    (¬met → s.cx.cancelled = false → s.Runs (.waitc t c z l) fun u =>
      u = s.upd fun x => { x with st := .stalled, wait := some (.counters l.toNat z.toNat c.toNat t.toNat) }) ∧
    (∀ i ∈ [Instr.prefxL1 a, .prefxL2 a], s.Runs i fun u => u.cx = s.cx.advance .seq ∧ s.SameOthers u ∧ s.SameBytes u)

/-- R169, R170, R174, R192, R193, R206, R464: the vector loads and stores of 64 elements, contiguous or indexed by a register of offsets.
Each active element moves four bytes, little-endian; inactive elements are kept, and no other byte changes. A command is queued, a load
counts in `OCNT`.LOADS until it completes, a store in `OCNT`.STORES. A poisoned element loads 0, and its context traps before its next
instruction with the lowest such address, or its job rolls back where R409 holds. Every element reaches device memory, translation
keeping a line in a line, and no live node reads what a store writes. The bytes of a store are said for clean lines where memory is in
canonical form, the elements are apart and outside the slot page's guarded lines, no undo log and no code shadow takes them, and no
home's count spills. -/
def Obligations.VectorMemory : Prop :=
  ∀ (s s1 : State) (d a b : BitVec 5) (m : BitVec 3) (p : Nat → Nat), s.LanesReady s1 →
    let base := s.X (a.setWidth 6)
    let row := fun (j : Nat) => base + BitVec.ofNat 64 (4 * j)
    let off := fun (j : Nat) => base + (velem (s.V b) 32 j).setWidth 64
    let poisoned := fun (j : Nat) => (s.metaOf (lineOf (p j))).poison
    let reach := fun (u : Use) (q : Nat → Leaf → Prop) (va : Nat → Word) => ∀ j < 64, s.active m j = true →
      (va j).toNat % 4 = 0 ∧ s.Cached u (va j) (p j) (q j) ∧
      ∀ k < 64, s.active m k = true → (va j).toNat / 128 = (va k).toNat / 128 → p j / 128 = p k / 128
    let issued := fun (isLoad : Bool) (c : Ctx) => c.vq = s.cx.vq ++ [{ flags := 0, isLoad := isLoad }] ∧
      c.pc = (s.cx.advance .seq).pc ∧ c.x = s.cx.x ∧ c.p = s.cx.p
    let loads := fun (i : Instr) (va : Nat → Word) => reach .load (fun _ _ => True) va → s.Runs i fun t =>
      (∀ j < 64, velem (t.V d) 32 j =
        if s.active m j then (if poisoned j then 0 else BitVec.ofNat 32 (s.readPa (p j) 4)) else velem (s.V d) 32 j) ∧
      (∀ k, k ≠ d → t.V k = s.V k) ∧ issued true t.cx ∧ t.cx.cnt = { s.cx.cnt with loads := s.cx.cnt.loads + 1 } ∧
      s.SameOthers t ∧ s.SameBytes t ∧
      ((∀ j < 64, s.active m j = true → poisoned j = false) → t.cx.vpoison = s.cx.vpoison) ∧
      (∀ j < 64, s.active m j = true → poisoned j = true → (∀ k < j, s.active m k = true → poisoned k = false) →
        (s.rollbackFor s.cx.launchId = none →
          t.cx.vpoison = some (s.cx.vpoison.getD (va j)) ∧ .asyncFaultDelivery s.cur ∈ t.events) ∧
        ∀ job, s.rollbackFor s.cx.launchId = some job → t.cx.vpoison = s.cx.vpoison ∧ .rollbackRestart job ∈ t.events)
    let stores := fun (i : Instr) (va : Nat → Word) => (s.crewAt s.cur.crew).nodes = [] →
      (reach .store (fun _ _ => True) va → s.Runs i fun t =>
        t.cx.v = s.cx.v ∧ issued false t.cx ∧ t.cx.cnt = { s.cx.cnt with stores := s.cx.cnt.stores + 1 } ∧ s.SameOthers t) ∧
      (reach .store (fun j l => s.Unshadowed l (p j)) va → s.MemWf → s.undoRegion = none → s.ArrivalRoom →
        (∀ j < 64, ∀ k < 64, j ≠ k → s.active m j = true → s.active m k = true → p j ≠ p k) →
        (∀ j < 64, s.active m j = true → poisoned j = false ∧ s.slotGuarded (lineOf (p j)) = false) → s.Runs i fun t =>
        (∀ j < 64, s.active m j = true → ∀ k < 4, t.byteAt (p j + k) = (velem (s.V d) 32 j).extractLsb' (8 * k) 8) ∧
        (∀ pa < 2 ^ 56, (∀ j < 64, s.active m j = true → ¬(p j ≤ pa ∧ pa < p j + 4)) → t.byteAt pa = s.byteAt pa))
    loads (.vld d a m) row ∧ loads (.vldx d a b m) off ∧ stores (.vst d a m) row ∧ stores (.vstx d a b m) off

/-- R194, R195, R206, R213: the vector forms of join and exact read over two lines. They complete, queueing their command, for every mask
and each line that has an active element aligned, mapped, not busy and fit for the access: `JOINV` counts as one store, and `XREADV` reads
the active elements, those of a poisoned line as 0, keeps the others and counts as a load. `JOINV` joins each of those lines with its half
of the register, inactive elements as the type's bottom, and no other line changes; there no slice holds a delta of them, none is
watched, poisoned or logged, memory is in canonical form, and no home's count spills. -/
def Obligations.VectorLines : Prop :=
  ∀ (s s1 : State) (d a : BitVec 5) (sc m t : BitVec 3) (w : BitVec 2) (q : Nat → Nat), s.LanesReady s1 →
    let va := s.X (a.setWidth 6)
    let ty := latOfCode t.toNat
    let line := fun (h : Nat) => lineOf (q h)
    let md := fun (h : Nat) => s.metaOf (line h)
    let data := fun (h : Nat) => BitVec.ofNat 1024 (((List.range 32).map fun j => 2 ^ (32 * j) *
      (if ty = .fill1 ∨ s.active m (32 * h + j) = true then velem (s.V d) 32 (32 * h + j)
        else (bottomLine ty w.toNat).extractLsb' (32 * j) 32).toNat).sum)
    let issued := fun (isLoad : Bool) (c : Ctx) => c.vq = s.cx.vq ++ [{ flags := 0, isLoad := isLoad }] ∧
      c.pc = (s.cx.advance .seq).pc ∧ c.x = s.cx.x ∧ c.p = s.cx.p
    let released := sc = 0 ∨ s.cx.cnt.stores = 0
    let start := fun (h : Nat) => va + BitVec.ofNat 64 (128 * h)
    let used := fun (h : Nat) => h < 2 ∧ ∃ j < 32, s.active m (32 * h + j) = true
    let reads := fun (h : Nat) (k : Leaf) =>
      (k.kind = 3 ∨ (md h).frozen = true ∨ ((md h).type = 6 ∧ (md h).filled = true)) ∧
      ∀ j < 32, s.place (k.addr (start h + BitVec.ofNat 64 (4 * j))) = .device (q h + 4 * j)
    let fits := fun (h : Nat) => (start h).toNat % 128 = 0 ∧ s.Cached .join (start h) (q h) (fun _ => True) ∧ s.lineBusy (line h) = false ∧
      (md h).type = t.setWidth 4 ∧ (md h).width = w ∧ (md h).frozen = false
    let plain := fun (h : Nat) => (md h).poison = false ∧ (∀ k ∈ s.watches, k.line ≠ line h) ∧
      (∀ c, s.copyAt? (s.sliceFor s.cur.crew (start h)) (line h) = some c → c.st ≠ .d) ∧
      splitsJoins (s.crewAt (loggingCrew (homeOf (line h)))).splitctl = false
    ((∀ h, used h → released ∧ fits h) →
      s.Runs (.joinv d a sc m w t) fun u => issued false u.cx ∧ u.cx.v = s.cx.v ∧
        u.cx.cnt = { s.cx.cnt with stores := s.cx.cnt.stores + 1 } ∧
        ((∀ h, used h → plain h) → (used 0 → used 1 → line 0 ≠ line 1) → s.MemWf → s.undoRegion = none → s.ArrivalRoom →
          (∀ h, used h → u.latLine (line h) = latJoin ty w.toNat (s.latLine (line h)) (data h)) ∧
          ∀ k, (∀ h, used h → k ≠ line h) → u.memLine k = s.memLine k ∧ u.metaOf k = s.metaOf k)) ∧
    ((∀ h, used h → (start h).toNat % 128 = 0 ∧ s.Cached .exact (start h) (q h) (reads h) ∧ s.lineBusy (line h) = false) →
      s.Runs (.xreadv d a m) fun u => issued true u.cx ∧ u.cx.cnt = { s.cx.cnt with loads := s.cx.cnt.loads + 1 } ∧
        (∀ j < 64, velem (u.V d) 32 j = if s.active m j then
            (if (md (j / 32)).poison then 0 else BitVec.ofNat 32 (s.readPa (q (j / 32) + 4 * (j % 32)) 4))
          else velem (s.V d) 32 j) ∧
        (∀ k, k ≠ d → u.V k = s.V k) ∧ s.SameBytes u)

/-! Tile instructions (R236–R265). -/

/-- R242, R246, R247, R258, R235: `TSHAPE` keeps every bit it writes. `TMAP` gives te the handle of ta and a map of the kind and the
parameter, a gather with the index handle captured; as ID with a parameter it imports a handle. `TMPROG` keeps a legal program. The
checks of `TMAP` come in their order: bad-handle for an import, else null-handle and stale-handle of ta, map-parameter, and the
checks of the index tile, whose bank must be INT16, INT8, UINT8, INT4 or UINT4, unscaled. -/
def Obligations.TileRegisters : Prop :=
  ∀ (s : State) (e a : BitVec 4) (b : BitVec 6) (k : BitVec 3),
    let v := s.X b
    let h := s.cx.getT a
    let r : BitVec 4 := v.extractLsb' 0 4
    let j := s.cx.getT r
    let bf := (s.bankOf r).toNat
    let indexes := 11 ≤ bf % 16 ∧ bf / 16 % 4 = 0
    let mapped := fun (kind : Nat) (x : BitVec 32) (c : Ctx) =>
      (c.setT e h).setMap e { kind := kind, param := v, index := x }
    let plain : List (Instr × Nat × Word) := [(.tmapTrans e a b, 1, 0), (.tmapSlice e a b, 2, 0x3F3F),
      (.tmapStride e a b, 3, 0x3F3F3F3F), (.tmapBcast e a b, 4, 0x3F01)]
    let masks : List (Instr × Word) := (.tmapGather e a b, 0x3F1F) :: plain.map fun x => (x.1, x.2.2)
    s.Becomes (.tshape b k) (fun c => c.setTsh k v) ∧
    (v ≠ 0 → v.toNat / 2 ^ 26 = 32 → s.Becomes (.tmapId e a b) fun c => (c.setT e (v.setWidth 32)).setMap e TMap.ident) ∧
    (v ≠ 0 → v.toNat / 2 ^ 26 ≠ 32 → s.Traps (.tmapId e a b) 0x102 v) ∧
    (v = 0 → s.Names h → s.Becomes (.tmapId e a b) (mapped 0 0)) ∧
    (s.Names h →
      (∀ x ∈ plain, v &&& ~~~x.2.2 = 0 → s.Becomes x.1 (mapped x.2.1 0)) ∧
      (∀ x ∈ masks, v &&& ~~~x.2 ≠ 0 → s.Traps x.1 0x109 v) ∧
      (v &&& ~~~0x3F1F = 0 →
        (s.Names j → indexes → s.Becomes (.tmapGather e a b) (mapped 5 j)) ∧
        (s.Names j → ¬indexes → ∀ w, encode (.tmapGather e a b) = some w → s.Traps (.tmapGather e a b) 0x108 (w.setWidth 64)) ∧
        (j.getLsbD 31 = false → s.Traps (.tmapGather e a b) 0x100 (r.setWidth 64)) ∧
        (j.getLsbD 31 = true → ¬s.Names j → s.Traps (.tmapGather e a b) 0x101 (j.setWidth 64)))) ∧
    (∀ i ∈ masks.map Prod.fst ++ (if v = 0 then [Instr.tmapId e a b] else []),
      (h.getLsbD 31 = false → s.Traps i 0x100 (a.setWidth 64)) ∧
      (h.getLsbD 31 = true → ¬s.Names h → s.Traps i 0x101 (h.setWidth 64))) ∧
    (programOk v = true → s.Becomes (.tmprog b) fun c => { c with mprog := v }) ∧
    (programOk v = false → s.Traps (.tmprog b) 0x10B v)

/-- R235–R241, R265: slots. `TALLOC` takes the lowest unallocated entry and the lowest free offset of the size its bank's format gives,
and stalls without them. `TREL` of a slot of the task or the launch that nothing reads unallocates it with its generation raised, and
its undemanded writer with it; one that copies or nodes of other crews read is left DRAINING. `TSTAT` gives the handle and its slot's state,
and the slot's fields when the handle is not stale. `BANKFMT` writes an unused bank's format.
Model's choices: log 44. -/
def Obligations.TileSlots : Prop :=
  ∀ (s : State) (e k : BitVec 4) (a : BitVec 6) (n off : Nat),
    let q := s.cur.crew
    let v := s.X a
    let h := s.cx.getT e
    let slot := s.slotNamed q h
    let here := ownerCrew q h
    let state := match slot.st with | .empty => 0 | .filling => 1 | .ready => 2 | .draining => 3
    let calm := ∀ p ∈ (s.crewAt q).nodes, ∀ f, (s.cur, f) ∉ p.2.evaluators
    let bf := (s.bankFmt q k.toNat).toNat
    let f := bf % 16
    let size := match bf / 16 % 4 with
      | 2 => 3
      | sc => (if f ≤ 1 then 16 else if f = 2 ∨ f = 3 ∨ f = 11 then 8 else (if f = 4 ∨ f = 5 ∨ f = 12 ∨ f = 13 then 4
          else if f = 6 ∨ f = 7 then 3 else 2) + sc % 2)
    let fits := fun (o : Nat) => o + size ≤ 256 ∧
      ∀ p ∈ (s.crewAt q).tiles, p.2.alloc = true → p.2.bank = k.toNat → o + size ≤ p.2.off ∨ p.2.off + size ≤ o
    let mine := s.cx.record ≠ 0 ∧ (slot.owner = s.cx.record ∨ (slot.owner = 0 ∧ slot.launch = s.cx.launch))
    let others := fun (t : State) => ∀ j m, (j, m) ≠ (here, hSlot h) → (s.tileAt j m).st ≠ .draining → t.tileAt j m = s.tileAt j m
    let rows := (if v.toNat % 16 = 9 then v.toNat / 16 % 4 = 2 else v.toNat / 16 % 4 = 0 ∨
      (v.toNat / 16 % 4 = 1 ∧ v.toNat % 16 ∈ [4, 5, 6, 7, 8, 10, 12]))
    let legal := v &&& 0xFFFFFFFFFF00F8C0 = 0 ∧ v.toNat / 256 % 8 ≤ 4 ∧ rows
    let busy := ∃ p ∈ (s.crewAt q).tiles, p.2.alloc = true ∧ p.2.bank = k.toNat
    let closed := s.cx.depth = 0 ∧ k = 15
    (n < 1024 → (s.tileAt q n).alloc = false → (∀ m < n, (s.tileAt q m).alloc = true) → fits off → (∀ o < off, ¬fits o) →
      bf / 16 % 4 < 3 →
      s.Runs (.talloc e k) fun t =>
        let x := t.tileAt q n
        x.alloc = true ∧ x.st = .empty ∧ x.owner = s.cx.record ∧ x.bank = k.toNat ∧ x.off = off ∧ x.mask = 0 ∧ x.gen = (s.tileAt q n).gen ∧
        t.cx = ({ s.cx with t := t.cx.t }.setMap e TMap.ident).advance .seq ∧
        (t.cx.getT e).toNat = n + 2 ^ 10 * x.gen.toNat + 2 ^ 22 * crewInSquad q + 2 ^ 31 ∧ (∀ r, r ≠ e → t.cx.getT r = s.cx.getT r) ∧
        (∀ m, m ≠ n → t.tileAt q m = s.tileAt q m) ∧ s.SameOthers t ∧ s.SameBytes t) ∧
    ((∀ o, ¬fits o) → bf / 16 % 4 < 3 → s.cx.cancelled = false →
      s.Runs (.talloc e k) fun t => t = s.upd fun c => { c with st := .stalled, wait := some .alloc }) ∧
    (s.Names h → mine → calm → s.isRead here (hSlot h) = false → s.Runs (.trel e) fun t =>
      t.tileAt here (hSlot h) = { Tile.fresh with gen := slot.gen + 1 } ∧ others t ∧
      t.cx = s.cx.advance .seq ∧ s.SameOthers t ∧ s.SameBytes t) ∧
    (s.Names h → mine → calm → s.readersOf q here (hSlot h) = [] → s.isRead here (hSlot h) = true → s.writerOf here (hSlot h) = none →
      s.Runs (.trel e) fun t =>
      t.tileAt here (hSlot h) = { slot with st := .draining } ∧ others t ∧ t.cx = s.cx.advance .seq ∧ s.SameOthers t ∧ s.SameBytes t) ∧
    (s.Names h → ¬mine → s.Traps (.trel e) 0x103 (h.setWidth 64)) ∧
    (h.getLsbD 31 = false → s.Traps (.trel e) 0x100 (e.setWidth 64) ∧ s.Runs (.tstat e a) (s.GivesX a 0)) ∧
    (h.getLsbD 31 = true → ¬s.Names h → s.Traps (.trel e) 0x101 (h.setWidth 64) ∧
      s.Runs (.tstat e a) (s.GivesX a (BitVec.ofNat 64 (h.toNat + 2 ^ 32 * state + 2 ^ 34)))) ∧
    (s.Names h → slot.bank < 16 → slot.off < 256 → s.Runs (.tstat e a) (s.GivesX a (BitVec.ofNat 64 (h.toNat +
      2 ^ 32 * state +
      (if s.cx.record ≠ 0 ∧ slot.owner = s.cx.record then 2 ^ 35 else 0) + 2 ^ 36 * slot.mask.toNat + 2 ^ 52 * slot.bank +
      2 ^ 56 * slot.off)))) ∧
    (closed → s.Traps (.bankfmt a k) 0x107 15) ∧
    (¬closed → ¬legal → ∀ w, encode (.bankfmt a k) = some w → s.Traps (.bankfmt a k) 0x108 (w.setWidth 64)) ∧
    (¬closed → legal → busy → s.Traps (.bankfmt a k) 0x106 (k.setWidth 64)) ∧
    (¬closed → legal → ¬busy → exec (.bankfmt a k) s =
      .next ((s.updCrew q fun c => { c with bfmt := mput c.bfmt k.toNat v }).upd fun c => c.advance .seq))

/-- R237, R238, R243, R248, R249, R253–R264: the instructions that record a node, with a place for it in the table: the inputs
usable, the index tiles of their gathers too (R347), the output an EMPTY slot of the task, and their own checks passed.
Model's choices: log 43, 107, 108, 109. -/
def Obligations.NodeRecording : Prop :=
  ∀ (s : State) (e a b : BitVec 4) (x : BitVec 6) (c : BitVec 1) (o : BitVec 5) (g : BitVec 1) (p y : BitVec 2) (j : Nat),
    let base := tileBase (s.X x) s.cx.tsh
    let w := windowOf s.cx.tsh base
    let t3 := (s.cx.getTsh 3).toNat
    let acc : BitVec 4 := (s.cx.getTsh 3).extractLsb' 0 4
    let legal3 := t3 / 4096 = 0 ∧ t3 / 16 % 16 = 0
    let ins := if c = 1 then [(0, a), (1, b), (2, acc)] else [(0, a), (1, b)]
    let scaled := fun (r : BitVec 4) => (s.bankOf r).toNat / 16 % 4 ≠ 0
    let whole := ∀ r ∈ [a, b], scaled r → (s.cx.mapOf r).rowPreserving = true
    let bi := (s.bankOf b).toNat
    let ready := fun (ins : List (Nat × BitVec 4)) =>
      s.Output (s.cx.getT e) ∧ s.NodeRoom j ∧ ∀ q ∈ ins, s.Names (s.cx.getT q.2) ∧ s.Usable (s.cx.getT q.2) ∧
        ((s.cx.mapOf q.2).kind = 5 → s.Names (s.cx.mapOf q.2).index ∧ s.Usable (s.cx.mapOf q.2).index)
    let records := fun (i : Instr) (ins : List (Nat × BitVec 4)) => i.wellFormed = true → ready ins → s.Runs i (s.Records i e ins 0 none j)
    (ready [] → s.checkWindow base true false = none →
      ((s.crewAt s.cur.crew).nodes.filter fun p => p.2.range.isSome).length < 256 →
      s.Runs (.tload e x) (s.Records (.tload e x) e [] (s.X x) (some w.range) j)) ∧
    ((c = 1 → legal3) → whole → records (.tmm e a b c) ins) ∧
    (legal3 → (c = 0 → 5 ≤ t3 / 256 ∧ t3 / 256 ≤ 8) → whole → records (.tmmx e a b c) ins) ∧
    (o.toNat < 5 → records (.tew e a b o) [(0, a), (1, b)]) ∧
    (5 ≤ o.toNat → records (.tew e a b o) [(0, a)]) ∧
    records (.tred e a g p) [(0, a)] ∧ records (.tcvt e a) [(0, a)] ∧ records (.ttrans e a) [(0, a)] ∧
    (11 ≤ bi % 16 → bi / 16 % 4 = 0 → records (.tgath e a b) [(0, a), (1, b)]) ∧
    ((s.bankOf e).toNat / 16 % 4 = y.toNat → records (.tqnt e a y) [(0, a)])

/-- R25, R235, R237, R238, R245, R254, R255, R313, R330, R331, R336: the checks of a recording instruction on its output, in their order,
of a stale index tile, and its wait for an input that is not usable; `SHPLD`; `TFORCE` of a READY slot; `TSTORE` of a READY slot, whose
write-out is queued with the lines of its window and counted. Of a FILLING slot that the task's own node writes, read through an ID map,
both demand the sub-tiles that meet their region: the lowest one the node has not computed is in EVAL, its first step is an event, and
the context waits for it; with none missing `TFORCE` goes on. The node's output is unscaled and its inputs are READY, no step of it is
under way, and it is the context's turn.
Model's choices: log 43, 46, 48, 108, 124. -/
def Obligations.TileDemands : Prop :=
  ∀ (s s1 : State) (e a b : BitVec 4) (x y : BitVec 6) (k : BitVec 3) (ps : List Piece) (j : Nat) (n : Node),
    let h := s.cx.getT e
    let slot := s.slotNamed s.cur.crew h
    let q := s.cur.crew
    let base := tileBase (s.X x) s.cx.tsh
    let w := windowOf s.cx.tsh base
    let view := s.view q h (s.cx.mapOf e)
    let out := view.intoWindow w s.cx.k4
    let region := s.X x &&& ~~~0x3F3F = 0 ∧ s.X y &&& ~~~0x7F7F = 0 ∧ 0 < (s.X y).toNat % 128 ∧ 0 < (s.X y).toNat / 256 ∧
      (s.X x).toNat % 256 + (s.X y).toNat % 256 ≤ 64 ∧ (s.X x).toNat / 256 + (s.X y).toNat / 256 ≤ 64
    let shapes := match s.slotOf s.cx.launchId with | some i => (s.slotAt i).image / 256 ^ 0x1D % 256 | none => 0
    let records : List Instr := [.tload e x, .tcvt e a, .ttrans e a, .tew e a b 0, .tmm e a b 0, .tgath e a b]
    let index := (s.cx.mapOf a).index
    let unmapped := (s.cx.mapOf e).kind ≠ 5
    let idle := ∀ p ∈ (s.crewAt q).nodes, ∀ f, (s.cur, f) ∉ p.2.evaluators
    let isReady := fun (g : BitVec 32) => (s.slotNamed q g).st = .ready
    let pending := slot.st = .filling ∧ ownerCrew q h = q ∧ (s.cx.mapOf e).kind = 0 ∧ s.writerOf q (hSlot h) = some (j, n) ∧
      s.nodeAt? q j = some n ∧ n.record = s.cx.record ∧ n.step = 0 ∧ n.st = .live ∧ n.aborted = false ∧
      (s.bankFmt q (s.tileAt q (hSlot n.out)).bank).toNat / 16 % 4 = 0 ∧
      ∀ i ∈ n.ins, isReady i.2.handle ∧ (i.2.map.kind = 5 → isReady i.2.map.index)
    let meets := fun (r0 nr c0 nc t : Nat) => t < 16 ∧ 16 * (t / 4) < r0 + nr ∧ r0 < 16 * (t / 4) + 16 ∧ 16 * (t % 4) < c0 + nc ∧
      c0 < 16 * (t % 4) + 16
    let event := match n.op with
      | .tload => Instr.tloadBeat q j
      | .tmm _ | .tmmx _ => .sweepPass q j
      | _ => .lanePass q j
    let demands := fun (i : Instr) (r0 nr c0 nc : Nat) => ∀ t, meets r0 nr c0 nc t → n.mask.getLsbD t = false →
      (∀ t', t' < t → meets r0 nr c0 nc t' → n.mask.getLsbD t' = true) → s.nextServed = s.cur.n → s.cx.cancelled = false →
      s.Runs i fun u => u.cx = { s.cx with st := .stalled, wait := some .step } ∧ u.events = s.events ++ [event] ∧
        (∃ m, u.nodeAt? q j = some m ∧ m.st = .eval ∧ m.sub = t ∧ m.step = 0 ∧ m.mask = n.mask ∧ m.out = n.out ∧ m.word = n.word ∧
          m.ins = n.ins ∧ m.demand = some s.cur) ∧
        (∀ i, i ≠ j → u.nodeAt? q i = s.nodeAt? q i) ∧ (∀ c i, u.tileAt c i = s.tileAt c i) ∧ s.SameOthers u ∧ s.SameBytes u
    (∀ i ∈ records,
      (h.getLsbD 31 = false → s.Traps i 0x100 (e.setWidth 64)) ∧
      (h.getLsbD 31 = true → ¬s.Names h → s.Traps i 0x101 (h.setWidth 64)) ∧
      (s.Names h → ownerCrew q h ≠ q → s.Traps i 0x105 (h.setWidth 64)) ∧
      (s.Names h → ownerCrew q h = q → ¬(s.cx.record ≠ 0 ∧ slot.owner = s.cx.record) → s.Traps i 0x103 (h.setWidth 64)) ∧
      (s.Names h → ownerCrew q h = q → s.cx.record ≠ 0 → slot.owner = s.cx.record → slot.st ≠ .empty → s.Traps i 0x104 (h.setWidth 64))) ∧
    (s.Output h → s.Names (s.cx.getT a) → ¬s.Usable (s.cx.getT a) → s.cx.cancelled = false →
      s.Runs (.tcvt e a) fun t => t = s.upd fun c =>
        { c with st := .stalled, wait := some (.slot (ownerCrew q (s.cx.getT a)) (hSlot (s.cx.getT a))) }) ∧
    (s.Output h → s.Names (s.cx.getT a) → (s.cx.mapOf a).kind = 5 → index.getLsbD 31 = true → ¬s.Names index →
      s.Traps (.tcvt e a) 0x101 (index.setWidth 64)) ∧
    (shapes ≤ k.toNat → s.Traps (.shpld k) 0x10D (k.setWidth 64)) ∧
    (k.toNat < shapes → ∀ t0 t1 t2 t4, shapeOf (s.bankRead q (64 * k.toNat) 64) s.cx.coord.toNat = some (t0, t1, t2, t4) →
      s.Becomes (.shpld k) fun c => (((c.setTsh 0 t0).setTsh 1 t1).setTsh 2 t2).setTsh 4 t4) ∧
    (k.toNat < shapes → shapeOf (s.bankRead q (64 * k.toNat) 64) s.cx.coord.toNat = none → s.Traps (.shpld k) 0x10A (k.setWidth 64)) ∧
    (s.Names h → unmapped → ¬region → s.Traps (.tforce e x y) 0x10A 0x100) ∧
    (s.Names h → unmapped → region → slot.st = .ready → idle → s.Becomes (.tforce e x y) id) ∧
    (s.Names h → region → pending → idle →
      let r0 := (s.X x).toNat % 64
      let c0 := (s.X x).toNat / 256
      let nr := (s.X y).toNat % 128
      let nc := (s.X y).toNat / 256
      demands (.tforce e x y) r0 nr c0 nc ∧
      ((∀ t, meets r0 nr c0 nc t → n.mask.getLsbD t = true) → s.Becomes (.tforce e x y) id)) ∧
    (s.Names h → pending → s.checkWindow base true true = none → demands (.tstore e x) 0 w.rows 0 w.cols) ∧
    (s.Names h → slot.st = .ready → s.checkWindow base true true = none → (s.crewAt q).nodes = [] → unmapped →
      view.windowPoison (List.range w.rows) (List.range w.cols) = none →
      s.translatePieces (.tstore e x) q (s.cx.depth != 0) (w.pieces out.1) = .ok (ps, s1) →
      exec (.tstore e x) s = .next (((s1.updCrew q fun c => { c with
        writeOuts := c.writeOuts ++ [{ ctx := s.cur, record := s.cx.record, pc := s.pc, pieces := ps, flags := out.2 }] }).upd fun c =>
          { c with cnt := { c.cnt with demands := c.cnt.demands + 1 } }.advance .seq).push (.writeOutLine q)))

/-! Tasks, records and queues (R36–R50, R276–R285, R316–R323). -/

/-- R40, R282–R285: the task instructions that act on records and levels. Without a task they trap with bad-target, but for `YIELD`
and `DONE`, which go on. `SIGNAL`, once every store of its context is counted, takes 1 off JOIN of a live record of the launch, reports a JOIN that is 0, and enqueues a record that
reaches 0 and has not started or yielded; a decrement of R45 does the same, and is spilled for a crew that is swapped out (R400). `ARM` adds to JOIN. `CANCEL` marks every live launch of the
unit it names and has the cancellation delivered to each of their records; a unit out of its scope traps.
Model's choices: log 38, 59, 60. -/
def Obligations.RecordInstructions : Prop :=
  ∀ (s : State) (d a b : BitVec 6) (x p : Nat) (epc : Word) (src : Nat),
    let r := s.X a
    let v := (s.X b).toNat
    let j := s.recRead r 0x20 4
    let report := fun (pc : Word) => taskReport 0x13 r.toNat 0 (s.recordLaunch r) 0 pc.toNat 0
    let drops := fun (from' : Nat) (t : State) =>
      let f := t.recordFlags r
      let starts := j = 1 ∧ f / 32 % 2 = 0 ∧ (f / 4 % 2 = 0 ∨ (s.homeOfRecord r).yielded = true)
      s.Written p 4 (j - 1) t ∧
        (starts → ∃ k prio, t.events = s.events ++ [.recordEnqueue k r prio from'] ∨
          t.events = s.events ++ [.messageSpill k (.enqueue r prio from')]) ∧
        (¬starts → t.events = s.events)
    let mine := s.slotAt x
    let marks := fun (sel : Slot → Prop) (t : State) =>
      t.cx = s.cx.advance .seq ∧ s.SameOthers t ∧
      ∀ i < 16, ((t.slotAt i).cancelled = true ↔ ((s.slotAt i).cancelled = true ∨ ((s.slotAt i).live? = true ∧ sel (s.slotAt i)))) ∧
        ((s.slotAt i).live? = true → sel (s.slotAt i) → (s.slotAt i).cancelled = false → (s.slotAt i).state ≠ 1 →
          ∀ k ∈ (s.slotAt i).taken, Instr.cancelDelivery (BitVec.ofNat 64 ((s.slotAt i).pool + 192 * k)) ∈ t.events)
    (s.cx.hasTask = false →
      (∀ i ∈ [Instr.spawn d a b, .spawnr d a b, .signal a, .arm a b, .cancelLaunch a, .cancelGraph a, .cancelPhase a, .cancelJob a],
        s.Traps i 0x143 0) ∧
      (∀ i ∈ [Instr.yield a, .done], s.Becomes i Ctx.drainVec)) ∧
    (∀ k, s.swappedFor r = some k →
      exec (.joinCountDecrement r epc src) s = .next (s.push (.messageSpill k (.decrement r epc src)))) ∧
    (s.swappedFor r = none → j = 0 → s.Runs (.joinCountDecrement r epc src) fun t => t = s.post (report epc)) ∧
    (s.swappedFor r = none → s.hwPa (r + 0x20) = some p → s.Simple p 4 → j ≠ 0 → s.Runs (.joinCountDecrement r epc src) fun t =>
      drops src t ∧ ∀ i, t.ctxAt i = s.ctxAt i) ∧
    (s.cx.hasTask = true → s.slotOf s.cx.launchId = some x →
      (¬s.LiveRecord x r → s.Traps (.signal a) 0x143 r ∧ (r ≠ s.cx.record → s.Traps (.arm a b) 0x143 r)) ∧
      (s.LiveRecord x r → s.cx.settled = false → s.cx.cancelled = false → s.Waits (.signal a) .settled) ∧
      (s.LiveRecord x r → s.cx.settled = true →
        (j = 0 → exec (.signal a) s = .next ((s.post (report s.cx.trap.tepc)).upd fun c => c.advance .seq)) ∧
        (s.hwPa (r + 0x20) = some p → s.Simple p 4 → j ≠ 0 → s.Runs (.signal a) fun t =>
          drops 32 t ∧ t.cx = s.cx.advance .seq ∧ s.SameOthers t)) ∧
      (s.LiveRecord x r ∨ r = s.cx.record →
        (2 ^ 32 ≤ j + v → s.Traps (.arm a b) 0x145 r) ∧
        (j + v < 2 ^ 32 → r ≠ s.cx.record → s.recordFlags r / 4 % 2 = 0 → j = 0 → s.Traps (.arm a b) 0x144 r) ∧
        (j + v < 2 ^ 32 → (r = s.cx.record ∨ s.recordFlags r / 4 % 2 = 1 ∨ j ≠ 0) → s.hwPa (r + 0x20) = some p → s.Simple p 4 →
          s.Runs (.arm a b) fun t => s.Written p 4 (j + v) t ∧ t.cx = s.cx.advance .seq ∧ s.SameOthers t)) ∧
      (2 ^ 32 ≤ r.toNat → s.Traps (.cancelLaunch a) 0x146 r ∧ s.Traps (.cancelJob a) 0x146 r) ∧
      (2 ^ 16 ≤ r.toNat → s.Traps (.cancelGraph a) 0x146 r ∧ s.Traps (.cancelPhase a) 0x146 r) ∧
      (r.toNat ≠ mine.job → s.Traps (.cancelJob a) 0x146 r) ∧
      (∀ i, s.slotOf r.toNat = some i → (s.slotAt i).job ≠ mine.job → s.Traps (.cancelLaunch a) 0x146 r) ∧
      (risingFrom 0 s.slots = true →
        (r.toNat < 2 ^ 32 → (∀ i, s.slotOf r.toNat = some i → (s.slotAt i).job = mine.job) →
          s.Runs (.cancelLaunch a) (marks fun y => y.launch = r.toNat)) ∧
        (r.toNat < 2 ^ 16 → s.Runs (.cancelGraph a) (marks fun y => y.job = mine.job ∧ y.phase = mine.phase ∧ y.graph = r.toNat)) ∧
        (r.toNat < 2 ^ 16 → s.Runs (.cancelPhase a) (marks fun y => y.job = mine.job ∧ y.phase = r.toNat)) ∧
        (r.toNat = mine.job → s.Runs (.cancelJob a) (marks fun y => y.job = mine.job))))

/-- R42, R45, R277–R282, R390: the life of a task. `SPAWN` and `SPAWNR` read a descriptor on a 64-byte boundary, check it, and fill the
lowest free record of the pool from it, with JOIN ← x(b), the task's launch, and RANGE for `SPAWNR`; an empty pool, a bad descriptor
and a join-overflow trap, and so does a descriptor in a system or lattice page. `YIELD` writes its task's continuation, frees its context
and leaves its record with the crew that may take it up, enqueued when its JOIN is 0; but not in an active loop. `DONE` waits for the
task's engines and stores; then it counts the task as retired and frees the context, with a report of the fault in system mode; it sets
RETIRED, and FAULTED there, in the record, and takes 1 off JOIN of PARENT and of SUCC. For what is said of a record's bytes, no line
or answer is awaited, and the launch's status and its counter line lie elsewhere, the latter unwatched and unlogged.
Model's choices: log 30, 55, 130. -/
def Obligations.TaskLife : Prop :=
  ∀ (s s1 s2 : State) (d a b : BitVec 6) (x v : Nat) (r : Word),
    let z := s.upd Ctx.drainVec
    let join := (s.X b).toNat
    let slot := s.slotAt x
    let pairs : List (Instr × Bool) := [(.spawn d a b, false), (.spawnr d a b, true)]
    let counter := BitVec.ofNat 64 (slot.field 0x68 8)
    s.cx.hasTask = true → s.slotOf s.cx.launchId = some x →
    (∀ i ∈ pairs, (s.X a).toNat % 64 ≠ 0 → s.Traps i.1 0x141 (s.X a)) ∧
    (∀ i ∈ pairs, ∀ leaf, (s.X a).toNat % 64 = 0 → s.leafAt s.cur.crew .load (s.X a) = .ok (leaf, s1) → leaf.kind = 1 ∨ leaf.kind = 2 →
      exec i.1 s = .next (s1.enterTrap s.cur 0x141 (s.X a) s.pc 0 false)) ∧
    (∀ i ∈ pairs, (s.X a).toNat % 64 = 0 → s.readDescriptor i.1 (s.X a) [0, 64, 128] = .ok v s1 →
      s1.slotOf s.cx.launchId = some x →
      (s1.badDescriptor v x i.2 = true → exec i.1 s = .next (s1.enterTrap s1.cur 0x141 (s.X a) s1.pc 0 false)) ∧
      (s1.badDescriptor v x i.2 = false →
        (2 ^ 32 ≤ join → exec i.1 s = .next (s1.enterTrap s1.cur 0x145 0 s1.pc 0 false)) ∧
        (join < 2 ^ 32 →
          (s1.freeRecords x = [] → exec i.1 s = .next (s1.enterTrap s1.cur 0x142 0 s1.pc 0 false)) ∧
          (s1.takeRecord x = some (r, s2) → s1.cx.drained = true → (join ≠ 0 ∨ s1.queueFull (s1.spawnCrew v) = false) →
            (s1.slotAt x).cancelled = false →
            let made := (s2.putRecord r (recordFrom v join s.cx.launchId i.2.toNat)).setHome r
              { crew := s.cur.crew, yielded := false, waits := false, serial := 0 }
            exec i.1 s = .next (((if join = 0 then made.enqueue r s.cur.crew s.cur.n else made).setX d r).upd fun c => c.advance .seq) ∧
            (∃ k ∈ s1.freeRecords x, (∀ m ∈ s1.freeRecords x, k ≤ m) ∧ r = BitVec.ofNat 64 ((s1.slotAt x).pool + 192 * k)))))) ∧
    (∀ j l f, v < 256 ^ 192 → j < 2 ^ 32 → l < 2 ^ 32 → f < 2 ^ 16 →
      let w := recordFrom v j l f
      dfield w 0 32 = dfield v 0 32 ∧ dfield w 0x20 4 = j ∧ dfield w 0x24 4 = l ∧ dfield w 0x28 6 = dfield v 0x20 6 ∧
      dfield w 0x2E 2 = f ∧ dfield w 0x30 6 = dfield v 0x26 6 ∧ dfield w 0x36 2 = dfield v 0x2C 2 ∧ dfield w 0x38 2 = dfield v 0x2E 2 ∧
      dfield w 0x3A 1 = dfield v 0x30 1 ∧ dfield w 0x3B 1 = dfield v 0x31 1 ||| 1 ∧ dfield w 0x3C 4 = 0 ∧
      dfield w 0x40 128 = dfield v 0x40 128) ∧
    (s.cx.l0.lc ≠ 0 ∨ s.cx.l1.lc ≠ 0 → ∀ w, encode (.yield a) = some w →
      exec (.yield a) s = .next (z.enterTrap z.cur 0x140 (w.setWidth 64) z.pc 0 false)) ∧
    (s.cx.l0.lc = 0 → s.cx.l1.lc = 0 → s.cx.cancelled = false → s.cx.drained = true → s.writesOut s.cx.record = false →
      splitsOn (s.crewAt s.cur.crew).splitctl = false → s.holdsTiles s.cur = false → s.AwaitsNothing s.cur → s.Runs (.yield a) fun t =>
        s.Freed s.cur t ∧ s.SameOthers t ∧
        t.homeOfRecord s.cx.record = {
          crew := s.cur.crew, yielded := (t.homeOfRecord s.cx.record).yielded, waits := false, serial := s.cx.serial } ∧
        ∀ q, s.RecordsAt [(s.cx.record, q)] →
          s.Continues q (if s.cx.depth = 0 then s.pc + 4 else s.cx.trap.tepc) ((s.X a).setWidth 16) 0 false t ∧ s.SameBytesOff t [q] ∧
          (t.homeOfRecord s.cx.record).yielded = decide (s.readPa (q + 0x20) 4 ≠ 0) ∧
          (s.readPa (q + 0x20) 4 = 0 → ∃ k prio, .recordEnqueue k s.cx.record prio s.cur.n ∈ t.events ∨
            .messageSpill k (.enqueue s.cx.record prio s.cur.n) ∈ t.events)) ∧
    (z.enginesBusy = true → exec .done s = .next (z.upd fun c => { c with st := .stalled, wait := some .engines })) ∧
    (z.enginesBusy = false → s.cx.drained = false →
      exec .done s = .next (z.upd fun c => { c with st := .stalled, wait := some .stores })) ∧
    (z.enginesBusy = false → s.cx.drained = true → splitsOn (s.crewAt s.cur.crew).splitctl = false →
      s.recordLaunch s.cx.record = s.cx.launchId → slot.recordIndex s.cx.record ≠ none → s.Runs .done fun t =>
        s.Freed s.cur t ∧ (t.slotAt x).retired = slot.retired + 1 ∧
        (s.cx.depth ≠ 0 → ∃ q ∈ t.posts, q.kind = 0x11 ∧ q.addr = s.cx.record.toNat ∧ q.launch = s.cx.launch.toNat ∧
          q.pc = s.cx.trap.tepc.toNat) ∧
        ∀ q l, s.RecordsAt [(s.cx.record, q)] → s.AwaitsNothing s.cur → s.hwPlace counter = .device (128 * l) → s.Steady [q] counter →
          (∀ o < 192, lineOf (q + o) ≠ l ∧ lineOf (q + o) ≠ lineOf (s.windowBase + 0x1000 + 16 * x)) → (∀ w ∈ s.watches, w.line ≠ l) →
          splitsJoins (s.crewAt (loggingCrew (homeOf l))).splitctl = false →
          t.Holds (q + 0x2E) 2 (s.readPa (q + 0x2E) 2 ||| if s.cx.depth = 0 then 0x20 else 0x60) ∧
          ∀ o ∈ [0x10, 0x18], s.readPa (q + o) 8 ≠ 0 →
            .joinCountDecrement (BitVec.ofNat 64 (s.readPa (q + o) 8)) s.cx.trap.tepc 32 ∈ t.events)

/-- R39–R41, R48, R316, R322: records and contexts. A good record that arrives at a crew takes its place in the queue's order, and a
FREE context is offered work; a bad one is reported; one that is retired is left alone. A FREE context takes the first entry whose
launch runs and starts with the registers of R21 and R41, the code of a WAKE and the tile state of a pinned continuation among them
(R44); STARTED is set and WAKE cleared. Of a range record it takes the first coordinate on a record of its own; slabs and rows split off
stand directly behind the head, and the head keeps the rest of its row or goes back to the pool (R318). A cancellation ends the wait of a task stalled in task mode or blocked,
which leaves its context when its stores and joins have drained, and reaches any other running task as a mark. A task whose write found its code shadow full is reported and retired (R361).
Model's choices: log 57, 64. -/
def Obligations.RecordEvents : Prop :=
  ∀ (s : State) (k n x : Nat) (r va pc : Word) (prio src : Nat) (i : CtxId) (e : Entry) (rest : List Entry),
    let f := s.recordFlags r
    let queue := (s.crewAt k).queue
    let good := s.badRecord r = false ∧ s.queueFor r k ≠ none ∧ f / 8 % 2 = 0 ∧ s.launchCancelled r = false
    let entry : Entry := { record := r, ecycle := s.cycle k % 2 ^ 56, prio := prio, src := src }
    let word := fun (o m : Nat) => s.recRead e.record o m
    let live := word 0x36 2
    let slotValue := fun (j : Nat) => if live.testBit j then BitVec.ofNat 64 (word (0x40 + 8 * j) 8) else 0#64
    let wake := word 0x3C 2
    let woken := fun (j : Nat) (v : Word) => if wake / 512 % 2 = 1 ∧ wake % 64 = j then BitVec.ofNat 64 (wake / 64 % 8) else v
    let flags := s.recordFlags e.record
    let pinned := flags / 2 % 2 = 1 ∧ flags / 4 % 2 = 1
    let saved := fun (o m : Nat) => (s.crewAt k).sysbank.readN (0x1000 + 128 * (word 0x3E 2 % 64) + o) m
    let takes := s.freeCtx k = some n ∧ s.runs (s.recordLaunch e.record) = true ∧ queue.entries = e :: rest ∧ queue.waiting = [] ∧
      s.slotOf (s.recordLaunch e.record) = some x ∧ s.badRecord e.record = false ∧ flags / 8 % 2 = 0 ∧
      s.launchCancelled e.record = false ∧ splitsOn (s.crewAt k).splitctl = false
    let me : CtxId := { crew := k, n := n }
    let box := s.boxOf e.record
    let offs := (if box.z0 < box.z1 then [{ box with z0 := box.z0 + 1 }] else []) ++
      (if box.y0 < box.y1 then [{ box with z1 := box.z0, y0 := box.y0 + 1 }] else [])
    let pool := fun (j : Nat) => BitVec.ofNat 64 ((s.slotAt x).pool + 192 * (s.freeRecords x).getD j 0)
    let behind := ((List.range offs.length).reverse.map fun j => { e with record := pool j })
    let waits := fun (c : Ctx) => c.st = .blocked ∨ (c.st = .stalled ∧ c.depth = 0 ∧ ∃ w, c.wait = some w ∧ w.cancellable = true)
    ((s.crewAt k).away = true → s.Runs (.recordEnqueue k r prio src) fun t => t = s.push (.messageSpill k (.enqueue r prio src))) ∧
    ((s.crewAt k).away = false → f / 32 % 2 = 1 → s.Runs (.recordEnqueue k r prio src) fun t => t = s) ∧
    ((s.crewAt k).away = false → f / 32 % 2 = 0 → s.badRecord r = true → s.Runs (.recordEnqueue k r prio src) fun t =>
      taskReport 0x12 r.toNat 0 (s.recordLaunch r) 0 0 0 ∈ t.posts) ∧
    ((s.crewAt k).away = false → f / 32 % 2 = 0 → good → queue.entries.length < 64 → queue.deep = false →
      s.Runs (.recordEnqueue k r prio src) fun t => (∃ before' after',
        queue.entries = before' ++ after' ∧ (t.crewAt k).queue.entries = before' ++ entry :: after' ∧
        (∀ q ∈ before', entry.before false q = false) ∧ (∀ q ∈ after'.head?, entry.before false q = true)) ∧
        .contextTakesRecord k ∈ t.events ∧ s.SameBytes t ∧ ∀ j, t.ctxAt j = s.ctxAt j) ∧
    (s.freeCtx k = none → s.Runs (.contextTakesRecord k) fun t => t = s) ∧
    (takes → flags % 2 = 0 → queue.entries.length ≤ 65 → s.Runs (.contextTakesRecord k) fun t =>
        let c := t.ctxAt me
        c.st = .active ∧ c.pc = BitVec.ofNat 64 (word 0 8) ∧ c.record = e.record ∧
        c.launch = BitVec.ofNat 32 (s.recordLaunch e.record) ∧ c.coord = BitVec.ofNat 64 (word 0x28 6) ∧
        c.getX 1 = woken 1 (slotValue 15) ∧ c.getX 2 = woken 2 (BitVec.ofNat 64 (word 8 8)) ∧ c.getX 3 = woken 3 e.record ∧
        (∀ j < 15, c.getX (BitVec.ofNat 6 (4 + j)) = woken (4 + j) (slotValue j)) ∧
        (∀ j : BitVec 6, 18 < j.toNat → c.getX j = woken j.toNat 0) ∧
        (∀ j : BitVec 3, j ≠ 0 → c.getP j = (word 0x3B 1).testBit j.toNat) ∧ c.v = Ctx.fresh.v ∧ c.fp = Ctx.fresh.fp ∧
        c.trap = Ctx.fresh.trap ∧
        c.serial = (if flags / 4 % 2 = 1 then (s.homeOfRecord e.record).serial else BitVec.ofNat 32 (s.slotAt x).serial) ∧
        (∀ j : BitVec 4, c.getT j = if pinned then BitVec.ofNat 32 (saved (4 * j.toNat) 4) else 0) ∧
        (∀ j : BitVec 3, c.getTsh j = if pinned then BitVec.ofNat 64 (saved (64 + 8 * j.toNat) 8) else 0) ∧
        (pinned → word 0x3E 2 % 64 ∉ (t.crewAt k).pins) ∧
        (∀ q ∈ (t.crewAt k).queue.entries, q.record ≠ e.record) ∧ (∀ j, j ≠ me → t.ctxAt j = s.ctxAt j) ∧
        ∀ q, s.RecordsAt [(e.record, q)] →
          t.Holds (q + 0x3C) 2 0 ∧ t.Holds (q + 0x2E) 2 (flags &&& 0xFFEF ||| 4) ∧ s.SameBytesOff t [q]) ∧
    (∀ q : Nat → Nat, takes → flags % 8 = 1 → queue.deep = false → (∀ o ∈ rest, o.record ≠ e.record) → queue.entries.length + 2 ≤ 64 → offs.length < (s.freeRecords x).length →
      s.RecordsAt ((e.record, q 0) :: (List.range (offs.length + 1)).map fun j => (pool j, q (j + 1))) →
      s.Runs (.contextTakesRecord k) fun t =>
        let c := t.ctxAt me
        c.st = .active ∧ c.pc = BitVec.ofNat 64 (word 0 8) ∧ c.record = pool offs.length ∧
        c.coord = BitVec.ofNat 64 (box.x0 + 2 ^ 16 * box.y0 + 2 ^ 32 * box.z0) ∧
        (∀ j < offs.length, some (t.boxOf (pool j)) = offs[j]?) ∧
        (box.x0 = box.x1 → (t.crewAt k).queue.entries = behind ++ rest ∧ ∀ w, (s.slotAt x).recordIndex e.record = some w →
          w ∉ (t.slotAt x).taken) ∧
        (box.x0 < box.x1 → (t.crewAt k).queue.entries = e :: behind ++ rest ∧
          t.boxOf e.record = { box with x0 := box.x0 + 1, y1 := box.y0, z1 := box.z0 }) ∧
        ∀ j, j ≠ me → t.ctxAt j = s.ctxAt j) ∧
    (s.runner r = some i →
      ((s.crewAt i.crew).away = false → waits (s.ctxAt i) → (s.ctxAt i).drained = true → splitsOn (s.crewAt i.crew).splitctl = false →
        s.Runs (.cancelDelivery r) (s.Freed i)) ∧
      ((s.crewAt i.crew).away = false → waits (s.ctxAt i) → (s.ctxAt i).drained = false → splitsOn (s.crewAt i.crew).splitctl = false →
        s.Runs (.cancelDelivery r) fun t => (t.ctxAt i).st = .stalled ∧ (t.ctxAt i).wait = some (.retiring false) ∧
          (t.ctxAt i).record = r ∧ ∀ q, (t.ctxAt i).queues.toList.getD q CopyQueue.fresh = CopyQueue.fresh) ∧
      ((s.ctxAt i).st ≠ .blocked → (s.ctxAt i).st ≠ .stalled → s.Runs (.cancelDelivery r) fun t =>
        t = s.updCtx i fun c => { c with cancelled := true }) ∧
      (r ≠ 0 → f / 32 % 2 = 0 → (s.ctxAt i).ending = false → splitsOn (s.crewAt i.crew).splitctl = false → s.Runs (.codeShadowFullRetire r va pc) fun t =>
        s.Freed i t ∧ taskReport 0x11 r.toNat va.toNat (s.recordLaunch r) (s.serialOf r).toNat pc.toNat 0 ∈ t.posts)) ∧
    (r = 0 ∨ f / 32 % 2 = 1 → s.Runs (.codeShadowFullRetire r va pc) fun t => t = s) ∧
    ((s.ctxAt i).wait = some .pinFull → (s.crewAt i.crew).freePinEntry ≠ none → s.Runs (.parkAfterStoreEntry i) fun t =>
      t = s.updCtx i fun c => { c with wait := none, st := if c.depth = 0 then .active else .handler }) ∧
    ((s.ctxAt i).wait ≠ some .pinFull ∨ (s.crewAt i.crew).freePinEntry = none → s.Runs (.parkAfterStoreEntry i) fun t => t = s)

/-- R317, R322, R400: stealing, and messages for a crew that is swapped out. A victim sends the upper half of its first range record of
two or more coordinates that the thief may run, on a new record that is a copy but for its box, and keeps the lower half, else its last such entry, else nothing. The thief enqueues what it gets with SRC 33, or,
while it seeks work, asks its next victim, or waits 64 c. A message that finds its crew out is held in arrival order.
Model's choices: log 65, 75. -/
def Obligations.Stealing : Prop :=
  ∀ (s s1 : State) (thief victim x m : Nat) (r : Word) (prio : Nat) (e : Entry) (before' after' : List Entry) (msg : Msg) (b : Box),
    let queue := (s.crewAt victim).queue
    let may := queue.entries.filter (s.stealable thief)
    let halves := fun (q : Entry) => s.recordFlags q.record % 2 = 1 ∧ 2 ≤ (s.boxOf q.record).count
    let asked := (s.crewAt thief).queue
    let quiet := splitsOn (s.crewAt victim).splitctl = false ∧ splitsOn (s.crewAt thief).splitctl = false
    let ask := Instr.stealRequest thief victim
    let mid := fun (lo hi : Nat) => lo + (hi - lo + 1 + 1) / 2 - 1
    let seeking := s.freeCtx thief ≠ none ∧ ∀ q ∈ asked.entries, s.runs (s.recordLaunch q.record) = false
    quiet →
    ((s.crewAt victim).away = true ∨ may = [] → s.Runs ask fun t => t = s.push (.stealReply thief 0 0)) ∧
    ((s.crewAt victim).away = false → may = before' ++ e :: after' → (∀ q ∈ before', ¬halves q) → halves e →
      s.slotOf (s.recordLaunch e.record) = some x →
      (s.takeRecord x = some (r, s1) → s.Runs ask fun t => t.events = s.events ++ [.stealReply thief r e.prio] ∧
        (t.crewAt victim).queue = queue ∧ (t.slotAt x).taken = (s1.slotAt x).taken ∧
        ∀ q q', s.RecordsAt [(e.record, q), (r, q')] →
          t.boxOf e.record = (s.boxOf e.record).halve.1 ∧ t.boxOf r = (s.boxOf e.record).halve.2 ∧
          (∀ o < 192, ¬(0x28 ≤ o ∧ o < 0x2E) → ¬(0x30 ≤ o ∧ o < 0x36) →
            t.byteAt (q' + o) = s.byteAt (q + o) ∧ t.byteAt (q + o) = s.byteAt (q + o)) ∧ s.SameBytesOff t [q, q']) ∧
      (s.takeRecord x = none → queue.waiting = [] → s.Runs ask fun t => .stealReply thief e.record e.prio ∈ t.events ∧
        ∀ q ∈ (t.crewAt victim).queue.entries, q.record ≠ e.record)) ∧
    ((s.crewAt victim).away = false → may = before' ++ [e] → (∀ q ∈ may, ¬halves q) → queue.waiting = [] →
      s.Runs ask fun t => .stealReply thief e.record e.prio ∈ t.events ∧ ∀ q ∈ (t.crewAt victim).queue.entries, q.record ≠ e.record) ∧
    (r ≠ 0 → s.Runs (.stealReply thief r prio) fun t => t.events = s.events ++ [.recordEnqueue thief r prio 33] ∧
      (t.crewAt thief).queue.stealing = false ∧ (t.homeOfRecord r).crew = thief) ∧
    (¬seeking → s.Runs (.stealReply thief 0 prio) fun t => t.events = s.events ∧ t.timers = s.timers ∧
      (t.crewAt thief).queue = { asked with stealing := false, victims := [] }) ∧
    (∀ v w rest, seeking → asked.victims = v :: w :: rest → s.Runs (.stealReply thief 0 prio) fun t =>
      t.events = s.events ++ [.stealRequest thief w] ∧ (t.crewAt thief).queue.victims = w :: rest) ∧
    (seeking → asked.victims.length ≤ 1 → s.Runs (.stealReply thief 0 prio) fun t =>
      t.timers = s.timers ++ [(s.clock + 64, .stealRoundTimer thief)] ∧ t.events = s.events) ∧
    (s.Runs (.stealRoundTimer thief) fun t => t.events = s.events ++ [.contextTakesRecord thief] ∧
      (t.crewAt thief).queue = { asked with stealing := false }) ∧
    (m < 1024 → (s.crewAt m).away = true → (∀ j, msg ≠ .stealAsk j) →
      ((s.crewAt m).spill.length < 128 → s.Runs (.messageSpill m msg) fun t =>
        (t.crewAt m).spill = (s.crewAt m).spill ++ [msg] ∧ t.events = s.events) ∧
      (128 ≤ (s.crewAt m).spill.length → s.Runs (.messageSpill m msg) fun t => t = s.after 16 (.messageSpill m msg))) ∧
    (m < 1024 → (s.crewAt m).away = false → s.Runs (.messageSpill m (.enqueue r prio x)) fun t => t = s.push (.recordEnqueue m r prio x)) ∧
    (m < 1024 → s.Runs (.messageSpill m (.stealAsk thief)) fun t => t = s.push (.stealReply thief 0 0)) ∧
    (b.z0 < b.z1 → b.halve = ({ b with z1 := mid b.z0 b.z1 }, { b with z0 := mid b.z0 b.z1 + 1 })) ∧
    (b.z1 ≤ b.z0 → b.y0 < b.y1 → b.halve = ({ b with y1 := mid b.y0 b.y1 }, { b with y0 := mid b.y0 b.y1 + 1 })) ∧
    (b.z1 ≤ b.z0 → b.y1 ≤ b.y0 → b.halve = ({ b with x1 := mid b.x0 b.x1 }, { b with x0 := mid b.x0 b.x1 + 1 }))

/-! The machine's own events: interrupts, crews and counts. -/

/-- R57, R115, R144, R388, R389, R394–R396: a context takes its first pending interrupt (debug, pre-emption, splits-full) in task mode or
when it is FREE, and its first asynchronous fault (the poison of a vector load, then a halted copy queue) while it runs: the trap CSRs
and the status say so, the PC is at the handler, and no other context changes. With none pending nothing happens. The crew's registers
interrupt, unblock and resume the contexts they name, and no other. A fault that is pending is taken before an interrupt. In the boot
context it stops the context and sets BOOTFAIL. A word that is no instruction and a fetch that fails trap.
Model's choices: log 36. -/
def Obligations.Interrupts : Prop :=
  ∀ (s : State) (i : CtxId) (va : Word) (q crew reason : Nat) (m : BitVec 32) (seats : BitVec 8) (w : BitVec 32),
    let c := s.ctxAt i
    let k := s.crewAt i.crew
    let told := ∀ j < 4, (s.queueAt i j).halted = true → (s.queueAt i j).told = true
    let noted := ∀ p ∈ k.nodes, p.2.owed = none ∨ p.2.told = true ∨ p.2.record ≠ c.record
    let quiet := c.vpoison = none ∧ told ∧ noted
    let live := c.stopped = false ∧ c.boot = false
    let may := (c.st = .free ∧ (k.away = false ∨ (k.swapped = true ∧ c.pendDbg = true))) ∨ (k.away = false ∧
      ((c.st = .active ∧ c.wait = none) ∨ (c.st = .stalled ∧ c.ending = false) ∨ (c.st = .blocked ∧ c.pendDbg = true)))
    let runs := ((c.st = .active ∨ c.st = .handler) ∧ c.wait = none) ∨ (c.st = .stalled ∧ c.ending = false) ∨
      (c.st = .blocked ∧ c.pendDbg = true)
    let faults := c.stopped = false ∧ c.halted = false ∧ k.away = false ∧ runs
    let queued := c.vpoison = none ∧ q < 4 ∧ (s.queueAt i q).halted = true ∧ (s.queueAt i q).told = false ∧
      ∀ j < q, (s.queueAt i j).halted = true → (s.queueAt i j).told = true
    let cause := if (s.queueAt i q).reason = reasonPrivileged then 0x06 else 0xB0 + (s.queueAt i q).reason
    let enters := fun (cause : Nat) (tval epc : Word) (intr : Bool) (t : State) =>
      let d := t.ctxAt i
      d.st = .handler ∧ d.wait = none ∧ d.pc = k.thvec ∧ d.trap.tcause = BitVec.ofNat 64 cause ∧ d.trap.tval = tval ∧
      d.trap.tepc = epc ∧ d.trap.tdpc = 0 ∧
      d.trap.tstatus = (c.trap.tstatus &&& ~~~(0x3FF#64)) ||| ((c.trap.tstatus &&& 3#64) + 1#64) ||| (if intr then 8#64 else 0#64) ∧
      d.x = c.x ∧ d.p = c.p ∧ d.v = c.v ∧ d.t = c.t ∧ d.l0 = c.l0 ∧ d.l1 = c.l1 ∧ d.record = c.record ∧
      (s.AwaitsNothing i → ∀ j, j ≠ i → t.ctxAt j = s.ctxAt j)
    let resumes := if c.st = .free then 0 else c.pc
    let at' := fun (n : Nat) => ({ crew := crew, n := n } : CtxId)
    let unblocked := fun (x : Ctx) => if x.st = .blocked ∧ x.ublock = false then { x with st := .active, blockUntil := none } else x
    let only := fun (named : Nat → Prop) (f : Ctx → Ctx) (t : State) => ∀ j : CtxId,
      (j.crew = crew → j.n < 32 → named j.n → t.ctxAt j = f (s.ctxAt j)) ∧
      (¬(j.crew = crew ∧ j.n < 32 ∧ named j.n) → t.ctxAt j = s.ctxAt j)
    let newly := fun (n : Nat) => seats.getLsbD (n / 4) = true ∧ (s.crewAt crew).preempt.getLsbD (n / 4) = false ∧
      (s.ctxAt (at' n)).hasTask = true
    (live → quiet → c.depth = 0 → k.gated = false → may →
      (c.pendDbg = true → s.Runs (.interruptEntry i) fun t => enters 0x162 0 resumes true t ∧ (t.ctxAt i).pendDbg = false) ∧
      (c.pendDbg = false → c.pendPre = true → s.Runs (.interruptEntry i) fun t =>
        enters 0x160 0 resumes true t ∧ (t.ctxAt i).pendPre = false) ∧
      (c.pendDbg = false → c.pendPre = false → c.pendSplits = true → s.Runs (.interruptEntry i) fun t =>
        enters 0x161 ((k.splitctl.extractLsb' 16 12).setWidth 64) resumes true t ∧ (t.ctxAt i).pendSplits = false)) ∧
    (c.pending = false ∨ c.depth ≠ 0 ∨ c.st = .handler ∨ (c.st = .stalled ∧ c.ending = true) ∨ (c.st = .active ∧ c.wait ≠ none) → s.Runs (.interruptEntry i) fun t => t = s) ∧
    (live → c.depth = 0 → k.gated = false → may → c.pending = true → faults → c.vpoison ≠ none ∨ ¬told →
      exec (.interruptEntry i) s = exec (.asyncFaultDelivery i) s) ∧
    (c.boot = false → c.depth ≤ 1 → faults →
      (c.vpoison = some va → s.Runs (.asyncFaultDelivery i) fun t => enters 0x97 va c.pc false t ∧ (t.ctxAt i).vpoison = none) ∧
      (queued → s.Runs (.asyncFaultDelivery i) fun t => enters cause (s.queueAt i q).va c.pc false t ∧ (t.queueAt i q).told = true)) ∧
    (c.boot = true → faults → queued → s.Runs (.asyncFaultDelivery i) fun t => (t.ctxAt i).stopped = true ∧
      (t.ctxAt i).trap.tcause = BitVec.ofNat 64 cause ∧ (s.pkg.fields.booted = false → t.pkg.fields.bootfail = true)) ∧
    (quiet ∨ c.stopped = true ∨ c.halted = true ∨ k.away = true → s.Runs (.asyncFaultDelivery i) fun t => t = s) ∧
    (∀ e, c.blockUntil = some e → e ≤ s.clock → s.Runs (.blockTimerExpiry i) fun t =>
      t.ctxAt i = unblocked c ∧ ∀ j, j ≠ i → t.ctxAt j = s.ctxAt j) ∧
    ((∀ e, c.blockUntil = some e → s.clock < e) → s.Runs (.blockTimerExpiry i) fun t => t = s) ∧
    (crew < 1024 →
      s.Runs (.releaseWrite crew m) (only (fun n => m.getLsbD n = true) unblocked) ∧
      s.Runs (.debugResume crew m) (only (fun n => m.getLsbD n = true) fun x => { x with halted := false }) ∧
      s.Runs (.debugWrite crew m) (fun t => only (fun n => m.getLsbD n = true) (fun x => { x with pendDbg := true }) t ∧
        ∀ n < 32, m.getLsbD n = true → Instr.interruptEntry (at' n) ∈ t.events) ∧
      s.Runs (.preemptWrite crew seats) (fun t => only newly (fun x => { x with pendPre := true }) t ∧ (t.crewAt crew).preempt = seats ∧
        (∀ n < 32, newly n → Instr.interruptEntry (at' n) ∈ t.events) ∧
        ((s.crewAt crew).preempt &&& ~~~seats ≠ 0 → Instr.contextTakesRecord crew ∈ t.events))) ∧
    (1024 ≤ crew → ∀ e ∈ [Instr.releaseWrite crew m, .debugResume crew m, .debugWrite crew m, .preemptWrite crew seats],
      exec e s = .fault .noSuchUnit) ∧
    (∀ cause, decode w = .error cause → s.Traps (.notAnInstruction w) cause (w.setWidth 64)) ∧
    (∀ x, decode w = .ok x → s.Runs (.notAnInstruction w) fun t => t = s) ∧
    (reason ≠ 7 → s.Traps (.instructionFetchFault reason) (0x80 + reason) s.pc) ∧
    (s.rollbackFor s.cx.launchId = none → s.Traps (.instructionFetchFault 7) 0x87 s.pc) ∧
    (∀ job, s.rollbackFor s.cx.launchId = some job → s.Runs (.instructionFetchFault 7) fun t =>
      t.events = s.events ++ [.rollbackRestart job] ∧ t.cx = { s.cx with wait := none } ∧ s.SameOthers t)

/-- R325, R327, R402, R403, R424: a crew is frozen, gated and reset, and its arrays fail. FROZEN follows the write, and pending engine
work goes on when it is cleared. A crew is gated only when its engines and contexts are idle. `CRESET` retires its tasks as faulted,
CODE 0x169, discards its contexts, nodes and tile slots and sets `CYCLE` to 0. An uncorrectable error retires the context's task, CODE
0x168, drops a clean line, poisons a dirty one, marks the elements of the failing 64-bit word, or faults the crew. A full splits
buffer interrupts the lowest FREE or ACTIVE context, and is tried again after 16 c while there is none.
Model's choices: log 39, 76, 77, 79, 130. -/
def Obligations.CrewControl : Prop :=
  ∀ (s : State) (crew n unit item h : Nat) (on : Bool) (v : Word),
    let k := s.crewAt crew
    let i : CtxId := { crew := unit, n := item }
    let c := s.ctxAt i
    let idle := k.engineWork = false ∧ ∀ p ∈ k.ctxs, p.2.st = .free
    let dirty := fun (x : Copy) => x.st = .m ∨ x.st = .o ∨ x.st = .d
    let slot := s.tileAt unit (item / 4096)
    let bits := fmtBits (bfFmt (s.bankFmt unit slot.bank))
    let word := item % 4096 * bits / 64
    let tells := fun (x : Ctx) => x.pendSplits = true ∨ x.inSplits = true
    let mask : Word := 0x00000FFF0000000F#64
    let all : List Instr := [.debugFreeze crew on, .crewPowerGating crew on, .creset crew, .frozenAbortTimeout crew, .splitsFull crew,
      .splitctlWrite crew v, .uncorrectableError .registers crew item, .uncorrectableError .scratchpad crew item,
      .uncorrectableError .crewState crew item]
    (1024 ≤ crew → ∀ e ∈ all, exec e s = .fault .noSuchUnit) ∧
    (crew < 1024 →
      s.Runs (.debugFreeze crew on) (fun t => (t.crewAt crew).frozen = on ∧ (∀ j, t.ctxAt j = s.ctxAt j) ∧
        (on = true → t.events = s.events) ∧ (on = false → k.writeOuts ≠ [] → Instr.writeOutLine crew ∈ t.events)) ∧
      s.Runs (.crewPowerGating crew false) (fun t => (t.crewAt crew).gated = false ∧ (∀ j, t.ctxAt j = s.ctxAt j) ∧
        Instr.contextTakesRecord crew ∈ t.events ∧ ∀ p ∈ k.ctxs, p.2.pending = true → Instr.interruptEntry { crew := crew, n := p.1 } ∈ t.events) ∧
      (idle → s.Runs (.crewPowerGating crew true) fun t => (t.crewAt crew).gated = true ∧ ∀ p ∈ t.copies, ∀ x ∈ p.2.l1, x.crew ≠ crew) ∧
      (¬idle → s.Runs (.crewPowerGating crew true) fun t => t = s) ∧
      s.Runs (.creset crew) (fun t => (∀ m, t.ctxAt { crew := crew, n := m } = Ctx.fresh) ∧ (t.crewAt crew).nodes = [] ∧
        (∀ p ∈ (t.crewAt crew).tiles, p.2.alloc = false) ∧ t.cycle crew = 0 ∧ (t.crewAt crew).splitctl = 0 ∧
        ((s.ctxAt { crew := crew, n := n }).hasTask = true → ∃ r ∈ t.posts, r.kind = 0x11 ∧ r.code = 0x169 ∧
          r.addr = (s.ctxAt { crew := crew, n := n }).record.toNat)) ∧
      (s.pkg.transl.busy = false ∨ k.frozen = false ∨ k.cfault = true → s.Runs (.frozenAbortTimeout crew) fun t => t = s) ∧
      (s.pkg.transl.busy = true → k.frozen = true → k.cfault = false → k.writeOuts = [] → s.Runs (.frozenAbortTimeout crew) fun t =>
        ∀ p ∈ k.nodes, p.2.hits s.pkg.transl.range = true → (∀ q ∈ k.nodes, q.1 = p.1 → q = p) →
          ∃ m, t.nodeAt? crew p.1 = some m ∧ m.st = .faulted ∧ m.cause = 0xBB) ∧
      (splitsFull? k.splitctl = false ∨ (∃ p ∈ k.ctxs, tells p.2) → s.Runs (.splitsFull crew) fun t => t = s) ∧
      (splitsFull? k.splitctl = true → (∀ p ∈ k.ctxs, ¬tells p.2) → n < 32 →
        (let x := k.ctxAt n; (x.st = .free ∨ x.st = .active) ∧ x.stopped = false) →
        (∀ m < n, let x := k.ctxAt m; (x.st ≠ .free ∧ x.st ≠ .active) ∨ x.stopped = true) → s.Runs (.splitsFull crew) fun t =>
          t.ctxAt { crew := crew, n := n } = { s.ctxAt { crew := crew, n := n } with pendSplits := true } ∧
          t.events = s.events ++ [.interruptEntry { crew := crew, n := n }]) ∧
      (splitsFull? k.splitctl = true → (∀ p ∈ k.ctxs, ¬tells p.2) →
        (∀ m < 32, let x := k.ctxAt m; (x.st ≠ .free ∧ x.st ≠ .active) ∨ x.stopped = true) →
        s.Runs (.splitsFull crew) fun t => t = s.after 16 (.splitsFull crew)) ∧
      (k.splitsHeld = [] → s.heldJoins = [] → k.queue.deep = false → k.queue.entries.length ≤ 64 →
        s.Runs (.splitctlWrite crew v) fun t => (t.crewAt crew).splitctl = (k.splitctl &&& ~~~mask) ||| (v &&& mask) ∧
          (∀ j, t.ctxAt j = s.ctxAt j) ∧ s.SameBytes t)) ∧
    (unit < 1024 → item < 32 →
      (∀ job, s.rollbackFor c.launchId = some job → s.Runs (.uncorrectableError .registers unit item) fun t =>
        (t.ctxAt i).stopped = true ∧ Instr.rollbackRestart job ∈ t.events) ∧
      (s.rollbackFor c.launchId = none → c.hasTask = true → splitsOn (s.crewAt unit).splitctl = false →
        s.Runs (.uncorrectableError .registers unit item) fun t => s.Freed i t ∧ ∃ r ∈ t.posts, r.kind = 0x11 ∧ r.code = 0x168 ∧
          r.addr = c.record.toNat)) ∧
    (unit < 1024 →
      s.Runs (.uncorrectableError .crewState unit item) (fun t => (t.crewAt unit).cfault = true) ∧
      s.Runs (.uncorrectableError .scratchpad unit item) (fun t => h < 4096 → (h ∈ (t.tileAt unit (item / 4096)).bad ↔
        h ∈ slot.bad ∨ (h * bits / 64 ≤ word ∧ word ≤ (h * bits + bits - 1) / 64))) ∧
      s.Runs (.uncorrectableError .scratchpad (1024 + unit) item) (fun t =>
        h ∈ (t.tileAt unit (item / 4096)).bad ↔ h ∈ slot.bad ∨ h = 4096 + item % 4096) ∧
      (item < 2 ^ 49 → s.copyAt? (0x8000 + unit) item = none → s.Runs (.uncorrectableError .cleanLine (0x8000 + unit) item) fun t =>
        (t.crewAt unit).icache = mdel (s.crewAt unit).icache item ∧ ∀ x, t.copyAt? x item = (s.copyAt? x item).map fun c => c.leftBy unit)) ∧
    (unit < 4 → s.Runs (.uncorrectableError .walkCache (128 + unit) item) fun t => t = { s with walks := mdel s.walks (unit * 2 ^ 41 + item) }) ∧
    (unit < 128 →
      (∀ x, s.copyAt? unit item = some x → ¬dirty x → s.Runs (.uncorrectableError .cleanLine unit item) fun t => t = s.dropCopy unit item) ∧
      (∀ x, s.copyAt? unit item = some x → dirty x → s.Runs (.uncorrectableError .dirtyLine unit item) fun t =>
        (t.metaOf item).poison = true) ∧
      s.Runs (.uncorrectableError .walkCache unit item) (fun t => t = { s with leaves := mdel s.leaves (unit * 2 ^ 39 + item) }) ∧
      s.Runs (.uncorrectableError .sliceState unit item) (fun t => ∀ x < 256, (t.crewAt (crewOfDie (unit / 32) x)).cfault = true))

/-- R170, R196, R229, R230, R232, R379, R380: counts. A vector command that completes ORs its flags into `FPFLAGS` and leaves `OCNT`; the
homes return what they have counted 16 of, or nothing new of for 8 c: it leaves `OCNT`.STORES, and its failures go to the accumulator; a
tag closes when all its writes are counted, the homes forget it, and the fence that waits then has its answer; writes that are not
counted or acknowledged within the store timeout are resolved as timed out, and one of them that is held or still travels is discarded,
as is a read's request, whose reader has timed out; the host's acknowledgement of an instruction's last host write takes the instruction
off the counts. No other context changes.
Model's choices: log 29, 92. -/
def Obligations.CountEvents : Prop :=
  ∀ (s : State) (i : CtxId) (tag : Nat) (v : VCmd) (r : List VCmd) (o : Owed) (before' after' : List Owed),
    let c := s.ctxAt i
    let others := fun (t : State) => ∀ j, j ≠ i → t.ctxAt j = s.ctxAt j
    let due := fun (a : Arrival) => a.ctx = i ∧ (16 ≤ a.pending ∨ a.since + 8 ≤ s.clock)
    let xs := s.arrivals.filter fun a => due a
    let sum := fun (f : Arrival → Nat) => (xs.map f).sum
    let got : Failures := { lost := sum (·.fails.lost), refused := sum (·.fails.refused), poisoned := sum (·.fails.poisoned), timedout := sum (·.fails.timedout) }
    let kept : Failures := { lost := c.arrFails.lost - got.lost, refused := c.arrFails.refused - got.refused, poisoned := c.arrFails.poisoned - got.poisoned, timedout := c.arrFails.timedout - got.timedout }
    let empty := fun (a : Arrival) => { a with pending := 0, fails := .none }
    let landed : Ctx := { c with
      cnt := { c.cnt with stores := c.cnt.stores - sum Arrival.pending }, arrived := c.arrived - sum Arrival.pending
      fails := c.fails.merge got, arrFails := kept }
    let all : Ctx := { c with
      cnt := { c.cnt with stores := c.cnt.stores - c.arrived }, arrived := 0, fails := c.fails.merge c.arrFails, arrFails := .none }
    let closed := ∀ p ∈ c.tags, p.1 = c.tag ∨ p.2.sent = p.2.arrived
    let entry := mget { sent := 0, arrived := 0 } c.tags tag
    let late := fun (x : Owed) => x.since + 1750 * s.pkg.fields.sto ≤ s.clock
    let timesOut := fun (x : Owed) => x.ctx = i ∧ x.maker.code = tag ∧ late x
    let out : Failures := { o.fails with timedout := o.fails.timedout + o.parts + o.host }
    let mute := fun (x : Reply) => x.reader = 32 * i.crew + i.n ∧ x.answer = .pending ∧ x.since + 1750 * s.pkg.fields.sto ≤ s.clock
    (c.vq = v :: r → s.Runs (.vectorCommandComplete i) fun t => others t ∧ t.ctxAt i = { c with
      vq := r, fp := { c.fp with fpflags := c.fp.fpflags ||| v.flags.setWidth 64 }
      cnt := { c.cnt with loads := c.cnt.loads - (if v.isLoad then 1 else 0) } }) ∧
    (c.vq = [] → s.Runs (.vectorCommandComplete i) fun t => ∀ j, t.ctxAt j = s.ctxAt j) ∧
    (∀ e ∈ [Instr.arrivalBatch i, .arrivalBatchTimer i], s.Runs e fun t => others t ∧ t.ctxAt i = landed ∧
      t.arrivals = s.arrivals.map fun a => if due a then empty a else a) ∧
    (closed → s.Runs (.tagClose i tag) fun t => others t ∧ t.events = s.events ++ [.fenceComplete i] ∧
      (t.arrivals = s.arrivals.filter fun a => ¬(a.ctx = i ∧ a.tag ≠ c.tag)) ∧
      t.ctxAt i = { c with tags := c.tags.filter fun p => p.1 == c.tag }) ∧
    (¬closed → s.Runs (.tagClose i tag) fun t => t = s) ∧
    (c.wait = some .fence → s.Runs (.fenceComplete i) fun t => others t ∧ t.ctxAt i = { all with answer := some 0 } ∧
      t.arrivals = s.arrivals.map fun a => if a.ctx = i then empty a else a) ∧
    (c.wait ≠ some .fence → s.Runs (.fenceComplete i) fun t => t = s) ∧
    (s.owed = before' ++ o :: after' → o.ctx = i → o.maker = .store tag → late o → (∀ x ∈ before' ++ after', x.id ≠ o.id ∧ ¬timesOut x) →
      s.busyList = [] → tag < 4 → s.creditor o = some i →
      (o.tagged = true → s.rollbackFor c.launchId = none → s.Runs (.storeTimeout i tag) fun t =>
        others t ∧ t.owed = before' ++ after' ∧ (t.ctxAt i).arrived = c.arrived + 1 ∧ (t.ctxAt i).arrFails = c.arrFails.merge out ∧
        (∃ a ∈ t.arrivals, a.home = o.home ∧ a.ctx = i ∧ a.tag = tag ∧ a.pending ≠ 0) ∧
        (mget { sent := 0, arrived := 0 } (t.ctxAt i).tags tag).arrived = entry.arrived + 1 ∧ (t.ctxAt i).tag = c.tag ∧
        (t.ctxAt i).cnt = c.cnt ∧ (t.heldJoins = s.heldJoins.filter fun h => h.owed != some o.id) ∧
        t.flying = s.flying.filter fun f => f.owed != some o.id) ∧
      (o.tagged = false → s.Runs (.storeTimeout i tag) fun t => others t ∧ t.owed = before' ++ after' ∧ t.ctxAt i = { c with
        hostWrites := c.hostWrites - 1, cnt := { c.cnt with stores := c.cnt.stores - 1 }, fails := c.fails.merge out })) ∧
    s.Runs (.storeTimeout i 40) (fun t => (∀ j, t.ctxAt j = s.ctxAt j) ∧
      t.replies = s.replies.map (fun x => if mute x then { x with answer := .failed 9 } else x) ∧
      ∀ f ∈ t.flying, ¬∃ x ∈ s.replies, mute x ∧ x.id = f.id) ∧
    (tag ≠ 40 → (∀ x ∈ s.owed, x.ctx = i → x.maker.code = tag → ¬late x) → s.Runs (.storeTimeout i tag) fun t => t = s) ∧
    (s.owed = before' ++ o :: after' → (∀ x ∈ before', x.ctx = i → x.host = 0) → (∀ x ∈ before' ++ after', x.id ≠ o.id) → o.ctx = i →
      (2 ≤ o.host ∨ (o.host = 1 ∧ o.parts ≠ 0) → s.Runs (.hostWriteAck i) fun t =>
        t = { s with owed := before' ++ { o with host := o.host - 1 } :: after' }) ∧
      (o.host = 1 → o.parts = 0 → o.maker = .store tag → o.tagged = false → s.creditor o = some i → s.Runs (.hostWriteAck i) fun t =>
        others t ∧ t.owed = before' ++ after' ∧ t.ctxAt i = { c with
          hostWrites := c.hostWrites - 1, cnt := { c.cnt with stores := c.cnt.stores - 1 }, fails := c.fails.merge o.fails })) ∧
    ((∀ x ∈ s.owed, x.ctx = i → x.host = 0) → s.Runs (.hostWriteAck i) fun t => t = s)

/-- R223, R299, R302, R413–R415: the host. Without CXL and beyond device memory a host write has no effect; else it writes the enabled
bytes of an untyped line that it may write, with the line in I, and joins its bytes over the bottom of a typed line; to a lattice page
it joins and writes nothing else, so that an untyped line there takes nothing. A host read takes the bytes and changes nothing of the
part. A snoop writes the dirty copy of the line back to memory, where the line then holds its data, and drops every copy; no byte's
value changes. A write takes the bytes that are enabled and leaves the others as they are.
Model's choices: log 85, 86, 87. -/
def Obligations.HostAccess : Prop :=
  ∀ (s : State) (off n data enables half pa : Nat),
    let l := lineOf pa
    let m := s.metaOf l
    let lines := 0x7FFF * 2 ^ 41 + (64 * half - s.pkg.fields.hbase)
    let lat := latOfCode m.type.toNat
    let mask := inLine pa (s.hostMask pa n enables)
    let takes := fun (k : Nat) => enables.testBit k = true ∧ s.hostMayWrite (pa + k) = true
    let host := s.metaOf (lines / 128)
    let quiet := s.lineBusy l = false ∧ splitsJoins (s.crewAt (loggingCrew (homeOf l))).splitctl = false
    (s.pkg.fields.cxlup = false ∨ 4 * dieBytes ≤ off →
      ∀ e ∈ [Instr.hostRead off n, .hostWrite off n data enables, .hostJoin off n data enables], s.Runs e fun t => t = s) ∧
    (off < 4 * dieBytes → s.hdm off = some (s.pkg.pkgid * 2 ^ 41 + off / dieBytes * 2 ^ 39 + off % dieBytes)) ∧
    (s.pkg.fields.cxlup = true → s.hdm off = some pa → s.Runs (.hostRead off n) fun t =>
      t = { s with hostData := s.readPa pa (min n 64) }) ∧
    (s.pkg.fields.cxlup = true → s.hdm off = some pa → 0 < n → n ≤ 64 → pa % 128 + n ≤ 128 →
      (m.type = 0xF → s.Runs (.hostJoin off n data enables) fun t => t = s) ∧
      (m.type = 0xF → s.MemWf → m.poison = false →
        (pa + 64 ≤ s.windowBase ∨ s.windowBase + 0x1180 ≤ pa) →
        (s.latticePage pa = false → s.Runs (.hostWrite off n data enables) fun t =>
          (∀ k < n, (takes k → t.byteAt (pa + k) = byteOf data k) ∧ (¬takes k → t.byteAt (pa + k) = s.byteAt (pa + k))) ∧
          s.SameBytesBut t pa n ∧ ((∃ k < n, takes k) → (t.metaOf l).hstate = hsI) ∧ ∀ i, t.ctxAt i = s.ctxAt i) ∧
        (s.latticePage pa = true → s.Runs (.hostWrite off n data enables) fun t => t = s)) ∧
      (m.type ≠ 0xF → lat ≠ .fill1 → mask ≠ 0 → quiet → m.frozen = false → m.poison = false → s.MemWf →
        m.type.toNat = latCode lat → (∀ w ∈ s.watches, w.line ≠ l) → s.Runs (.hostJoin off n data enables) fun t =>
          t.latLine l = latJoin lat m.width.toNat (s.latLine l) (mergeBits (bottomLine lat m.width.toNat)
            (inLine pa (data % 256 ^ n)) mask) ∧ ∀ i, t.ctxAt i = s.ctxAt i)) ∧
    (64 * half < s.pkg.fields.hbase ∨ s.pkg.fields.hbase + 2 ^ 41 ≤ 64 * half → s.Runs (.hostSnoop half) fun t => t = s) ∧
    (s.pkg.fields.hbase ≤ 64 * half → 64 * half < s.pkg.fields.hbase + 2 ^ 41 → risingFrom 0 s.copies = true →
      s.Runs (.hostSnoop half) fun t => t.copiesOf (lines / 128) = [] ∧ (∀ i, t.ctxAt i = s.ctxAt i) ∧
        (s.MemWf → s.SameBytes t ∧ ∀ c, host.hstate = hsM ∨ host.hstate = hsO → s.copyAt? host.holder.toNat (lines / 128) = some c →
          t.memLine (lines / 128) = c.data))

/-- R371, R374–R376, R381, R404: requests at the home of an ordinary line. A read gives the agent a copy of the latest data and moves the
line I → E, E → S, M → O, the holder's copy following; a request for ownership leaves the agent the only holder, in M; a write-back of
the owner's copy puts its data in memory. None of these changes a byte. An uncached write stores its enabled bytes and leaves the line
in I with no copy; a poisoned line takes whole atoms only. A system atomic reads and writes at once. Probes share, give up or supply;
a wide error poisons the line; a walk fills the leaf cache. A reply carries a tag: a probe that names one that has not landed is held
until it lands, any other is answered at once. While the line is busy its requests wait in the slice's list of 4,096, and one
that the list refuses is sent again after 16 c. Requests of no agent fault.
Model's choices: log 14, 18, 79. -/
def Obligations.HomeRequests : Prop :=
  ∀ (s : State) (a l p n data mask slice k : Nat) (op : BitVec 3) (dbl : Bool) (cmp new va : Word) (leaf : Leaf) (kind : ProbeKind) (j : JoinMsg)
      (r : HomeRequest),
    let m := s.metaOf l
    let d := s.lineData l
    let own := s.copyAt? a l
    let id := BitVec.ofNat 15 a
    let plain := m.poison = false ∧ m.type = 0xF ∧ m.frozen = false
    let waiting := mget [] s.busyList (homeOf l)
    let refused := mget [] s.retry (homeOf l)
    let asks : List (Instr × HomeRequest) := [(.homeRead a l, .read a), (.homeWriteOwn a l, .own a), (.homeWriteBack a l, .writeBack a),
      (.lowerBoundFill a l, .fill a), (.deltaGrant a l, .grant a), (.deltaDrain a l, .drain a), (.freezeNotice a l, .notice a),
      (.freezeLine l, .freeze), (.joinAtHome l j, .join j)]
    let after' := if m.hstate = hsI then (if s.undoActs then hsS else hsE) else if m.hstate = hsE then hsS
      else if m.hstate = hsM then hsO else m.hstate
    let w := if dbl then 8 else 4
    let old := s.readPa p w
    let swapped := fun (x : Nat) => if op = 0 then new.toNat % 256 ^ w
      else if op = 1 then (if x = cmp.toNat % 256 ^ w then new.toNat % 256 ^ w else x) else (x + new.toNat) % 256 ^ w
    (isAgent a = false → ∀ e ∈ [Instr.homeRead a l, .homeWriteOwn a l, .homeWriteBack a l, .lowerBoundFill a l, .deltaGrant a l,
      .deltaDrain a l, .freezeNotice a l, .probe a l 0 kind, .fillReply a l 0], exec e s = .fault .noSuchUnit) ∧
    (isAgent a = true → s.lineBusy l = true → ∀ e ∈ asks,
      (waiting.length < 4096 → s.Runs e.1 fun t => t = { s with busyList := mput s.busyList (homeOf l) (waiting ++ [(l, e.2)]) }) ∧
      (4096 ≤ waiting.length → s.Runs e.1 fun t => t = { s with retry := mput s.retry (homeOf l) (refused ++ [(l, e.2)]) }.after 16
        (.busyRetryTimer (homeOf l)))) ∧
    (isAgent a = true → l < 2 ^ 49 → s.lineBusy l = false →
      (¬plain → ∀ e ∈ [Instr.homeRead a l, .homeWriteOwn a l], s.Runs e fun t => t = s) ∧
      (plain → s.MemWf → m.hstate.toNat ≤ 4 → s.Runs (.homeRead a l) fun t => s.SameBytes t ∧ (t.metaOf l).hstate = after' ∧
        (∃ c, t.copyAt? a l = some c ∧ c.data = d ∧ c.st = (if after' = hsE then .e else .s) ∧ c.landed = false ∧
          Instr.fillReply a l c.tag ∈ t.events) ∧
        (m.hstate = hsM → m.holder ≠ id → ∀ c, s.copyAt? m.holder.toNat l = some c →
          t.copyAt? m.holder.toNat l = some { c with st := .o }) ∧ ∀ i, t.ctxAt i = s.ctxAt i) ∧
      (plain → s.undoRunning = false → s.Runs (.homeWriteOwn a l) fun t => s.SameBytes t ∧
        t.metaOf l = { m with hstate := hsM, holder := id } ∧ (∃ c, t.copyAt? a l = some c ∧ c.data = d ∧ c.st = .m) ∧
        (∀ q ∈ t.copiesOf l, q.1 = a) ∧ ∀ i, t.ctxAt i = s.ctxAt i) ∧
      (∀ c, own = some c → m.holder = id → (m.hstate = hsM ∨ m.hstate = hsO) → s.MemWf → s.Runs (.homeWriteBack a l) fun t =>
        s.SameBytes t ∧ t.memLine l = c.data ∧ (t.metaOf l).hstate = (if m.hstate = hsM then hsI else hsS)) ∧
      (own = none ∨ m.holder ≠ id ∨ m.hstate.toNat < 3 → s.Runs (.homeWriteBack a l) fun t => t = s) ∧
      (own = none → s.Runs (.probe a l k kind) fun t => t = s) ∧
      (∀ c, own = some c → c.landed = false → c.tag = k →
        s.Runs (.probe a l k kind) (fun t => t = s.putCopy a l { c with probes := c.probes ++ [kind] }) ∧
        (c.probes = [] → s.Runs (.fillReply a l k) fun t => t = s.putCopy a l { c with landed := true, probes := [] }) ∧
        (c.probes = [kind] → exec (.fillReply a l k) s = exec (.probe a l k kind) (s.putCopy a l { c with landed := true, probes := [] }))) ∧
      (∀ c, own = some c → c.landed = true ∨ c.tag ≠ k →
        (s.Runs (.fillReply a l k) fun t => t = s) ∧
        (s.Runs (.probe a l k .share) fun t => t.copyAt? a l = some { c with
          st := if c.st = .m then .o else if c.st = .e then .s else c.st }) ∧
        (s.Runs (.probe a l k .supply) fun t => t = s) ∧
        (c.st = .s ∨ c.st = .e ∨ c.st = .f → s.Runs (.probe a l k .invalidate) fun t => t = s.dropCopy a l) ∧
        ((c.st = .m ∨ c.st = .o) → m.holder = id → (m.hstate = hsM ∨ m.hstate = hsO) → s.MemWf →
          s.Runs (.probe a l k .invalidate) fun t => s.SameBytes t ∧ t.memLine l = c.data) ∧
        (c.st ≠ .d → s.Runs (.probe a l k .freeze) fun t => t.copyAt? a l = some { c with st := .f, data := s.memLine l })) ∧
      (own = none → s.Runs (.fillReply a l k) fun t => t = s)) ∧
    (s.Runs (.homeUncachedRead l) fun t => t = s) ∧
    (lineOf p = l → s.lineBusy l = false → s.slotGuarded l = true → s.Runs (.homeUncachedWrite p n data mask) fun t => t = s) ∧
    (s.MemWf → p % 128 + n ≤ 128 → lineOf p = l → s.lineBusy l = false → s.slotGuarded l = false → m.poison = false → s.undoRegion = none →
      s.Runs (.homeUncachedWrite p n data mask) fun t => s.SameBytesBut t p n ∧
        (∀ j < n, t.byteAt (p + j) = (s.byteAt (p + j) &&& ~~~byteOf mask j) ||| (byteOf data j &&& byteOf mask j)) ∧
        t.metaOf l = { m with hstate := hsI, holder := 0 } ∧ t.copiesOf l = [] ∧ ∀ i, t.ctxAt i = s.ctxAt i) ∧
    (s.MemWf → p % 128 + n ≤ 128 → 0 < n → n < 32 → lineOf p = l → s.lineBusy l = false → s.slotGuarded l = false → m.poison = true → mask = 256 ^ n - 1 →
      s.Runs (.homeUncachedWrite p n data mask) fun t => s.SameBytes t ∧ (t.metaOf l).poison = true) ∧
    (op.toNat ≤ 2 → s.Simple p w → s.lineBusy (lineOf p) = false → s.slotGuarded (lineOf p) = false → s.Runs (.systemAtomicAtHome p op dbl cmp new) fun t => t.readPa p w = swapped old ∧
      s.SameBytesBut t p w ∧ ∀ i, t.ctxAt i = s.ctxAt i) ∧
    (s.lineBusy (lineOf p) = false → ((s.metaOf (lineOf p)).poison = true ∨ s.slotGuarded (lineOf p) = true) → s.Runs (.systemAtomicAtHome p op dbl cmp new) fun t => t = s) ∧
    (k ≤ 1 → s.Runs (.scrub l k) fun t => t = s) ∧
    (2 ≤ k → s.undoRegion = none → s.Runs (.scrub l k) fun t => t.metaOf l = { m with poison := true } ∧ t.mem = s.mem ∧
      ∀ i, t.ctxAt i = s.ctxAt i) ∧
    (slice < 128 →
      (mget? s.leaves (leafKey slice va) = none → va.toNat < 2 ^ 55 → s.dieWalk (slice / 32) va needNone = .ok leaf → s.Runs (.pageWalk slice va) fun t =>
        mget? t.leaves (leafKey slice va) = some leaf ∧ t.mem = s.mem) ∧
      (2 ^ 55 ≤ va.toNat ∨ mget? s.leaves (leafKey slice va) ≠ none → s.Runs (.pageWalk slice va) fun t => t = s) ∧
      (∀ e, mget? s.leaves (leafKey slice va) = none → s.dieWalk (slice / 32) va needNone = .error e → s.Runs (.pageWalk slice va) fun t => t = s) ∧
      (mget [] s.retry slice = [] → s.Runs (.busyRetryTimer slice) fun t => t = { s with retry := mdel s.retry slice }) ∧
      (mget [] s.retry slice = [(l, r)] →
        (s.lineBusy l = true → waiting.length < 4096 → s.Runs (.busyRetryTimer slice) fun t => t = { s with
          retry := mdel s.retry slice, busyList := mput s.busyList (homeOf l) (waiting ++ [(l, r)]) }) ∧
        (s.lineBusy l = false → r = .freeze → s.Runs (.busyRetryTimer slice) fun t => (t.metaOf l).frozen = true))) ∧
    (128 ≤ slice → ∀ e ∈ [Instr.pageWalk slice va, .busyRetryTimer slice], exec e s = .fault .noSuchUnit)

/-- R213, R215, R222, R225, R377, R378: lattice lines at their homes. A join of the line's type and width merges its data; one of another
type or width changes nothing; one to a frozen line is reported, KIND 3, and merges nothing; a count notice merges nothing. A join is recorded where its page asks for it, also when the line refuses it. A delta is
granted at the type's bottom to an unwatched, unfrozen, typed line, and its drain merges what it absorbed. A lower-bound fill is a copy
of the home value. A watch whose answer is known fires at once, else it is kept, in the
slice's overflow region where the slice holds 16,384. A freeze freezes the line once. (Of a line that is busy,
HomeRequests says what happens.)
Model's choices: log 14, 22, 113, 123. -/
def Obligations.LatticeHomes : Prop :=
  ∀ (s : State) (a l : Nat) (j : JoinMsg) (w : Watch) (code : Nat) (c : Copy) (i : CtxId),
    let m := s.metaOf l
    let own := s.copyAt? a l
    let id := BitVec.ofNat 15 a
    let t0 := latOfCode m.type.toNat
    let fits := m.type.toNat = latCode j.ltype ∧ m.width.toNat = j.width
    let unwatched := ∀ w ∈ s.watches, w.line ≠ l
    let ctl := (s.crewAt (loggingCrew (homeOf l))).splitctl
    let unlogged := splitsJoins ctl = false ∨ j.countOnly = true
    let used := fun (n : Nat) => ∃ v ∈ s.watches, homeOf v.line = homeOf w.line ∧ v.spill = some n
    let spilled := (mget (0, 0) s.pkg.boot.overflow (homeOf w.line)).1 + Config.overflowLen * code
    let held := s.watches.countP fun v => homeOf v.line = homeOf w.line ∧ v.spill = none
    let told : Report := {
      kind := 3, addr := 128 * l, aux := j.va.toNat / 128 * 128, launch := j.launch, serial := j.serial
      pc := j.pc.toNat, code := j.elem, typ := latCode j.ltype, wid := j.width }
    let wm := s.metaOf w.line
    let known := answer w.ltype w.width w.elem w.trigs (s.latLine w.line) wm.frozen
    let noDeltas := ∀ q ∈ s.copies, q.2.st ≠ .d
    let free := s.lineBusy w.line = false
    s.lineBusy l = false →
    (fits → m.frozen = false → m.poison = false → j.countOnly = false → s.MemWf → unwatched → unlogged → s.NoUndo →
      s.Runs (.joinAtHome l j) fun t => t.latLine l = latJoin j.ltype j.width (s.latLine l) j.data ∧
        (∀ n, n ≠ l → t.latLine n = s.latLine n) ∧ ∀ i, t.ctxAt i = s.ctxAt i) ∧
    (¬fits → unlogged → s.Runs (.joinAtHome l j) fun t => t = s) ∧
    (¬fits → j.countOnly = false → splitsJoins ctl = true → s.logsJoins l j = true → (splitsFull? ctl = false → s.Runs (.joinAtHome l j) fun t =>
        splitsHead (t.crewAt (loggingCrew (homeOf l))).splitctl = (splitsHead ctl + 1) % 4096 ∧ s.SameBytes t) ∧
      (splitsFull? ctl = true → s.Runs (.joinAtHome l j) fun t => t.mem = s.mem ∧
        t.heldJoins = s.heldJoins ++ [{ agent := homeOf l, line := l, join := j, owed := none }])) ∧
    (fits → m.frozen = true → j.fromHost = false → unlogged → s.Runs (.joinAtHome l j) fun t => t = s.post told) ∧
    (fits → m.frozen = false → (m.poison = true ∨ j.countOnly = true) → unlogged → s.Runs (.joinAtHome l j) fun t => t = s) ∧
    (isAgent a = true → l < 2 ^ 49 →
      (m.poison = false → own = none → s.Runs (.lowerBoundFill a l) fun t =>
        (∃ d, t.copyAt? a l = some d ∧ d.data = s.memLine l ∧ d.st = (if m.frozen then .f else .s)) ∧ t.mem = s.mem ∧ t.metaOf l = m) ∧
      (m.poison = true → ∀ e ∈ [Instr.lowerBoundFill a l, .deltaGrant a l], s.Runs e fun t => t = s) ∧
      (m.watch = true ∨ m.frozen = true ∨ m.type = 0xF ∨ s.undoRunning = true → s.Runs (.deltaGrant a l) fun t => t = s) ∧
      (m.poison = false → m.watch = false → m.frozen = false → m.type ≠ 0xF → s.undoRunning = false → own = none →
        s.Runs (.deltaGrant a l) fun t => (∃ d, t.copyAt? a l = some d ∧ d.st = .d ∧ d.data = bottomLine t0 m.width.toNat) ∧
          t.mem = s.mem ∧ (m.hstate = hsI → t.metaOf l = { m with hstate := hsDOne, holder := id }) ∧
          (m.hstate = hsDOne → m.holder ≠ id → t.metaOf l = { m with hstate := hsDMany, holder := 0 })) ∧
      (own = some c → c.st = .d → c.last = some j → c.top = false → s.MemWf → unwatched → s.NoUndo →
        s.Runs (.deltaDrain a l) fun t => t.latLine l = latJoin j.ltype j.width (s.latLine l) c.data ∧ ∀ i, t.ctxAt i = s.ctxAt i) ∧
      (own = none ∨ (own = some c ∧ c.st ≠ .d) → s.Runs (.deltaDrain a l) fun t => t = s) ∧
      (own = some c → c.st ≠ .d → s.Runs (.freezeNotice a l) fun t => t.copyAt? a l = some { c with st := .f, data := s.memLine l }) ∧
      (own = none → s.Runs (.freezeNotice a l) fun t => t = s)) ∧
    (free → noDeltas → known = none → (∀ v ∈ s.watches, v.line ≠ w.line) → s.Runs (.watchRegistration w) fun t =>
      (∀ i, t.ctxAt i = s.ctxAt i) ∧
      (held < 16384 → t.watches = s.watches ++ [{ w with spill := none }] ∧ (t.metaOf w.line).watch = true ∧ t.mem = s.mem) ∧
      (16384 ≤ held → ¬used code → (∀ n < code, used n) → (∀ p, s.bytesAt spilled = some p →
          128 * w.line + 128 ≤ p ∨ p + Config.overflowLen ≤ 128 * w.line) →
        t.watches = s.watches ++ [{ w with spill := some code }] ∧ (t.metaOf w.line).watch = true)) ∧
    (free → noDeltas → known = some code → w.waiter = .context i → (∀ v ∈ s.watches, v.line ≠ w.line) → s.Runs (.watchRegistration w) fun t =>
      t.watches = s.watches ∧ (t.metaOf w.line).watch = false ∧ t.ctxAt i = { s.ctxAt i with answer := some code } ∧
        ∀ k, k ≠ i → t.ctxAt k = s.ctxAt k) ∧
    (m.frozen = true → s.Runs (.freezeLine l) fun t => t = s) ∧
    (m.frozen = false → s.Runs (.freezeLine l) fun t => (t.metaOf l).frozen = true) ∧
    (m.frozen = false → noDeltas → unwatched → s.undoRegion = none → s.Runs (.freezeLine l) fun t =>
      t.metaOf l = { m with hstate := hsF, holder := 0, frozen := true, watch := false } ∧ t.mem = s.mem)

/-- R303, R305–R308, R311, R314, R324: launches. A new SEQ in the last chunk of a slot has the slot's record checked: STATE ← 4 with the lowest of
its reasons, or 1 where it has none; a live slot keeps its launch with reason 9. A held launch whose dependencies and phase are met is released once the boot is complete: STATE ← 2, one
record taken per part and enqueued with SRC 34, the progress window started; a dependency that cannot be met and a pool too small are
rejected. A launch whose records are all back is complete, STATE ← 3, or 6 when it was cancelled, with its vector signalled. A phase
boundary returns the lines of the arenas whose reset was recorded to the bottom of their type, makes the job's next held phase current, and a job whose JCOUNT has reached NPHASE is complete. Control words cancel, release or do nothing, and the Umpire stalls a launch that is
quiescent-dead when its window ends and reports it, KIND 0x15.
Model's choices: log 13, 28, 55, 67, 69, 90, 134, 137. -/
def Obligations.LaunchEvents : Prop :=
  ∀ (s : State) (slot job p l : Nat) (chunk : BitVec 512),
    let x := s.slotAt slot
    let seq := chunk.toNat / 256 ^ 63
    let window := 2 ^ s.pkg.fields.uwin
    let signalled := fun (t : State) (v : Nat) => mget 0 t.pkg.msi v = mget 0 s.pkg.msi v + 1
    let sameSlots := fun (t : State) => ∀ i, t.slotAt i = s.slotAt i
    let all : List Instr := [.seqChunkWrite slot chunk, .launchRelease slot, .launchComplete slot, .controlCancel slot, .controlRelease slot,
      .controlCancelJob slot, .controlNoAction slot, .umpireWindowExpiry slot]
    let ended := x.taken = [] ∧ (x.state = 2 ∨ x.state = 5 ∨ (x.state = 1 ∧ x.cancelled = true))
    let busy := (∃ o ∈ [0x70, 0x78, 0x80], s.counterBusy (x.field o 8) = true) ∨
      ∃ k ∈ x.crews, ∃ e ∈ (s.crewAt k).splitsHeld, x.splitsEvent e = true
    let out := x.job ∈ s.pkg.recovery.out ∨ (s.pkg.recovery.busy = true ∧ s.pkg.recovery.active = x.job)
    let met := s.pkg.fields.booted = true ∧ x.dep0 = true ∧ x.dep1 = true ∧ (s.jobAt x.job).phase = x.phase ∧ ¬out
    let j := s.jobAt job
    let place := s.windowBase + 256 * slot
    let record := s.readPa place 192 + 256 ^ 192 * chunk.toNat
    let read : State := ({ { s with actor := noLaunch }.hwWrite (place + 0xC0) 64 chunk.toNat with actor := s.actor }).setSlot slot fun y =>
      { y with seq := seq }
    let reasons := read.launchReasons record
    let line := fun (n a : Nat) => s.hwPa (BitVec.ofNat 64 (a + 128 * n))
    let names := fun (a : Nat × Nat) (n : Nat) => a ∈ j.resets ∧ n < a.2 ∧ (line n a.1).map lineOf = some l
    let arena := fun (l : Nat) => ∃ a ∈ j.resets, ∃ n < a.2, (line n a.1).map lineOf = some l
    let steady := ∀ a ∈ j.resets, ∀ n < a.2, ∀ u : State, u.pkg = s.pkg → u.flying = s.flying →
      (∀ pa < 2 ^ 56, ¬arena (lineOf pa) → u.byteAt pa = s.byteAt pa) → (∀ l, (u.metaOf l).poison = (s.metaOf l).poison) →
      u.hwPa (BitVec.ofNat 64 (a.1 + 128 * n)) = line n a.1
    let calm := ∀ l, arena l → s.joinsToward l = [] ∧ ∀ w ∈ s.watches, w.line ≠ l
    let m := s.metaOf l
    let ended' := match (j.phaseAt j.phase).launches with | q :: _ => s.counter (imageField q.2 0x80 8) 0 | [] => 0
    let cancelled := fun (sel : Nat → Prop) (t : State) => ∀ i,
      (t.slotAt i).cancelled = true ↔ ((s.slotAt i).cancelled = true ∨ ((s.slotAt i).live? = true ∧ sel i))
    (16 ≤ slot → ∀ e ∈ all, exec e s = .fault .noSuchUnit) ∧
    (slot < 16 →
      ((s.pkg.fields.cxlup = false ∨ seq = x.seq) → s.Runs (.seqChunkWrite slot chunk) sameSlots) ∧
      (s.pkg.fields.cxlup = true → seq ≠ x.seq → x.live? = true → s.Runs (.seqChunkWrite slot chunk) fun t =>
        t.slotAt slot = { x with seq := seq, reason := 9 } ∧ ∀ i, i ≠ slot → t.slotAt i = s.slotAt i) ∧
      (s.pkg.fields.cxlup = true → seq ≠ x.seq → x.live? = false → s.Runs (.seqChunkWrite slot chunk) fun t =>
        (t.slotAt slot).seq = seq ∧ (s.MemWf → (s.metaOf (lineOf (place + 0xC0))).poison = false →
          (∀ r, reasons.min? = some r → (t.slotAt slot).state = 4 ∧ (t.slotAt slot).reason = r ∧ 1 ≤ r ∧ r ≤ 8 ∧ signalled t slot) ∧
          (reasons.min? = none → (t.slotAt slot).state = 1 ∧ (t.slotAt slot).image = record ∧
            (t.slotAt slot).launch = imageField record 0x10 4))) ∧
      (imageField record 0 8 % 4 ≠ 0 → 1 ∈ reasons) ∧ (imageField record 0x58 4 = 0 ∨ 4 ≤ imageField record 0x1C 1 → 3 ∈ reasons) ∧
      (4 ∈ reasons ↔ (read.slotOf (imageField record 0x10 4)).isSome = true) ∧ (8 ∈ reasons ↔ read.crewsOf record = []) ∧
      (6 ∈ reasons ↔ ∃ v ∈ read.shapesOf record, shapeRecordBad v = true) ∧ (7 ∈ reasons ↔ ∃ v ∈ read.arenasOf record, read.arenaBad v = true) ∧
      (x.state ≠ 1 ∨ x.cancelled = true ∨ (x.depDead = false ∧ ¬met) → s.Runs (.launchRelease slot) fun t => t = s) ∧
      (x.state = 1 → x.cancelled = false →
        (x.depDead = true → s.Runs (.launchRelease slot) fun t =>
          t.slotAt slot = { x with state := 4, reason := 10 } ∧ signalled t slot) ∧
        (x.depDead = false → met → (s.freeRecords slot).length < x.parts.length → s.Runs (.launchRelease slot) fun t =>
          t.slotAt slot = { x with state := 4, reason := 3 } ∧ signalled t slot) ∧
        (x.depDead = false → met → x.parts.length ≤ (s.freeRecords slot).length → (∀ q ∈ x.parts, (s.crewAt q.1).away = false) →
          s.Runs (.launchRelease slot) fun t => (t.slotAt slot).state = 2 ∧
            (t.slotAt slot).shapes = s.shapesOf x.image ∧
            (t.slotAt slot).taken.length = x.taken.length + x.parts.length ∧ (s.clock + window, .umpireWindowExpiry slot) ∈ t.timers ∧
            ∀ q ∈ x.parts, ∃ r, .recordEnqueue q.1 r (x.field 0x1C 1 % 4) 34 ∈ t.events)) ∧
      (¬ended → s.Runs (.launchComplete slot) fun t => t = s) ∧
      (ended → busy → s.Runs (.launchComplete slot) fun t => t = s.after 16 (.launchComplete slot)) ∧
      (ended → ¬busy → s.Runs (.launchComplete slot) fun t => (t.slotAt slot).state = (if x.cancelled then 6 else 3) ∧
        signalled t slot ∧ (∀ e ∈ t.shadows, e.launch ≠ x.launch)) ∧
      (x.live? = true → x.cancelled = false → s.Runs (.controlCancel slot) fun t => cancelled (· = slot) t) ∧
      (x.live? = true → x.cancelled = true → s.Runs (.controlCancel slot) fun t =>
        t = (s.fileReport (taskReport 0x14 0 (2 ^ 32 * x.launch) x.launch 0 0 0)).clearControl slot) ∧
      (x.live? = false → ∀ e ∈ [Instr.controlCancel slot, .controlCancelJob slot], s.Runs e sameSlots) ∧
      (x.live? = true → risingFrom 0 s.slots = true → s.Runs (.controlCancelJob slot) fun t =>
        cancelled (fun i => (s.slotAt i).job = x.job) t ∧ (t.jobAt x.job).cancelled = true) ∧
      (x.state = 5 → s.slotOf x.launch = some slot → s.Runs (.controlRelease slot) fun t =>
        t.slotAt slot = { x with state := 2, deadline := s.clock + window } ∧
        (s.clock + window, .umpireWindowExpiry slot) ∈ t.timers ∧ (∀ k ∈ x.crews, .contextTakesRecord k ∈ t.events)) ∧
      (x.state ≠ 5 → s.Runs (.controlRelease slot) sameSlots) ∧
      (s.MemWf → (s.metaOf (lineOf (s.windowBase + 0x1100 + 8 * slot))).poison = false → s.Runs (.controlNoAction slot) fun t =>
        sameSlots t ∧ s.Written (s.windowBase + 0x1100 + 8 * slot) 8 0 t ∧ ∀ i, t.ctxAt i = s.ctxAt i) ∧
      (x.state ≠ 2 → s.Runs (.umpireWindowExpiry slot) fun t => t = s) ∧
      (x.state = 2 → s.clock < x.deadline → s.Runs (.umpireWindowExpiry slot) fun t =>
        t = s.after (x.deadline - s.clock) (.umpireWindowExpiry slot)) ∧
      (x.state = 2 → x.deadline ≤ s.clock → out ∨ s.isDead x = false → s.slotOf x.launch = some slot →
        s.Runs (.umpireWindowExpiry slot) fun t => t.slotAt slot = { x with deadline := s.clock + window } ∧
          t.timers = s.timers ++ [(s.clock + window, .umpireWindowExpiry slot)] ∧ t.posts = s.posts) ∧
      (x.state = 2 → x.deadline ≤ s.clock → ¬out → s.isDead x = true → (∃ k ∈ x.crews, s.splitsLacks k = true) →
        s.Runs (.umpireWindowExpiry slot) fun t => t.slotAt slot = x ∧ t.posts = s.posts ∧
          t.timers = s.timers ++ [(s.clock + 16, .umpireWindowExpiry slot)]) ∧
      (x.state = 2 → x.deadline ≤ s.clock → ¬out → s.isDead x = true → (∀ k ∈ x.crews, s.splitsLacks k = false) → s.Runs (.umpireWindowExpiry slot) fun t =>
        (t.slotAt slot).state = 5 ∧ signalled t slot ∧ ∃ r ∈ t.posts, r.kind = 0x15 ∧ r.addr = 0 ∧ r.launch = x.launch)) ∧
    ((j.phaseAt j.phase).done = false → s.Runs (.phaseBoundary job) fun t => t = s) ∧
    ((j.phaseAt j.phase).done = true → s.nextPhase job = some p → s.Runs (.phaseBoundary job) fun t => (t.jobAt job).phase = p ∧
      (t.jobAt job).resets = []) ∧
    ((j.phaseAt j.phase).done = true → (s.nextPhase job = none ∨ (s.nextPhase job = some p ∧ (j.phaseAt p).undolen = 0)) → s.MemWf → steady →
      calm → s.Runs (.phaseBoundary job) fun t => (∀ pa < 2 ^ 56, ¬arena (lineOf pa) → t.byteAt pa = s.byteAt pa) ∧
        (arena l → l < 2 ^ 49 → t.copiesOf l = [] ∧ (m.type ≠ 0xF → t.memLine l = bottomLine (latOfCode m.type.toNat) m.width.toNat) ∧
          t.metaOf l = { m with hstate := hsI, holder := 0, frozen := false, filled := false, top := false, watch := false, gen := (t.metaOf l).gen } ∧
          (∀ a n, names a n → (∀ b k, names b k → b = a ∧ k = n) → j.resets.Nodup → (t.metaOf l).gen = m.gen + 1))) ∧
    ((j.phaseAt j.phase).done = true → s.nextPhase job = none → j.resets = [] →
      (j.nphase ≤ ended' → risingFrom 0 s.pkg.jobs = true → s.Runs (.phaseBoundary job) fun t => mget? t.pkg.jobs job = none) ∧
      (ended' < j.nphase → s.Runs (.phaseBoundary job) fun t => t.jobAt job = j))

/-- R398–R401, R406, R407, R410: recovery. A swap-out of a job that runs, is in and shares no crew with another stops its placement and the
contexts of its crews; when their drains have ended, looked for every 16 c, they are all out, and vector 16 is signalled; a swap-in brings
them back. Either command sets the error bit when it cannot be obeyed. A rollback of a phase that keeps an undo log is counted and
discards every task of the job. The log is replayed, the youngest entry first: each line in it ends with the content and the metadata of
its oldest entry, with no copy and no watch, and no other byte changes. From that state every launch of the phase whose STATE is not 6
starts again, in the order of acceptance.
Model's choices: log 13, 71, 72, 75. -/
def Obligations.Recovery : Prop :=
  ∀ (s : State) (job k n slot tp : Nat),
    let r := s.pkg.recovery
    let mine := s.partition r.job
    let gone := fun (c : Nat) => (r.job, c) ∈ r.parts
    let leaving := (s.crews.filter fun p => p.2.leaving).map Prod.fst
    let stopped := leaving.foldl State.leaveCrew s
    let runs := ∃ q ∈ s.slots, q.2.running = true ∧ q.2.job = r.job
    let shared := ∃ c ∈ s.crewsWhere (fun x => x.job != r.job), c ∈ mine
    let may := r.busy = false ∧ runs ∧ r.job ∉ r.out ∧ ¬shared
    let signalled := fun (t : State) => mget 0 t.pkg.msi 16 = mget 0 s.pkg.msi 16 + 1
    let j := s.jobAt job
    let p := j.phaseAt j.phase
    let rolls := p.undolen ≠ 0 ∧ p.done = false ∧ mget? s.pkg.jobs job ≠ none
    let c := s.ctxAt { crew := k, n := n }
    let x := s.slotAt slot
    let at' := fun (o : Nat) => s.hwPa (BitVec.ofNat 64 (p.undo + p.undolen / 64 + o))
    let tail := min (s.readPa tp 8) (undoCap p.undolen)
    let entry := fun (i : Nat) => s.readChunks at' (0x4040 + 160 * i) 5
    let line := fun (i : Nat) => entry i % 2 ^ 64 / 128
    let bits := fun (i : Nat) => LineMeta.ofBits (BitVec.ofNat 32 (entry i / 2 ^ 64))
    let apart := ∀ i < tail, ∀ o < 5, ∃ q, at' (0x4040 + 160 * i + 32 * o) = some q ∧ q % 32 = 0 ∧ ∀ e < tail, line e ≠ lineOf q
    let undone := fun (u : State) => (∀ i < tail, line i < 2 ^ 49 → (∀ e < i, line e ≠ line i) →
        u.memLine (line i) = BitVec.ofNat 1024 (entry i / 2 ^ 256) ∧ u.copiesOf (line i) = [] ∧ (∀ w ∈ u.watches, w.line ≠ line i) ∧
        u.metaOf (line i) = { bits i with hstate := if (bits i).frozen then hsF else hsI, holder := 0, watch := false }) ∧
      ∀ pa < 2 ^ 56, (∀ i < tail, lineOf pa ≠ line i) → u.byteAt pa = s.byteAt pa
    let again := (p.launches.filter fun q => (s.slotAt q.1).image = q.2 ∧ (s.slotAt q.1).state ≠ 6).map Prod.fst
    let restarted := fun (u : State) => again.foldl State.restart u
    let held := fun (u : State) => (((restarted u).slots.filter fun q => q.2.state == 1).map Prod.fst).foldl State.awaitAgain (restarted u)
    (¬may → s.Runs .swapOut fun t => t = s.updRecovery fun y => { y with err := true }) ∧
    (may → s.Runs .swapOut fun t => t.pkg.recovery.busy = true ∧ t.pkg.recovery.active = r.job ∧ t.pkg.recovery.out = r.out ∧
      Instr.swapOutComplete ∈ t.events ∧ (∀ q ∈ mine, (t.crewAt q).leaving = true) ∧
      (k ∈ mine → n < 32 → c.st ≠ .free → c.boot = false → c.wait ≠ some .domain → (t.ctxAt { crew := k, n := n }).stopped = true) ∧
      (k ∉ mine → (∀ q ∈ mine, ∀ m < 32, s.AwaitsNothing { crew := q, n := m }) → t.ctxAt { crew := k, n := n } = c)) ∧
    (r.busy = false → s.Runs .swapOutComplete fun t => t = s) ∧
    (r.busy = true → (∃ q ∈ leaving, stopped.swapWaits q = true) → s.Runs .swapOutComplete fun t => t = stopped.after 16 .swapOutComplete) ∧
    (r.busy = true → (∀ q ∈ leaving, stopped.swapWaits q = false) → s.Runs .swapOutComplete fun t => mget 0 t.pkg.msi 16 = mget 0 stopped.pkg.msi 16 + 1 ∧
      t.pkg.recovery = { stopped.pkg.recovery with
        busy := false, out := r.out ++ [r.active], parts := r.parts ++ leaving.map fun c => (r.active, c) } ∧
      (∀ q ∈ leaving, (t.crewAt q).swapped = true ∧ (t.crewAt q).leaving = false) ∧
      (k ∉ leaving → (t.crewAt k).swapped = (s.crewAt k).swapped)) ∧
    (r.busy = true ∨ r.job ∉ r.out → s.Runs .swapIn fun t => t = s.updRecovery fun y => { y with err := true }) ∧
    (r.busy = false → r.job ∈ r.out → s.Runs .swapIn fun t => signalled t ∧ r.job ∉ t.pkg.recovery.out ∧
      (∀ q, gone q → (t.crewAt q).swapped = false ∧ (t.crewAt q).leaving = false) ∧ (¬gone k → (t.crewAt k).swapped = (s.crewAt k).swapped)) ∧
    (¬rolls → s.Runs (.rollbackRestart job) fun t => t = s) ∧
    (rolls → s.Runs (.rollbackRestart job) fun t => signalled t ∧ t.pkg.recovery.rollbacks = r.rollbacks + 1 ∧
      (c.hasTask = true → (∃ q ∈ s.slots, q.2.live? = true ∧ q.2.job = job ∧ q.2.launch = c.launch.toNat) →
        (t.ctxAt { crew := k, n := n }).hasTask = false) ∧
      ((slot, x.image) ∈ p.launches → x.state ≠ 6 → (t.slotAt slot).state = 2 ∧ (t.slotAt slot).retired = 0 ∧ (t.slotAt slot).dropped = 0) ∧
      (s.MemWf → s.heldJoins = [] → at' 0x4000 = some tp → apart →
        ∃ u, undone u ∧ t.mem = (held u).mem ∧ t.slots = (held u).slots ∧ t.lines = (held u).lines))

/-! Copies, collectives and the engines (R266–R275, R335–R344). -/

/-- R266–R275: `CPY` places a copy of TSH5 bytes between global ranges, or of a window into a tile that becomes FILLING, and counts it;
no bytes complete at once; overlapping ranges and malformed endpoints trap with copy-descriptor, the destination's first; a full queue
waits. A control endpoint restarts or abandons a halted entry and traps on a queue that is not halted. `CPYMM` needs a tile and
captures FOUT and FREG. `CQFENCE` places one fence entry in each named queue; `CSTAT` reads a queue. `COLL` sends the bytes at x(a) into
the next round of its slot after its checks, once the crew's round before it is over; `COLLW` waits for the task's own last round, on
whichever crew it contributed, and traps when that round was bad.
Model's choices: log 49, 50, 51, 108, 109. -/
def Obligations.Copies : Prop :=
  ∀ (s s1 s2 s3 : State) (n : BitVec 2) (a b : BitVec 6) (m e r : BitVec 4) (c : BitVec 1) (o : BitVec 4) (l1 l2 : List Leaf) (v : Nat),
    let q := n.toNat
    let xa := s.X a
    let xb := s.X b
    let len := (s.cx.getTsh 5).toNat
    let queue := s.queueAt s.cur q
    let crew := s.cur.crew
    let tag := fun (x : Word) => x.toNat / 2 ^ 62
    let global := fun (x : Word) => x.toNat < 2 ^ 55
    let source := global xb ∨ (tag xb = 3 ∧ xb.toNat % 2 ^ 62 < 16)
    let dest := global xa ∨ (tag xa = 1 ∧ xa.toNat % 2 ^ 62 < 2) ∨ (tag xa = 3 ∧ xa.toNat % 2 ^ 62 < 16)
    let room := queue.entries.length < 32 ∧ s.seatCopies s.cur < 128
    let meets := xa.toNat < xb.toNat + len ∧ xb.toNat < xa.toNat + len
    let placed := fun (total : Nat) (d : Endpoint) (t : State) =>
      (∃ x, (t.queueAt s.cur q).entries = queue.entries ++ [x] ∧ x.dst = d ∧ x.src = .global xb.toNat ∧ x.total = total ∧ x.done = 0 ∧
        x.fence = none ∧ x.mm = false ∧ x.pc = s.pc) ∧
      t.cx.cnt = { s.cx.cnt with copies := s.cx.cnt.copies + 1 } ∧ t.cx.x = s.cx.x ∧ s.SameOthers t ∧ s.SameBytes t ∧
      t.events = s.events ++ (if queue.entries = [] then [.copyBeat s.cur q] else [])
    let h := s.cx.getT r
    let cleared : CopyQueue := { queue with halted := false, aborted := false, reason := 0, va := 0, told := false }
    let v7 := s.cx.getTsh 7
    let fout := s.cx.getT (v7.extractLsb' 8 4)
    let freg := s.cx.getT (v7.extractLsb' 0 4)
    let named := fun (j : Nat) => m.getLsbD j = true
    let old := mget? (s.crewAt crew).colls e.toNat
    let collLen := if (s.cx.getTsh 6).toNat % 2 ^ 21 = 0 then 256 else (s.cx.getTsh 6).toNat % 2 ^ 21
    let launch := s.cx.launchId
    let round := match old with | some x => if x.launch = launch then x.round + 1 else 0 | none => 0
    let coll := Instr.coll e a b c o
    let mineOpen := ∃ p ∈ s.crews, ∃ x, mget? p.2.colls e.toNat = some x ∧ x.record = s.cx.record ∧ s.roundOpen e.toNat x = true
    let owes := ∃ p ∈ s.crews, ∃ x, mget? p.2.colls e.toNat = some x ∧ ((x.bad = true ∧ x.record = s.cx.record) ∨ s.cx.record ∈ x.failed)
    (¬dest → s.Traps (.cpy n a b) 0x10C xa ∧ s.Traps (.cpymm n a b) 0x10C xa) ∧
    (dest → ¬source → s.Traps (.cpy n a b) 0x10C xb) ∧
    (global xa → global xb → s.cx.getTsh 5 &&& 0xFF00000000000000#64 ≠ 0 → s.Traps (.cpy n a b) 0x10A 5) ∧
    (global xa → global xb → len < 2 ^ 56 →
      (meets → s.Traps (.cpy n a b) 0x10C (BitVec.ofNat 64 len)) ∧
      (len = 0 → s.Becomes (.cpy n a b) id) ∧
      (0 < len → ¬meets → ¬room → s.Waits (.cpy n a b) (.queueFull q)) ∧
      (0 < len → ¬meets → room → s.overlapping crew [(xa.toNat, xa.toNat + len)] = [] →
        s.Runs (.cpy n a b) (placed len (.global xa.toNat)))) ∧
    (xa = BitVec.ofNat 64 (3 * 2 ^ 62 + r.toNat) → global xb → s.Output h → s.checkWindow xb.toNat false false = none → room →
      s.Runs (.cpy n a b) fun t => placed (tileBytes (s.bankOf r)) (.tile h) t ∧ (t.tileAt crew (hSlot h)).st = .filling) ∧
    (tag xa = 1 → xa.toNat % 2 ^ 62 < 2 → source →
      (queue.halted = false → s.Traps (.cpy n a b) 0x10C xa) ∧ s.Traps (.cpymm n a b) 0x10C xa ∧
      (queue.halted = true → xa.toNat % 2 = 0 → s.Runs (.cpy n a b) fun t => t.queueAt s.cur q = cleared ∧ s.SameBytes t ∧
        ∀ x rest, queue.entries = x :: rest → x.fence = none →
          (if x.mm = true ∧ x.total ≤ x.done then Instr.cpymmFollowOn s.cur q else Instr.copyBeat s.cur q) ∈ t.events) ∧
      (∀ x rest, queue.halted = true → xa.toNat % 2 = 1 → queue.entries = x :: rest → s.Runs (.cpy n a b) fun t =>
        t.queueAt s.cur q = { cleared with entries := rest } ∧ t.cx.cnt.copies = s.cx.cnt.copies - 1 ∧
        .copyBeat s.cur q ∈ t.events ∧ s.SameBytes t)) ∧
    (global xa → source → s.Traps (.cpymm n a b) 0x10C xa) ∧
    (xa = BitVec.ofNat 64 (3 * 2 ^ 62 + r.toNat) → global xb → v7.toNat < 2 ^ 12 → v7.toNat / 32 % 8 = 0 → s.Output h → s.Output fout →
      s.Names freg → (s.slotNamed crew freg).st = .ready → s.checkWindow xb.toNat false false = none → room →
      s.Runs (.cpymm n a b) fun t => (∃ x, (t.queueAt s.cur q).entries = queue.entries ++ [x] ∧ x.mm = true ∧ x.dst = .tile h ∧
          x.src = .global xb.toNat ∧ x.fout = fout ∧ x.freg = freg ∧ x.facc = 0 ∧ x.total = tileBytes (s.bankOf r)) ∧
        (t.tileAt crew (hSlot h)).st = .filling ∧ (t.tileAt crew (hSlot fout)).st = .filling ∧
        t.cx.cnt.copies = s.cx.cnt.copies + 1 ∧ s.SameOthers t ∧ s.SameBytes t) ∧
    ((∀ j < 4, named j → (s.queueAt s.cur j).entries.length < 32) → s.Runs (.cqfence m) fun t =>
      (∀ j < 4, ¬named j → t.queueAt s.cur j = s.queueAt s.cur j) ∧
      (∃ id, ∀ j < 4, named j → ∃ x, (t.queueAt s.cur j).entries = (s.queueAt s.cur j).entries ++ [x] ∧ x.fence = some (m, id)) ∧
      t.cx.cnt = s.cx.cnt ∧ s.SameOthers t ∧ s.SameBytes t) ∧
    (named q → 32 ≤ queue.entries.length → (∀ j < q, named j → (s.queueAt s.cur j).entries.length < 32) →
      s.Waits (.cqfence m) (.queueFull q)) ∧
    (let count := if queue.halted then (match queue.entries with | x :: _ => x.done | [] => 0)
       else (queue.entries.map fun x => x.total - x.done).sum
     s.Runs (.cstat n a) (s.GivesX a (BitVec.ofNat 64 (count % 2 ^ 56 + (if queue.halted then 2 ^ 56 else 0) +
       (if queue.aborted then 2 ^ 57 else 0) + 2 ^ 58 * queue.entries.length)))) ∧
    (s.takesPart launch crew = false → s.Traps coll 0x10E (e.setWidth 64)) ∧
    (s.takesPart launch crew = true → s.checkShapes [6] = none →
      (xa.toNat % 256 ≠ 0 → s.Traps coll 0x95 xa) ∧
      (xa.toNat % 256 = 0 → xb.toNat % 256 ≠ 0 → s.Traps coll 0xA5 xb) ∧
      (xa.toNat % 256 = 0 → xb.toNat % 256 = 0 → s.translateLines coll .load (linesOf xa collLen) = .ok l1 s1 →
        s1.translateLines coll .store (linesOf xb collLen) = .ok l2 s2 → mget? (s2.crewAt crew).colls e.toNat = old →
        (∀ x, old = some x → s2.roundOpen e.toNat x = false) → s2.overlapping s2.cur.crew [(xb.toNat, xb.toNat + collLen)] = [] →
        s2.readLines ((linesOf xa collLen).zip l1) = .ok v s3 → exec coll s = .next (((s3.updCrew crew fun x => { x with
          colls := mput x.colls e.toNat {
            launch := launch, round := round, busy := true, bad := false, failed := (match old with | some x => x.owing | none => [])
            bc := c == 1, ctx := s.cur, record := s.cx.record, dst := xb, pc := s.pc } }).push
            (.reductionPartial launch e.toNat { fromPackage := none, crew := crew, round := round, op := o.toNat, bc := c == 1, len := collLen, data := v })).upd
              fun x => x.advance .seq)) ∧
      (∀ x, xa.toNat % 256 = 0 → xb.toNat % 256 = 0 → s.translateLines coll .load (linesOf xa collLen) = .ok l1 s1 →
        s1.translateLines coll .store (linesOf xb collLen) = .ok l2 s2 → mget? (s2.crewAt crew).colls e.toNat = some x →
        s2.roundOpen e.toNat x = true → s2.cx.cancelled = false → exec coll s = .next (s2.upd fun y => {
          y with st := .stalled, wait := some (.collective e.toNat) }))) ∧
    (mineOpen → s.cx.cancelled = false → s.Waits (.collw e) (.ownRound e.toNat)) ∧
    (¬mineOpen → ¬owes → s.Becomes (.collw e) id) ∧
    (¬mineOpen → owes → s.Runs (.collw e) fun t => t.cx.trap.tcause = 0x10E ∨ s.cx.boot = true ∨ s.cx.depth = 2)

/-- R268–R270, R274, R335–R341, R344, R254: the engines. A step of a node is performed by the event of its kind and by no other: it
saves progress, and a group's last step sets its MASK bits; the last group retires the node and its slot is READY; one that faults
leaves the node FAULTED. A beat that is not the entry's last leaves it at the queue's head, the last one takes it out and uncounts it
once its writes are counted, and one that fails halts the queue: a copy between global ranges moves the source's bytes to the
destination's next line, one out of a tile writes its next line's bytes. A follow-on goes pass by pass, and its last pass makes FOUT READY. A
write-out writes the enabled bytes of its lines, in order, and is uncounted once they are. A partial joins its round; when all are in,
the root's crew, or with BC every one, has the total at its x(b): the sums, the least or the greatest of the integer elements, and for
the others the tree's, node by node. A partial that disagrees, or of a package that is no child, makes the round bad. Engines of a frozen,
absent or leaving crew do not move, and no beat passes while the crew holds its requests.
Model's choices: log 13, 47, 54, 83, 132. -/
def Obligations.EngineSteps : Prop :=
  ∀ (s s1 s2 s3 s4 : State) (k i q d r1 r2 wr : Nat) (n n1 : Node) (tile : Tile) (c : CtxId) (x e1 : CopyEntry) (rest : List CopyEntry) (w : WriteOut)
    (others : List WriteOut) (p : Piece) (ps : List Piece) (launch slot reason : Nat) (tval : Word) (va : Nat) (part : Partial) (at' : Nat → Nat),
    let steps := n.stepsOf n.group n.sub
    let now := steps[n.step]?
    let s0 : State := { s with actor := n.launch.toNat }
    let moves := (s.crewAt k).enginesStopped = false ∧ (s.crewAt k).leaving = false ∧ s.requestsHeld k = false ∧ s.nodeAt? k i = some n
    let mask := n1.mask ||| groupMask n1.group n1.sub
    let performs := fun (ev : Instr) => ∀ st, now = some st →
      (s0.doStep k n st = .ok (n1, tile) →
        (n1.step + 1 < steps.length → s.Runs ev fun t => t.nodeAt? k i = some {
            n1 with step := n1.step + 1, st := if n1.demand = none then .live else .eval } ∧
          t.tileAt k (hSlot n1.out) = tile ∧ (∀ j, t.ctxAt j = s.ctxAt j) ∧ s.SameBytes t) ∧
        (steps.length ≤ n1.step + 1 → mask ≠ BitVec.allOnes 16 → s.Runs ev fun t =>
          (∃ m, t.nodeAt? k i = some m ∧ m.st = .live ∧ m.mask = mask ∧ m.step = 0) ∧ (t.tileAt k (hSlot n1.out)).mask = mask ∧
          (∀ j, t.ctxAt j = s.ctxAt j) ∧ s.SameBytes t) ∧
        (steps.length ≤ n1.step + 1 → mask = BitVec.allOnes 16 → tile.st = .filling → risingFrom 0 (s.crewAt k).nodes = true →
          s.Runs ev fun t => t.nodeAt? k i = none ∧ (t.tileAt k (hSlot n1.out)).st = .ready ∧
            (t.tileAt k (hSlot n1.out)).mask = mask ∧ s.SameBytes t)) ∧
      (s0.doStep k n st = .error (reason, tval) → reason ≠ 7 → n.demand = none → s.Runs ev fun t =>
        t.nodeAt? k i = some { n with
          st := .faulted, cause := if reason = reasonPrivileged then 0x06 else 0xB0 + reason } ∧ ∀ j, t.ctxAt j = s.ctxAt j)
    let steppers : List Instr := [.tloadBeat k i, .sweepPass k i, .lanePass k i, .conversionStep k i]
    let queue := s.queueAt c q
    let a0 : State := { s with actor := s.ownerLaunch c }
    let free := fun (k : Nat) => (s.crewAt k).leaving = false ∧ s.requestsHeld k = false
    let goes := queue.halted = false ∧ (s.crewAt c.crew).enginesStopped = false ∧ q < 4
    let copy := queue.entries = x :: rest ∧ x.fence = none ∧ x.done < x.total
    let owed := fun (s : State) => s.engineOwed (s.ownerRecord c) (.copy q)
    let fills := fun (s : State) (h : BitVec 32) => let y := s.tileAt c.crew (hSlot h); y.st = .filling ∧ y.gen = hGen h ∧ y.alloc = true
    let line := fun (p n : Nat) (f : Nat → Byte) (t : State) => (∀ j < n, t.byteAt (p + j) = f j) ∧ s.SameBytesBut t p n
    let piece := fun (p : Nat) (x : Piece) => line p 128 fun j =>
      (s.byteAt (p + j) &&& ~~~byteOf x.mask j) ||| (byteOf x.data j &&& byteOf x.mask j)
    let actorOut : State := { s with actor := s.workLaunch w.record }
    let sum : Round := (s.pkg.rounds.find? fun r => r.launch == launch && r.slot == slot && r.round == part.round).getD
      { launch := launch, slot := slot, round := part.round, parts := [], bad := false, sent := false }
    let alone := ∀ y, s.slotOf launch = some y → (s.slotAt y).pkgs = []
    let agrees := part.bad = false ∧ sum.bad = false ∧ sum.strangers = [] ∧ ∀ y ∈ sum.parts, y.op = part.op ∧ y.bc = part.bc ∧ y.len = part.len
    let crews := match s.slotOf launch with | some y => (s.slotAt y).crews | none => []
    let all := sum.parts ++ [part]
    let allIn := ∀ m ∈ crews, ∃ y ∈ all, y.fromPackage = none ∧ y.crew = m
    let exact := (∀ y ∈ all, y.fromPackage = none ∧ y.crew < 1024 ∧ y.crew ∈ crews) ∧ (all.map Partial.crew).Nodup
    let elem := fun (v e : Nat) => BitVec.ofNat 32 (v / 2 ^ (32 * e))
    let totals := fun (v : Nat) => packageTotal part.op part.len all = some v ∧ ∀ e < part.len / 4,
      (part.op = 2 → (elem v e).toNat = (all.map fun y => (elem y.data e).toNat).sum % 2 ^ 32) ∧
      (part.op = 5 ∨ part.op = 6 → (∃ y ∈ all, elem v e = elem y.data e) ∧ ∀ y ∈ all,
        if part.op = 5 then (elem v e).toInt ≤ (elem y.data e).toInt else (elem y.data e).toInt ≤ (elem v e).toInt)
    let writers := if part.bc then crews else crews.take 1
    let holds := fun (m : Nat) => (mget? (s.crewAt m).colls slot).filter fun y => y.busy && y.launch == launch && y.round == part.round
    let results := writers.filterMap fun m => (holds m).map fun y => (y.dst, at' m)
    let home := ∀ m ∈ crews, (s.crewAt m).away = false
    let ends := fun (bad : Bool) (t : State) => ∀ m ∈ crews, ∀ y, holds m = some y → ∃ z, mget? (t.crewAt m).colls slot = some z ∧
      z.busy = false ∧ z.bad = bad
    ((s.crewAt k).enginesStopped = true ∨ (s.crewAt k).leaving = true ∨ s.nodeAt? k i = none → ∀ ev ∈ steppers, s.Runs ev fun t => t = s) ∧
    (∀ l, now = some (.beat l) → (s.crewAt k).enginesStopped = false → (s.crewAt k).leaving = false → s.nodeAt? k i = some n → s.requestsHeld k = true →
      s.Runs (.tloadBeat k i) fun t => t = s.after 16 (.tloadBeat k i)) ∧
    (moves →
      (((∃ l, now = some (.beat l)) ∨ now = some .blank) → performs (.tloadBeat k i)) ∧
      ((∃ l, now = some (.sweep l)) → performs (.sweepPass k i)) ∧
      ((∃ l, now = some (.lanes l)) → performs (.lanePass k i)) ∧
      (now = some .convert → performs (.conversionStep k i)) ∧
      ((¬∃ l, now = some (.sweep l)) → s.Runs (.sweepPass k i) fun t => t = s) ∧
      ((¬∃ l, now = some (.lanes l)) → s.Runs (.lanePass k i) fun t => t = s) ∧
      (now ≠ some .convert → s.Runs (.conversionStep k i) fun t => t = s)) ∧
    (queue.halted = true ∨ (s.crewAt c.crew).enginesStopped = true ∨ queue.entries = [] → s.Runs (.copyBeat c q) fun t => t = s) ∧
    (goes → copy → (s.crewAt c.crew).leaving = true → s.Runs (.copyBeat c q) fun t => t = s) ∧
    (goes → copy → (s.crewAt c.crew).leaving = false → s.requestsHeld c.crew = true → s.Runs (.copyBeat c q) fun t => t = s.after 16 (.copyBeat c q)) ∧
    (∀ a, goes → copy → free c.crew → x.dst = .global d → x.src = .global a →
      let dest := d + x.done
      let source := a + x.done
      let n := min (x.total - x.done) (128 - dest % 128)
      let m := min n (128 - source % 128)
      a0.EngineReads s2 c.crew source m x.sys r1 → (m = n ∧ s3 = s2) ∨ (m < n ∧ s2.EngineReads s3 c.crew (source + m) (n - m) x.sys r2) →
      s3.EngineWrites s4 c.crew dest x.sys wr → s.Runs (.copyBeat c q) fun t =>
        line (wr + dest % 128) n (fun j => s.byteAt (if j < m then r1 + j else r2 + (j - m))) t) ∧
    (∀ h, goes → copy → free c.crew → x.dst = .global d → x.src = .tile h → x.out = p :: ps → p.va % 128 = 0 → (∀ b ∈ x.poison, b.1 ≠ p.va / 128) →
      a0.EngineWrites s1 c.crew p.va x.sys wr → s.Runs (.copyBeat c q) (piece wr p)) ∧
    (goes → copy → free c.crew →
      (a0.beat c q x = .ok (s1, e1) → s1.queueAt c q = queue →
        (e1.done < e1.total → s.Runs (.copyBeat c q) fun t => (t.queueAt c q).entries = e1 :: rest ∧
          t.timers = s1.timers ++ [(s1.clock + 2, .copyBeat c q)] ∧ t.mem = s1.mem) ∧
        (e1.total ≤ e1.done → (∃ d, e1.dst = .global d) → owed s1 = true → s.Runs (.copyBeat c q) fun t =>
          (t.queueAt c q).entries = e1 :: rest ∧ t.timers = s1.timers ++ [(s1.clock + 16, .copyBeat c q)] ∧ t.mem = s1.mem) ∧
        (e1.total ≤ e1.done → (∃ d, e1.dst = .global d) → owed s1 = false → c.n < 64 → s.Runs (.copyBeat c q) fun t =>
          (t.queueAt c q).entries = rest ∧ (t.ctxAt c).cnt.copies = (s1.ctxAt c).cnt.copies - 1 ∧ .copyBeat c q ∈ t.events ∧
          t.mem = s1.mem) ∧
        (∀ h, e1.total ≤ e1.done → e1.dst = .tile h → e1.mm = false → c.n < 64 → fills s1 h → s.Runs (.copyBeat c q) fun t =>
          (t.tileAt c.crew (hSlot h)).st = .ready ∧ (t.tileAt c.crew (hSlot h)).mask = BitVec.allOnes 16 ∧
          (t.queueAt c q).entries = rest ∧ (t.ctxAt c).cnt.copies = (s1.ctxAt c).cnt.copies - 1 ∧ t.mem = s1.mem)) ∧
      (a0.beat c q x = .error (reason, va) → reason ≠ 7 → s.Runs (.copyBeat c q) fun t =>
        t.queueAt c q = { queue with halted := true, aborted := reason == 11, reason := reason, va := BitVec.ofNat 64 va, told := false } ∧
        (c.n < 64 → t.events = s.events ++ [.asyncFaultDelivery c]) ∧ t.mem = s.mem)) ∧
    (∀ d, goes → c.n < 64 → queue.entries = x :: rest → x.fence = none → x.mm = false → x.total ≤ x.done → x.dst = .global d →
      owed s = false → s.Runs (.copyBeat c q) fun t => (t.queueAt c q).entries = rest ∧
        (t.ctxAt c).cnt.copies = (s.ctxAt c).cnt.copies - 1 ∧ s.SameBytes t) ∧
    (queue.halted = true ∨ (s.crewAt c.crew).enginesStopped = true → s.Runs (.cpymmFollowOn c q) fun t => t = s) ∧
    (∀ h, goes → queue.entries = x :: rest → x.dst = .tile h → x.mm = true → x.total ≤ x.done →
      let needs := bfScale (s.bankFmt c.crew (s.tileAt c.crew (hSlot x.fout)).bank) ≠ 0 ∧ x.staged = false
      let pass := a0.followPass c { x with staged := x.staged || decide needs, buf := if needs then (s.crewAt c.crew).freeStaging else x.buf } h
      (needs → 4 ≤ (s.crewAt c.crew).stagingUsed → s.Runs (.cpymmFollowOn c q) fun t => t = s.after 4 (.cpymmFollowOn c q)) ∧
      ((needs → (s.crewAt c.crew).stagingUsed < 4) →
        (pass = .ok e1 → e1.pass < 16 → s.Runs (.cpymmFollowOn c q) fun t => (t.queueAt c q).entries = e1 :: rest ∧
          t.timers = s.timers ++ [(s.clock + 4, .cpymmFollowOn c q)] ∧ (∀ j, j ≠ c → t.ctxAt j = s.ctxAt j) ∧ s.SameBytes t) ∧
        (pass = .ok e1 → 16 ≤ e1.pass → c.n < 64 → fills s x.fout → s.Runs (.cpymmFollowOn c q) fun t =>
          (t.tileAt c.crew (hSlot x.fout)).st = .ready ∧ (t.tileAt c.crew (hSlot x.fout)).mask = BitVec.allOnes 16 ∧
          (t.queueAt c q).entries = rest ∧ (t.ctxAt c).cnt.copies = (s.ctxAt c).cnt.copies - 1 ∧ s.SameBytes t) ∧
        (pass = .error tval → s.rollbackFor (s.ownerLaunch c) = none → s.Runs (.cpymmFollowOn c q) fun t =>
          t.queueAt c q = { queue with halted := true, aborted := false, reason := 7, va := tval, told := false } ∧ t.mem = s.mem))) ∧
    ((s.crewAt k).enginesStopped = true ∨ (s.crewAt k).writeOuts = [] → s.Runs (.writeOutLine k) fun t => t = s) ∧
    ((s.crewAt k).enginesStopped = false → (s.crewAt k).writeOuts = w :: others →
      (w.pieces = p :: ps → s.requestsHeld k = true → s.Runs (.writeOutLine k) fun t => t = s.after 16 (.writeOutLine k)) ∧
      (w.pieces = p :: ps → s.requestsHeld k = false → s.Runs (.writeOutLine k) fun t =>
        (t.crewAt k).writeOuts = { w with pieces := ps } :: others ∧ .writeOutLine k ∈ t.events ∧
        (p.bank = none → s.place (p.pa / 128 * 128) = .device wr → actorOut.EngineLine p.ex wr → piece wr p t ∧ ∀ j, t.ctxAt j = s.ctxAt j)) ∧
      (w.pieces = [] → s.engineOwed w.record .writeOut = true → s.Runs (.writeOutLine k) fun t =>
        (t.crewAt k).writeOuts = w :: others ∧ t.timers = s.timers ++ [(s.clock + 16, .writeOutLine k)] ∧ s.SameBytes t) ∧
      (w.pieces = [] → s.engineOwed w.record .writeOut = false → (s.ctxAt w.ctx).record = w.record → s.Runs (.writeOutLine k) fun t => (t.crewAt k).writeOuts = others ∧
        (t.ctxAt w.ctx).cnt.demands = (s.ctxAt w.ctx).cnt.demands - 1 ∧
        (t.ctxAt w.ctx).fp.fpflags = (s.ctxAt w.ctx).fp.fpflags ||| w.flags.setWidth 64 ∧ s.SameBytes t)) ∧
    (s.slotOf launch = none → s.Runs (.reductionPartial launch slot part) fun t => t = s) ∧
    (s.slotOf launch ≠ none → alone → part.down = false → sum.sent = false → sum.closed = false →
      (part.fromPackage = none → agrees → ¬allIn → s.Runs (.reductionPartial launch slot part) fun t =>
        { sum with parts := all } ∈ t.pkg.rounds ∧ t.posts = s.posts ∧ s.SameBytes t) ∧
      (part.fromPackage = none → agrees → allIn → home → s.Runs (.reductionPartial launch slot part) fun t =>
        (∀ r ∈ t.pkg.rounds, ¬(r.launch = launch ∧ r.slot = slot ∧ r.round = part.round)) ∧ (crews.Nodup → ends false t) ∧
        (exact → crews.Nodup → part.len % 128 = 0 → s.ResultsAt results part.len → ∃ v, totals v ∧
          (∀ x ∈ results, ∀ j < part.len, t.byteAt (x.2 + j) = byteOf v j) ∧
          ∀ pa < 2 ^ 56, (∀ x ∈ results, ¬(x.2 ≤ pa ∧ pa < x.2 + part.len)) → t.byteAt pa = s.byteAt pa)) ∧
      (part.fromPackage = none → (∃ y ∈ sum.parts, y.op ≠ part.op ∨ y.bc ≠ part.bc ∨ y.len ≠ part.len) → s.Runs (.reductionPartial launch slot part) fun t =>
        (∃ r ∈ t.posts, r.kind = 0x16 ∧ r.launch = launch) ∧ (allIn → home → crews.Nodup → ends true t) ∧
        (part.bad = false → ¬allIn → { sum with parts := all, bad := true } ∈ t.pkg.rounds)) ∧
      (part.fromPackage ≠ none → home → crews.Nodup → s.Runs (.reductionPartial launch slot part) fun t =>
        (∃ r ∈ t.posts, r.kind = 0x16 ∧ r.launch = launch) ∧ ends true t))

/-! The control space, links and boot (R363–R368, R384–R385, R417–R440, R454–R466). -/

/-- R420, R422, R423, R425–R427: who may write the control space. A write by a master that is no owner changes nothing but its reject count,
and one of the boot port not even that. The owner's write reaches the event or the field of its register at once: package fields,
translation, recovery, bias, interleave sets, tree, links, routes, crew blocks and the store window. No field takes a value its rule refuses. Code of
the part writes translation and the crew blocks. Ownership is claimed when nobody has it, offered by the owner for 100 ms, accepted in that
time by the master it was offered to, and lost with its link.
Model's choices: log 4, 88, 89, 90, 93, 101. -/
def Obligations.Management : Prop :=
  ∀ (s : State) (master target off crew set n j : Nat) (value : Word),
    let g := s.pkg.mgmt
    let rejected := fun (t : State) => mget 0 t.pkg.mgmt.rejects master = min 0xFFF (mget 0 g.rejects master + 1) ∧
      t.pkg.mgmt.owner = g.owner ∧ t.events = s.events ∧ t.mem = s.mem ∧ t.crews = s.crews ∧ t.pkg.root = s.pkg.root ∧
      t.pkg.fields = s.pkg.fields
    let owned := fun (m : Nat) (t : State) => t.pkg.mgmt.owner = m ∧ t.pkg.mgmt.pending = false ∧
      mget 0 t.pkg.msi 16 = mget 0 s.pkg.msi 16 + 1
    let writes := fun (m o : Nat) => Instr.registerWrite m o 8 { value := value.toNat, mask := 2 ^ 64 - 1 }
    let reg := writes master
    let bit := fun (j : Nat) => value.getLsbD j = true
    let v := value.toNat
    let block := 0x1000000 + 4096 * crew
    let applies := fun (o : Nat) (e : Instr) => exec (reg o) s = exec e s
    let sets := fun (o : Nat) (t : State) => exec (reg o) s = .next t
    let bootPort := (0x400010 ≤ off ∧ off < 0x400810) ∨ (0x400C00 ≤ off ∧ off < 0x400D00)
    let ofCode := (0x100200 ≤ off ∧ off < 0x100300) ∨ (0x1000000 ≤ off ∧ off < 0x1400000)
    let offered := target ≠ master ∧ (target = 4 ∨ (target < 4 ∧ target ∈ g.ports))
    let commanded := fun (c : Nat) => s.updRecovery fun r => { r with cmd := c, err := r.err && !value.getLsbD 4 }
    let ranged := if value.getLsbD 2 then s.updTransl fun t => { t with bad := false } else s
    let aimed := s.updBias fun b => { b with dir := value.getLsbD 0, err := b.err && !value.getLsbD 3 }
    let enabled := s.updLink n fun l => { l with en := value.getLsbD 2 }
    let idle := (s.crewAt crew).queue.entries = [] ∧ (s.crewAt crew).queue.waiting = []
    (5 < master → exec (reg off) s = .fault .noSuchUnit) ∧
    (5 ≤ master → ∀ e ∈ [Instr.claim master, .handover master target, .accept master, .ownerLoss master], exec e s = .fault .noSuchUnit) ∧
    (master < 5 → (g.owner < 8 → s.registerRead master 0x10000 1 = g.owner + 16 * master) ∧ (bootPort → sets off s)) ∧
    (master < 5 → g.owner ≠ master →
      (off ≠ 0x10008 → off ≠ 0x10018 → ¬bootPort → s.Runs (reg off) rejected) ∧ s.Runs (.handover master target) rejected) ∧
    (master < 5 →
      (if bit 0 then applies 0x10008 (.claim master) ∧ applies 0x10018 (.accept master) else sets 0x10008 s ∧ sets 0x10018 s) ∧
      (g.owner = 7 → s.Runs (.claim master) (owned master)) ∧
      (g.owner ≠ 7 → s.Runs (.claim master) fun t => t = s) ∧
      (g.pending = true → g.target = master → s.clock ≤ g.deadline → s.Runs (.accept master) (owned master)) ∧
      (g.pending = false ∨ g.target ≠ master ∨ g.deadline < s.clock → s.Runs (.accept master) fun t => t = s) ∧
      (s.Runs (.ownerLoss master) fun t => (if g.owner = master then owned 7 t else t.pkg.mgmt.owner = g.owner) ∧ master ∉ t.pkg.mgmt.ports ∧
        t.pkg.fields.cxlup = (s.pkg.fields.cxlup && master != 0)) ∧
      (g.owner = master → offered → s.Runs (.handover master target) fun t =>
        t.pkg.mgmt = { g with pending := true, target := target, deadline := s.clock + 175000000 } ∧
        t.timers = s.timers ++ [(s.clock + 175000000, .handoverTimeout)]) ∧
      (g.owner = master → ¬offered → s.Runs (.handover master target) fun t => t = s)) ∧
    (g.owner = master → master < 5 →
      applies 0x10010 (.handover master (v % 8)) ∧
      (crew < 1024 → applies block (.preemptWrite crew (value.setWidth 8)) ∧ applies (block + 8) (.releaseWrite crew (value.setWidth 32)) ∧
        applies (block + 0x18) (.debugFreeze crew (value.getLsbD 32)) ∧ applies (block + 0x20) (.debugWrite crew (value.setWidth 32)) ∧
        applies (block + 0x80) (.debugResume crew (value.setWidth 32)) ∧
        (if bit 0 then applies (block + 0x88) (.creset crew) else sets (block + 0x88) s) ∧
        (s.Runs (reg (block + 0x10)) fun t => (t.crewAt crew).vsave.toNat = v % 2 ^ 41) ∧
        (if idle ∧ v % 65536 = 0 then s.Runs (reg (block + 0x40)) fun t => (t.crewAt crew).queue.spillBase = v % 2 ^ 55
          else sets (block + 0x40) s) ∧
        (∀ k ≤ 20, 12 ≤ k → v % 2 ^ 21 = 2 ^ k → idle → s.Runs (reg (block + 0x48)) fun t => (t.crewAt crew).queue.spillCap = 2 ^ k) ∧
        (if v % 128 ≤ 100 ∧ v / 256 % 128 < v % 128 then s.Runs (reg (block + 0x50)) fun t => (t.crewAt crew).queue.high = v % 128 ∧
            (t.crewAt crew).queue.low = v / 256 % 128
          else sets (block + 0x50) s)) ∧
      (let c := v % 4
       if c = 1 then exec (reg 0x100308) s = exec .swapOut (commanded c) else if c = 2 then exec (reg 0x100308) s = exec .swapIn (commanded c)
         else sets 0x100308 (commanded c)) ∧
      sets 0x100208 (s.updTransl fun t => { t with sdva := v % 2 ^ 55 }) ∧ sets 0x100210 (s.updTransl fun t => { t with sdlen := v % 2 ^ 55 }) ∧
      (if bit 0 then exec (reg 0x100218) s = exec .shootdownGo ranged else sets 0x100218 ranged) ∧
      sets 0x100380 (s.updBias fun b => { b with fva := v / 65536 % 2 ^ 39 * 65536 }) ∧
      (if bit 1 then exec (reg 0x100388) s = exec .biasFlipGo aimed else sets 0x100388 aimed) ∧
      (if s.launchRuns = true then sets 0x100200 s
        else sets 0x100200 { s with pkg := { s.pkg with root := value &&& 0x00FFFFFFFFFF0000#64 } }) ∧
      (let u := v % 64
       let sto := v / 256 % 2 ^ 20
       s.Runs (reg 0x100000) fun t => t.pkg.fields.uwin = (if 20 ≤ u ∧ u ≤ 40 then u else s.pkg.fields.uwin) ∧
         t.pkg.fields.sto = if 10 ≤ sto ∧ sto ≤ 1000000 then sto else s.pkg.fields.sto) ∧
      (let id := v % 2 ^ 15
       if s.launchRuns = true ∨ 0x7FF0 ≤ id then sets 0x100010 s else s.Runs (reg 0x100010) fun t => t.pkg.pkgid = id) ∧
      (s.Runs (reg 0x100018) fun t => t.pkg.fields.hbase = v / 4096 * 4096) ∧
      (set < 4 → bit 63 → applies (0x100400 + 64 * set) (.interleaveSetWrite set value)) ∧
      (if s.multiRuns = true then sets 0x100600 s else s.Runs (reg 0x100600) fun t => (mget 0 t.pkg.tree 0).toNat = v % 65536) ∧
      (n < 16 → let l := s.linkAt n
        let o := 0x200000 + 256 * n
        if bit 2 ∨ l.state ≠ 2 then (if bit 3 then exec (reg o) s = exec (.retrain n) enabled else sets o enabled)
        else ∃ d, exec (.linkDead n) enabled = .next d ∧ exec (reg o) s = if bit 3 then exec (.retrain n) d else .next d) ∧
      (j < 8192 → s.Runs (reg (0x300000 + 8 * j)) fun t => (∀ i < 4, mget 0 t.pkg.routes (4 * j + i) = v / 2 ^ (16 * i) % 65536) ∧
        ∀ d, d / 4 ≠ j → mget 0 t.pkg.routes d = mget 0 s.pkg.routes d) ∧
      (j < 0x80000 → let o := 0x800000 + 8 * j
        let written : State := { s with pkg := { s.pkg with draft := s.pkg.draft.writeN (8 * j) 8 v } }
        (Memory.wf s.pkg.draft = true → written.pkg.draft.readN (8 * j) 8 = v) ∧
        (if s.launchRuns = true then sets o s else if j = 0x7FFFF ∧ v / 2 ^ 56 = 1 then exec (reg o) s = exec .storeCommit written
          else sets o written)) ∧
      (off % 8 = 0 → ofCode → exec (writes 5 off) s = exec (reg off) s)) ∧
    (off % 8 = 0 → ¬ofCode → ¬(0x400000 ≤ off ∧ off < 0x401000) → exec (writes 5 off) s = .next s) ∧
    (g.pending = true → g.deadline ≤ s.clock → s.Runs .handoverTimeout fun t => t.pkg.mgmt = { g with pending := false }) ∧
    (g.pending = false ∨ s.clock < g.deadline → s.Runs .handoverTimeout fun t => t = s) ∧
    (set < 4 → let w := mput (mget [] s.pkg.sets set) 0 value
      (s.setRefused set w = true → s.Runs (.interleaveSetWrite set value) fun t => t.pkg.setFail.getLsbD set = true ∧
        (setWord (mget [] t.pkg.sets set) 0).testBit 63 = false) ∧
      (s.setRefused set w = false → s.Runs (.interleaveSetWrite set value) fun t => t.pkg.setFail.getLsbD set = false ∧
        setWord (mget [] t.pkg.sets set) 0 = v)) ∧
    (4 ≤ set → exec (.interleaveSetWrite set value) s = .fault .noSuchUnit)

/-- R363–R365, R384, R385, R402, R413, R417, R418, R423, R428, R440: changes to the machine's mappings. A `HASHCTL` value takes effect at
its domain switch, one change of a die at a time; one that is refused returns to its instruction. A shoot-down drops the translations
of its range, sets BUSY until its engines, the requests on their way to other packages and the joins that slices hold are done, and sets BAD
for a range that is no range of pages; a second waits. A bias flip sets BUSY until its flip point, where the page's HB bit and bias change,
and ends with ERR where the page's leaf allows none. The store's draft is committed. Above 105 °C a die's issue is gated; above 115 °C the
package is reset, and the jobs that ran are kept as lost.
Model's choices: log 13, 80, 81, 83, 93, 99, 100, 125. -/
def Obligations.Mappings : Prop :=
  ∀ (s : State) (die temp va : Nat) (value w : Word) (rest : List Word) (fast : Bool) (i : CtxId) (owners : List CtxId) (k : Nat),
    let d := s.dieAt die
    let t := s.pkg.transl
    let b := s.pkg.bias
    let lo := if t.sdlen = 0 then 0 else t.sdva
    let hi := if t.sdlen = 0 then 2 ^ 55 else t.sdva + t.sdlen
    let pages := t.sdva % 65536 = 0 ∧ t.sdlen % 65536 = 0
    let pending := ∃ p ∈ s.crews, p.2.enginesStopped = false ∧ p.2.cfault = false ∧
      ∃ y ∈ p.2.writeOuts, ∃ x ∈ y.pieces, x.hits t.range = true
    let sent := ∃ y ∈ s.flying, t.range.1 ≤ y.va ∧ y.va < t.range.2
    let frozen := ∃ p ∈ s.crews, p.2.frozen = true ∧ p.2.gated = false ∧ s.engineHits t.range p.1 = true
    let held := ∃ h ∈ s.heldJoins, h.join.fromHost = false ∧ t.range.1 ≤ h.join.va.toNat ∧ h.join.va.toNat < t.range.2
    let signalled := fun (t : State) => mget 0 t.pkg.msi 16 = mget 0 s.pkg.msi 16 + 1
    (4 ≤ die → ∀ e ∈ [Instr.hashctlWrite die value, .domainSwitch die, .thermalThrottle die temp], exec e s = .fault .noSuchUnit) ∧
    (die < 4 →
      (d.busy = true → s.Runs (.hashctlWrite die value) fun x => (x.dieAt die) = { d with waiting := d.waiting ++ [value] } ∧
        x.events = s.events) ∧
      (d.busy = false → hashctlRefused d.domains value = false → s.Runs (.hashctlWrite die value) fun x =>
        x.dieAt die = { d with busy := true, change := some value } ∧ x.events = s.events ∧
        x.timers = s.timers ++ [(s.clock + 131072, .domainSwitch die)] ∧ x.copies = s.copies) ∧
      (d.busy = false → hashctlRefused d.domains value = true → d.owners = i :: owners → (s.ctxAt i).wait = some .domain →
        (s.ctxAt i).depth ≠ 0 → s.Runs (.hashctlWrite die value) fun x => (x.ctxAt i).wait = none ∧ (x.ctxAt i).st = .handler ∧
          (x.dieAt die).owners = owners ∧ (x.dieAt die).domains = d.domains) ∧
      (d.change = none → s.Runs (.domainSwitch die) fun x => x = s) ∧
      (d.change = some value → d.waiting = [] → s.Runs (.domainSwitch die) fun x => (x.dieAt die).domains = domainsAfter d.domains value ∧
        (x.dieAt die).busy = false ∧ (x.dieAt die).change = none) ∧
      (d.change = some value → d.waiting = w :: rest → s.Runs (.domainSwitch die) fun x =>
        (x.dieAt die).domains = domainsAfter d.domains value ∧ (x.dieAt die).waiting = rest ∧ .hashctlWrite die w ∈ x.events) ∧
      (s.Runs (.thermalThrottle die temp) fun x => mget 0 x.pkg.fields.temps die = temp ∧
        x.pkg.fields.throttle.getLsbD die = decide (105 < temp) ∧
        x.events = s.events ++ (if 115 < temp then [.thermalShutdown] else []))) ∧
    (s.Runs .thermalShutdown fun x => (∀ p ∈ s.slots, p.2.running = true → p.2.job ∈ x.pkg.lost) ∧ (∀ q ∈ s.pkg.lost, q ∈ x.pkg.lost) ∧
      x = { s with events := [.powerOnReset], timers := [], pkg := { s.pkg with lost := x.pkg.lost } }) ∧
    (s.Runs .storeCommit fun x => x.pkg.store = s.pkg.draft ∧ x.pkg.inForce = s.pkg.inForce ∧ x.mem = s.mem) ∧
    (s.Runs (.hostLinkTrained fast) fun x => x.pkg.fields.cxlup = (fast && !Config.storeFails s.pkg.inForce) ∧ 0 ∈ x.pkg.mgmt.ports ∧ x.mem = s.mem) ∧
    (t.busy = true → s.Runs .shootdownGo fun x => x.pkg.transl = { t with waiting := true }) ∧
    (t.busy = false → ¬pages → s.Runs .shootdownGo fun x => x.pkg.transl = { t with bad := true } ∧ x.events = s.events) ∧
    (t.busy = false → pages → s.Runs .shootdownGo fun x => x.pkg.transl.busy = true ∧ x.pkg.transl.bad = false ∧
      x.pkg.transl.aborts = 0 ∧ x.pkg.transl.range = (lo, hi) ∧ .shootdownComplete ∈ x.events ∧
      (∀ p ∈ x.leaves, let a := p.1 % 2 ^ 39 * 65536; ¬(a < hi ∧ lo < a + 65536)) ∧ ∀ p ∈ s.leaves,
        (let a := p.1 % 2 ^ 39 * 65536; ¬(a < hi ∧ lo < a + 65536)) → p ∈ x.leaves) ∧
    (t.busy = false → s.Runs .shootdownComplete fun x => x = s) ∧
    (t.busy = true → pending ∨ sent → s.Runs .shootdownComplete fun x => x = s.after 16 .shootdownComplete) ∧
    (t.busy = true → ¬pending → ¬sent → held → s.Runs .shootdownComplete fun x => x = s.after 16 .shootdownComplete) ∧
    (t.busy = true → ¬pending → ¬sent → ¬held → frozen → t.flip = false → s.Runs .shootdownComplete fun x => (s.clock + 17500, .shootdownComplete) ∈ x.timers ∧
      x.pkg.transl.busy = true) ∧
    (t.busy = true → ¬pending → ¬sent → ¬held → t.flip = true → b.next = none → s.Runs .shootdownComplete fun x => signalled x ∧
      x.pkg.transl.busy = false ∧ x.pkg.bias = { b with busy := false, flips := b.flips + 1, next := none }) ∧
    (t.busy = true → ¬pending → ¬sent → ¬held → ¬frozen → t.flip = false → s.Runs .shootdownComplete fun x => signalled x ∧
      x.pkg.transl.busy = false ∧ (t.waiting = true → .shootdownGo ∈ x.events) ∧ (b.busy = true → .biasFlipPoint ∈ x.events)) ∧
    (b.busy = true → (b.next ≠ none → s.Runs .biasFlipGo fun x => x = s) ∧
      (b.next = none → s.Runs .biasFlipGo fun x => x.pkg.bias = { b with next := some (b.fva, b.dir) })) ∧
    (b.busy = false → s.flipLeaf b.fva b.dir = none → s.Runs .biasFlipGo fun x => x.pkg.bias = { b with err := true }) ∧
    (∀ l, b.busy = false → s.flipLeaf b.fva b.dir = some (l, k) →
      (l.hb = b.dir → s.Runs .biasFlipGo fun x => x.pkg.bias = { b with flips := b.flips + 1, next := none } ∧ signalled x) ∧
      (l.hb ≠ b.dir → s.Runs .biasFlipGo fun x => x.pkg.bias = { b with page := b.fva, toward := b.dir, busy := true } ∧
        x.events = s.events ++ [.biasFlipPoint])) ∧
    (b.busy = false ∨ t.busy = true → s.Runs .biasFlipPoint fun x => x = s) ∧
    (b.busy = true → t.busy = false → s.flipWaits b.page = true → s.Runs .biasFlipPoint fun x => x = s.after 16 .biasFlipPoint) ∧
    (b.busy = true → t.busy = false → s.flipWaits b.page = false → s.flipLeaf b.page b.toward = none → b.next = none →
      s.Runs .biasFlipPoint fun x => x.pkg.bias = { b with busy := false, err := true } ∧ x.mem = s.mem) ∧
    (∀ l, b.busy = true → t.busy = false → s.flipWaits b.page = false → s.flipLeaf b.page b.toward = some (l, k) →
      s.leafEntry b.page = some va → s.Runs .biasFlipPoint fun x => (k ∈ x.pkg.hostPages ↔ b.toward = true) ∧
        x.pkg.transl.busy = true ∧ x.pkg.transl.flip = true ∧ x.pkg.transl.range = (b.page, b.page + 65536))

/-- R432–R437: links. A flit is accepted on a link that is up when its CRC holds and its number is the next. One for this package is
taken in its flow's order. One for another goes on with one hop less, on the link of the route's mask that is up, has room and has the
most credits, the lower of equals; without hops it is discarded and counted, and without a link it is dropped, which loses a request of this
package; while those that are up have no room, it is not accepted. A write or an atomic of this package acts, and a read is answered, when its flit is acknowledged. A replay starts when nothing was acknowledged for 2 µs; the
sixteenth in a row, the loss of more than four lanes and an end of the link are its death, which discards its unacknowledged flits,
counts their writes as lost, answers a read as link-dead and tells the flows which numbers they lost. A link trains again by RETRAIN and
comes up with 4 or 8 lanes, with 4 after it has lost one; messages that waited then leave.
Model's choices: log 92, 96, 97, 98. -/
def Obligations.Links : Prop :=
  ∀ (s : State) (n peer lanes lost flow m : Nat) (f g : Flit) (y : Flying) (skipped : List Nat),
    let l := s.linkAt n
    let signalled := fun (t : State) => mget 0 t.pkg.msi 16 = mget 0 s.pkg.msi 16 + 1
    let dead := fun (t : State) => (t.linkAt n).state = 3 ∧ (t.linkAt n).lanes = 0 ∧ (t.linkAt n).unacked = [] ∧
      (t.linkAt n).deaths = l.deaths + 1 ∧ (t.linkAt n).lostw = l.lostw + l.unacked.countP Flit.writes ∧ signalled t
    let turns := fun (st : Nat) (t : State) => (t.linkAt n).state = st ∧ (t.linkAt n).unacked = l.unacked ∧ signalled t
    let key := f.cls + 8 * f.src
    let acked := l.acked f.lack s.clock
    let quiet := ∀ g ∈ l.unacked, flightOf s.pkg.pkgid g = none
    let before := (s.updLink n fun l => l.acked f.lack s.clock).flushHeld
    let taken := before.updLink n fun l => { l with rxSeq := (l.rxSeq + 1) % 4096 }
    let x := before.flowAt key
    let carries := fun (k : Nat) => k < 16 ∧ (mget 0 taken.pkg.routes f.dst).testBit k = true ∧ (taken.linkAt k).state = 2 ∧
      (taken.linkAt k).unacked.length < 4096
    let full := f.dst ≠ s.pkg.pkgid ∧ f.hops ≠ 0 ∧ before.routeUp f.dst = true ∧ ∀ k, ¬carries k
    let mine := l.unacked = [g] ∧ flightOf s.pkg.pkgid g = some y.id ∧ s.flying = [y]
    let answers := fun (a : Answer) (t : State) => ∀ r ∈ t.replies, r.id = y.id → r.answer = a
    (16 ≤ n → ∀ e ∈ [Instr.linkDead n, .retrain n, .flitReceive n f, .linkReplayTimer n, .laneLockLoss n lost, .linkTrained n peer lanes],
      exec e s = .fault .noSuchUnit) ∧
    (n < 16 →
      (l.state = 3 → s.Runs (.linkDead n) fun t => t = s) ∧ (l.state ≠ 3 → s.Runs (.linkDead n) dead) ∧
      (l.state ≠ 3 → mine → y.cargo = .read → s.Runs (.linkDead n) fun t => t.flying = [] ∧ answers (.failed 10) t) ∧
      (l.state ≠ 3 → l.unacked = [g] → quiet → m < 16 → m ≠ n → s.openLinks g.dst = [m] → s.flowFull g.dst 5 = false →
        s.Runs (.linkDead n) fun t => ∃ k ∈ (t.linkAt m).unacked, k.payload = .skip (g.cls + 8 * g.src) [g.fseq] ∧ k.dst = g.dst ∧ k.cls = 5) ∧
      (l.en = true → (l.state = 0 ∨ l.state = 3) → s.Runs (.retrain n) fun t => turns 1 t ∧ (t.linkAt n).half = false) ∧
      (l.en = false ∨ (l.state ≠ 0 ∧ l.state ≠ 3) → s.Runs (.retrain n) fun t => t = s) ∧
      (l.state ≠ 1 → s.Runs (.linkTrained n peer lanes) fun t => t = s) ∧
      (l.state = 1 → (lanes = 4 ∨ lanes = 8) → ∃ u, turns 2 u ∧ (u.linkAt n).lanes = (if l.half then 4 else lanes) ∧
        (u.linkAt n).peer = peer % 2 ^ 15 ∧ u.mem = s.mem ∧ u.pkg.flitsHeld = s.pkg.flitsHeld ∧ exec (.linkTrained n peer lanes) s =
          .next (if l.unacked = [] then u.flushHeld else u.flushHeld.after 3500 (.linkReplayTimer n))) ∧
      (l.state = 1 → ¬(lanes = 4 ∨ lanes = 8) → s.Runs (.linkTrained n peer lanes) fun t => turns 0 t ∧ t.pkg.fields.degraded = true) ∧
      (l.state ≠ 2 ∨ lost = 0 → s.Runs (.laneLockLoss n lost) fun t => t = s) ∧
      (l.state = 2 → 4 < lost → s.Runs (.laneLockLoss n lost) dead) ∧
      (l.state = 2 → 0 < lost → lost ≤ 4 → s.Runs (.laneLockLoss n lost) fun t => turns 1 t ∧ (t.linkAt n).half = true) ∧
      (l.state ≠ 2 ∨ l.unacked = [] → s.Runs (.linkReplayTimer n) fun t => t = s) ∧
      (l.state = 2 → l.unacked ≠ [] →
        (s.clock < l.since + 3500 → s.Runs (.linkReplayTimer n) fun t => t = s.after (l.since + 3500 - s.clock) (.linkReplayTimer n)) ∧
        (l.since + 3500 ≤ s.clock → 15 ≤ l.stuck → s.Runs (.linkReplayTimer n) dead) ∧
        (l.since + 3500 ≤ s.clock → l.stuck < 15 → s.Runs (.linkReplayTimer n) fun t =>
          t.linkAt n = { l with replays := l.replays + 1, stuck := l.stuck + 1, since := s.clock } ∧
          t.timers = s.timers ++ [(s.clock + 3500, .linkReplayTimer n)])) ∧
      (l.state ≠ 2 ∨ f.crcOk = false → s.Runs (.flitReceive n f) fun t => t = s) ∧
      (l.state = 2 → f.crcOk = true →
        (quiet → (f.kind ≠ 1 ∧ f.kind ≠ 3) ∨ f.lseq ≠ l.rxSeq ∨ full → s.Runs (.flitReceive n f) fun t => t = before ∧
          (s.pkg.flitsHeld = [] → t.linkAt n = acked ∧ t.mem = s.mem)) ∧
        (f.kind ≠ 1 → f.kind ≠ 3 → mine → f.lack = g.lseq → s.pkg.flitsHeld = [] → s.MemWf →
          (∀ data mask, y.cargo = .write data mask → s.ArrivalRoom → s.Runs (.flitReceive n f) fun t => t.flying = [] ∧
            t.memLine y.line = mergeBits (s.memLine y.line) data mask) ∧
          (y.cargo = .read → (s.metaOf y.line).poison = false → s.Runs (.flitReceive n f) fun t => t.flying = [] ∧ t.mem = s.mem ∧
            answers (.data (s.memLine y.line)) t) ∧
          (∀ a, y.cargo = .atomic a → (s.metaOf y.line).poison = false → let w := if a.dbl then 8 else 4
            s.Runs (.flitReceive n f) fun t => t.flying = [] ∧
              Memory.readN t.mem a.pa w = atomicNew a.op.toNat w (Memory.readN s.mem a.pa w) a.cmp.toNat a.new.toNat)) ∧
        (quiet → (f.kind = 1 ∨ f.kind = 3) → f.lseq = l.rxSeq →
          (f.dst ≠ s.pkg.pkgid → f.hops = 0 → s.Runs (.flitReceive n f) fun t =>
            t = taken.updLink n fun l => { l with misroute := l.misroute + 1 }) ∧
          (f.dst ≠ s.pkg.pkgid → f.hops ≠ 0 → carries m →
            (∀ k, carries k → k ≠ m → Config.credits taken.tick k < Config.credits taken.tick m ∨
              (Config.credits taken.tick k = Config.credits taken.tick m ∧ m < k)) → s.Runs (.flitReceive n f) fun t =>
              (t.linkAt m).unacked = (taken.linkAt m).unacked ++ [{ f with
                hops := f.hops - 1, lseq := (taken.linkAt m).txSeq, lack := ((taken.linkAt m).rxSeq + 4095) % 4096 }] ∧
              (t.linkAt m).txSeq = ((taken.linkAt m).txSeq + 1) % 4096 ∧ (∀ k, k ≠ m → t.linkAt k = taken.linkAt k) ∧ t.mem = taken.mem) ∧
          (f.dst ≠ s.pkg.pkgid → f.hops ≠ 0 → before.routeUp f.dst = false → (∀ k, flightOf taken.pkg.pkgid f = some k →
              exec (.flitReceive n f) s = .next (taken.loseFlight k)) ∧
            (flightOf taken.pkg.pkgid f = none → exec (.flitReceive n f) s = .next taken)) ∧
          (f.dst = s.pkg.pkgid → x.lost = [] → f.fseq < 65536 → x.next < 65536 →
            (x.early = [] → f.fseq = x.next → (f.payload = .none ∨ f.payload = .part) → s.Runs (.flitReceive n f) fun t =>
              (t.linkAt n).rxSeq = (taken.linkAt n).rxSeq ∧ t.mem = before.mem ∧
              t.flowAt key = { x with next := (x.next + 1) % 65536, parts := if f.payload = .part then x.parts + 1 else 0 }) ∧
            (∀ launch slot part, x.early = [] → f.fseq = x.next → f.payload = .partialSum launch slot part → s.Runs (.flitReceive n f) fun t =>
              t.events = before.events ++ (if (part.len + 16 + 235) / 236 ≤ x.parts + 1 then [.reductionPartial launch slot part] else [])) ∧
            (x.early = [] → f.fseq ≠ x.next → (f.fseq + 65536 - x.next) % 65536 < 32768 → s.Runs (.flitReceive n f) fun t =>
              t.flowAt key = { x with early := [(f.fseq, f.payload)] } ∧ t.mem = before.mem) ∧
            (32768 ≤ (f.fseq + 65536 - x.next) % 65536 → s.Runs (.flitReceive n f) fun t => t = taken))))) ∧
    (let z := s.flowAt flow
     z.early = [] → z.lost = [] → skipped = [z.next] → s.Runs (.flowSkip flow skipped) fun t =>
       t.flowAt flow = { z with next := (z.next + 1) % 65536, parts := 0 } ∧ t.mem = s.mem)

/-- R367, R428–R430, R454–R461: power-up and boot. The reset release gives every register its reset value and clears device memory; each
rail that settles starts the next unit, a logic die's routers and slices before its crews, the last the boot; a bad store ends it with
BOOTFAIL. Host memory keeps its bytes. The first corner that passed runs the ROM
in handler mode. FLOOD asks every crew that passed and that its packet reaches, and takes each answer once in its window; PHYS entries give
the crews that answered their logical indexes in order; MGO sends the image; every acknowledgement sets the crew's handler; FINISH completes
the boot when all of it succeeded, releases launches that waited for it and reports the jobs that a shutdown lost, and fails it otherwise. The port takes writes only of
system-mode code of the boot crew, and only while the boot runs; then it keeps its values.
Model's choices: log 7, 10, 84, 87, 92, 94, 95, 125. -/
def Obligations.Boot : Prop :=
  ∀ (s : State) (crew index o n : Nat) (value : BitVec 16) (w : Word) (u : RailUnit),
    let b := s.pkg.boot
    let signalled := fun (t : State) => mget 0 t.pkg.msi 16 = mget 0 s.pkg.msi 16 + 1
    let open' := b.crew ≠ none ∧ s.pkg.fields.booted = false ∧ s.pkg.fields.bootfail = false
    let fails := fun (t : State) => t.pkg.fields.bootfail = true ∧ signalled t
    let code := fun (o n : Nat) => Instr.registerWrite 5 (0x400000 + o) n { value := w.toNat, mask := 2 ^ 64 - 1 }
    let bit := fun (j : Nat) => w.getLsbD j = true
    let hostByte := fun (u : State) (h : Nat) => if u.pkg.fields.hbase ≤ h ∧ h < u.pkg.fields.hbase + 2 ^ 41
      then Memory.read u.mem (0x7FFF * 2 ^ 41 + (h - u.pkg.fields.hbase)) else Memory.read u.hostMem h
    let cleared := s.updBoot fun b => { b with err := b.err && !w.getLsbD 3 }
    let sending := s.updBoot fun b => { b with merr := b.merr && !w.getLsbD 2 }
    let p := value.toNat % 1024
    let takes := b.fdone = true ∧ value.getLsbD 15 = true ∧ index = b.nlog ∧ b.answer.getLsbD p = true ∧ (s.crewAt p).logical = none
    let ready := b.fdone = true ∧ b.nlog = b.nans ∧ b.mlen ≠ 0 ∧ b.mlen ≤ 65536 ∧ b.mlen % 128 = 0 ∧ b.mvbase % 128 = 0
    let passes := fun (k : Nat) => b.passed.getLsbD k = true ∧ s.qlist.getLsbD k = false
    (s.Runs .powerOnReset fun t => t.cur = State.reset.cur ∧ t.crews = [] ∧ t.slots = [] ∧ t.lines = [] ∧ t.copies = [] ∧ t.clock = 0 ∧
      t.events = [.railSettled .auxiliary] ∧ t.pkg.store = s.pkg.store ∧ t.pkg.inForce = s.pkg.store ∧ t.pkg.root = 0 ∧
      (s.MemWf → ∀ a, a / 2 ^ 41 = s.pkg.pkgid → s.pkg.pkgid < 2 ^ 15 → Memory.read t.mem a = 0) ∧
      (s.MemWf → ∀ a, a / 2 ^ 41 % 2 ^ 15 ≠ s.pkg.pkgid → a / 2 ^ 41 ≠ 0x7FFF → Memory.read t.mem a = Memory.read s.mem a) ∧
      (s.MemWf → Memory.wf s.hostMem = true → (∀ c ∈ s.hostMem, c.1 < s.pkg.fields.hbase ∨ s.pkg.fields.hbase + 2 ^ 41 ≤ c.1) →
        s.copies = [] → s.pkg.pkgid < 0x7FF0 → ∀ h, hostByte t h = hostByte s h) ∧
      t.pkg.lost = s.pkg.lost) ∧
    (Config.storeFails s.pkg.inForce = true → s.Runs (.railSettled .auxiliary) fun t => fails t ∧ t.pkg.fields.cxlup = false) ∧
    (railNext .auxiliary = some (.hbm 0) ∧ (∀ n < 15, railNext (.hbm n) = some (.hbm (n + 1))) ∧ railNext (.hbm 15) = some (.base 0) ∧
      (∀ d < 3, railNext (.base d) = some (.base (d + 1))) ∧ railNext (.base 3) = some (.mesh 0) ∧
      (∀ d < 4, railNext (.mesh d) = some (.logic d 0) ∧ (∀ r < 15, railNext (.logic d r) = some (.logic d (r + 1))) ∧
        railNext (.logic d 15) = some (if d < 3 then .mesh (d + 1) else .hostPhy)) ∧
      railNext .hostPhy = some .selfTest ∧ railNext .selfTest = some .memoryInit ∧ railNext .memoryInit = none) ∧
    ((u ≠ .auxiliary ∨ Config.storeFails s.pkg.inForce = false) → s.Runs (.railSettled u) fun t =>
      t.events = s.events ++ [match railNext u with | some v => .railSettled v | none => .bootStart] ∧
      (u = .memoryInit → t.lines = [] ∧ t.copies = []) ∧ (u ≠ .memoryInit → t.mem = s.mem)) ∧
    (b.crew ≠ none ∨ s.pkg.fields.booted = true ∨ s.pkg.fields.bootfail = true → s.Runs .bootStart fun t => t = s) ∧
    (b.crew = none → s.pkg.fields.booted = false → s.pkg.fields.bootfail = false →
      ((∀ k ∈ [0, 31, 992, 1023], ¬passes k) → s.Runs .bootStart fails) ∧
      (∀ k, (∃ early late, [0, 31, 992, 1023] = early ++ k :: late ∧ ∀ j ∈ early, ¬passes j) → passes k → s.Runs .bootStart fun t =>
        t.pkg.boot.crew = some k ∧ t.ctxAt { crew := k, n := 0 } = Ctx.booting ∧ t.mem = s.mem ∧
        t.pkg.root = BitVec.ofNat 64 (s.pkg.inForce.readN 0xF0000 8) &&& 0x00FFFFFFFFFF0000#64)) ∧
    (Ctx.booting.st = .handler ∧ Ctx.booting.pc = 0 ∧ Ctx.booting.depth = 1) ∧
    (¬open' → ∀ e ∈ [Instr.flood, .physAssign index value, .mgo, .finish, .discoveryWindowClose, .multicastTimeout], s.Runs e fun t => t = s) ∧
    (¬open' ∨ b.crew ≠ some s.cur.crew → o < 0x1000 → exec (code o n) s = .next s) ∧
    (open' → b.crew = some s.cur.crew →
      (index < 1024 → exec (code (0x10 + 2 * index) 2) s = exec (.physAssign index (w.setWidth 16)) s ∧
        (n ≠ 2 → exec (code (0x10 + 2 * index) n) s = .next (s.updBoot fun b => { b with err := true }))) ∧
      (∃ d, (if bit 0 then exec .flood cleared = .next d else d = cleared) ∧ exec (code 0xC00 8) s = if bit 4 then exec .finish d else .next d) ∧
      exec (code 0xC10 8) s = .next (s.updBoot fun b => { b with msrc := w.toNat % 2 ^ 55 }) ∧
      exec (code 0xC18 8) s = .next (s.updBoot fun b => { b with mvbase := w.toNat % 2 ^ 55 }) ∧
      exec (code 0xC20 8) s = .next (s.updBoot fun b => { b with mlen := w.toNat % 2 ^ 17 }) ∧
      exec (code 0xC28 8) s = if bit 0 then exec .mgo sending else .next sending) ∧
    (open' →
      (b.fbusy = true ∨ b.fdone = true → s.Runs .flood fun t => t = s) ∧
      (b.fbusy = false → b.fdone = false → s.Runs .flood fun t => t.pkg.boot.fbusy = true ∧ t.pkg.boot.closes = s.clock + 35000 ∧
        (s.clock + 35000, .discoveryWindowClose) ∈ t.timers ∧
        (crew < 1024 → (.discoveryAnswer crew ∈ t.events ↔ ((b.passed.getLsbD crew = true ∧
          (floodReach liveRouters (b.crew.getD 0)).getLsbD crew = true) ∨ .discoveryAnswer crew ∈ s.events)))) ∧
      (takes → s.Runs (.physAssign index value) fun t => t.pkg.boot.nlog = index + 1 ∧ (t.crewAt p).logical = some index ∧
        mget 0 t.pkg.boot.phys index = 0x8000 + p) ∧
      (¬takes → s.Runs (.physAssign index value) fun t => t.pkg.boot = { b with err := true }) ∧
      (b.mbusy = true → s.Runs .mgo fun t => t = s) ∧
      (b.mbusy = false → ¬ready → s.Runs .mgo fun t => t.pkg.boot = { b with merr := true }) ∧
      (∀ t1 img, b.mbusy = false → ready → s.applyHashes [0, 1, 2, 3] = (t1, true) → t1.readImage (b.crew.getD 0) b.msrc (b.mlen / 128) = some img →
        s.Runs .mgo fun t => t.pkg.boot.mbusy = true ∧ t.pkg.boot.acks = 0 ∧ t.pkg.boot.image = img ∧
          t.pkg.boot.acking = t1.logicalCrews ∧ ∀ k ∈ t1.logicalCrews, .multicastAck k ∈ t.events) ∧
      (b.fdone = true → b.err = false → b.mbusy = false → b.merr = false → b.acks = b.nlog → s.Runs .finish fun t =>
        t.pkg.fields.booted = true ∧ signalled t ∧ t.pkg.lostReport = s.pkg.lost ∧ t.pkg.lost = [] ∧
        (∀ p ∈ s.slots, p.2.state = 1 → .launchRelease p.1 ∈ t.events) ∧
        ∀ n < 16, (s.linkAt n).en = true → (s.linkAt n).state = 0 → .retrain n ∈ t.events) ∧
      (b.fdone = false ∨ b.err = true ∨ b.mbusy = true ∨ b.merr = true ∨ b.acks ≠ b.nlog → s.Runs .finish fails)) ∧
    (1024 ≤ crew → ∀ e ∈ [Instr.discoveryAnswer crew, .multicastAck crew], exec e s = .fault .noSuchUnit) ∧
    (crew < 1024 →
      (¬open' ∨ (b.fbusy = false ∧ b.fdone = false) ∨ b.heard.getLsbD crew = true → s.Runs (.discoveryAnswer crew) fun t => t = s) ∧
      (open' → b.fbusy = true → b.fdone = false → b.heard.getLsbD crew = false → s.clock ≤ b.closes → s.Runs (.discoveryAnswer crew) fun t =>
        t.pkg.boot.heard.getLsbD crew = true ∧ t.pkg.boot.closes = s.clock + 35000 ∧
        t.pkg.boot.answer.getLsbD crew = (b.answer.getLsbD crew || !s.qlist.getLsbD crew) ∧
        t.pkg.boot.nans = b.nans + (if s.qlist.getLsbD crew then 0 else 1)) ∧
      (open' → b.heard.getLsbD crew = false → (b.fdone = true ∨ (b.fbusy = true ∧ b.closes < s.clock)) → s.Runs (.discoveryAnswer crew) fun t => t.pkg.boot = { b with nlate := b.nlate + 1 }) ∧
      (b.mbusy = false ∨ crew ∉ b.acking → s.Runs (.multicastAck crew) fun t => t = s) ∧
      (b.mbusy = true → crew ∈ b.acking → s.Runs (.multicastAck crew) fun t => (t.crewAt crew).thvec = BitVec.ofNat 64 b.mvbase ∧
        (open' → t.pkg.boot.acks = b.acks + 1 ∧ t.pkg.boot.mbusy = (b.acks + 1 != b.nlog)) ∧ (¬open' → t.pkg.boot = b))) ∧
    (b.fbusy = false → s.Runs .discoveryWindowClose fun t => t = s) ∧
    (open' → b.fbusy = true → s.clock < b.closes → s.Runs .discoveryWindowClose fun t => t = s.after (b.closes - s.clock) .discoveryWindowClose) ∧
    (open' → b.fbusy = true → b.closes ≤ s.clock → s.Runs .discoveryWindowClose fun t => t.pkg.boot.fbusy = false ∧ t.pkg.boot.fdone = true ∧
      t.pkg.boot.failmask = ~~~b.heard) ∧
    (b.mbusy = false → s.Runs .multicastTimeout fun t => t = s) ∧
    (open' → b.mbusy = true → s.clock < b.closes → s.Runs .multicastTimeout fun t => t = s.after (b.closes - s.clock) .multicastTimeout) ∧
    (open' → b.mbusy = true → b.closes ≤ s.clock → s.Runs .multicastTimeout fun t => t.pkg.boot = { b with mbusy := false, merr := true, acking := [] })

/-! The encoding (R98–R116), the step, reset, and what every step keeps. -/

/-- R99–R116: every instruction that has a word and meets the field rules is what its word decodes to, and every word that decodes is the
word of a well-formed instruction. -/
def Obligations.DecodeAndEncodeAgree : Prop :=
  (∀ i w, i.wellFormed = true → encode i = some w → decode w = .ok i) ∧
  (∀ w i, decode w = .ok i → encode i = some w ∧ i.wellFormed = true)

/-- The words of the manual's worked encodings and of others built from R99 and R102–R114 decode to what they stand for, and reserved
majors, functions and scopes are refused by the subcode of R115. -/
def Obligations.WordsDecode : Prop :=
  decode 0x0851000C = .ok (.addi 5 4 12) ∧ decode 0x68710012 = .ok (.ld 7 4 2 2) ∧ decode 0x41C00010 = .ok (.brc 3 1 16) ∧
  decode 0x80028B94 = .ok (.join 10 11 4 2 4) ∧ decode 0x84928C94 = .ok (.twait 9 10 12 0 2 4) ∧
  decode 0x9C611006 = .ok (.vadd 3 1 2 0 6) ∧ decode 0xC8800401 = .ok (.tmm 2 0 1 1) ∧
  decode 0x04000009 = .error 2 ∧ decode 0x80028BD4 = .error 5 ∧ decode 0 = .error 0 ∧ decode 0xFFFFFFFF = .error 0 ∧
  decode 0x3C000000 = .error 1

/-- A step is the oldest pending event, of control writes that stand together the one of the lowest master (R427), else the timer that is
due, else, on the context whose turn it is, the instruction that the word at its PC decodes to; a word that is none takes the trap of R115,
a word of a system page in task mode privileged-operation, and a fetch that fails its trap; a fetch that awaits another package ends the step. A word that
lies in the instruction cache is what fetch gives. Reports reach their queues at the end of the step.
Model's choices: log 12, 13. -/
def Obligations.StepRunsDecoded : Prop :=
  ∀ (s t : State) (e i : Instr) (a r : List Instr) (c : CtxId) (w : BitVec 32) (m n : Nat) (d : BitVec 1024),
    let s0 := s.tickOn
    let u := s0.issue c
    let now := fun (x : Host.Outcome State Fault Refusal) => step s = mapNext State.settle x
    let turn := s.events = [] ∧ s0.dueTimer = none ∧ s0.nextContext = some c ∧ u.asyncFault c = none ∧ u.cx.ending = false ∧
      u.mayInterrupt c = false
    (s.events = e :: r → masterOf e = none → now (exec e { s0 with events := r })) ∧
    (s.events = a ++ e :: r → masterOf e = some m → (∀ x ∈ a, ∃ k, masterOf x = some k ∧ m < k) →
      (∀ x ∈ r.takeWhile fun x => (masterOf x).isSome, ∀ k, masterOf x = some k → m ≤ k) → now (exec e { s0 with events := a ++ r })) ∧
    (s.events = [] → s0.dueTimer = some (e, t) → now (exec e t)) ∧
    (s.events = [] → s0.dueTimer = none → s0.nextContext = none → step s = .next s0.settle) ∧
    (turn → u.tries.fetch = .word w t →
      (decode w = .ok i → now (exec i t)) ∧
      (decode w = .error n → now (.next (t.enterTrap t.cur n (w.setWidth 64) t.pc 0 false)))) ∧
    (turn → u.tries.fetch = .privileged w t → now (.next (t.enterTrap t.cur 0x06 (w.setWidth 64) t.pc 0 false))) ∧
    (turn → u.tries.fetch = .failed n t → now (exec (.instructionFetchFault n) t)) ∧
    (turn → u.tries.fetch = .waits t → now (.next t)) ∧
    (turn → u.taskMode = true → u.cx.boot = false → u.pc.toNat < 2 ^ 55 →
      mget? (u.crewAt u.cur.crew).icache (codeKey u.cx.launchId (u.pc.toNat / 128)) = some d →
      decode (lineWord d u.pc.toNat) = .ok i → now (exec i u.tries))

/-- R18, R31, R32, R363, R367, R423, R427: what reset leaves. Every context is FREE, `FPCTL` and `FPFLAGS` are 0, the 32 slices and 16 squads of
a die are in domain 0 in XOR-fold mode, device memory holds 0, UWIN is 30, and no master is the owner.
Model's choices: log 9. -/
def Obligations.ResetState : Prop :=
  let s := State.reset
  s.MemWf ∧ (∀ a, Memory.read s.mem a = 0) ∧ s.pkg.mgmt.owner = 7 ∧ s.pkg.mgmt.pending = false ∧ s.pkg.fields.uwin = 30 ∧
  (∀ i, (s.ctxAt i).st = .free ∧ (s.ctxAt i).fp.fpctl = 0 ∧ (s.ctxAt i).fp.fpflags = 0 ∧ (s.ctxAt i).record = 0) ∧
  (∀ k, (s.crewAt k).queue.entries = [] ∧ (s.crewAt k).nodes = []) ∧
  (∀ d, (s.dieAt d).busy = false ∧ (s.dieAt d).domains =
    [(0, { members := BitVec.allOnes 32, mode := true, squads := BitVec.allOnes 16 })])

/-- Every step of every state keeps device memory in its canonical form: addresses strictly rising, no byte listed that equals the 0 that
power-up leaves (R367). With it, equal memories are equal data. -/
def Obligations.MemoryStaysCanonical : Prop := ∀ s t : State, s.MemWf → step s = .next t → t.MemWf
end

