-- ==== Sys2Proof/Laws/Map.lean ====
section
/-!
SUPPORT. Finite maps and memory: reading after writing, and the canonical form that every memory operation keeps.
-/
namespace Sys2Proof.Machine

variable {α : Type}

/-! Maps. -/

@[simp] theorem mget?_mput_same (m : Map α) (i : Nat) (a : α) : mget? (mput m i a) i = some a := by
  induction m with
  | nil => simp [mput, mget?]
  | cons p r ih =>
    obtain ⟨k, v⟩ := p
    simp only [mput]
    split
    · simp [mget?]
    · split
      · simp [mget?]
      · rename_i h; simp [mget?, h, ih]

theorem mget?_mput_other (m : Map α) {i j : Nat} (a : α) (h : j ≠ i) : mget? (mput m i a) j = mget? m j := by
  induction m with
  | nil => simp [mput, mget?, Ne.symm h]
  | cons p r ih =>
    obtain ⟨k, v⟩ := p
    simp only [mput]
    split
    · simp [mget?, Ne.symm h]
    · split
      · rename_i _ e; subst e; simp [mget?, Ne.symm h]
      · simp [mget?, ih]

@[simp] theorem mget_mput_same (d : α) (m : Map α) (i : Nat) (a : α) : mget d (mput m i a) i = a := by simp [mget]

theorem mget_mput_other (d : α) (m : Map α) {i j : Nat} (a : α) (h : j ≠ i) : mget d (mput m i a) j = mget d m j := by
  simp [mget, mget?_mput_other m a h]

theorem mget_mput (d : α) (m : Map α) (i j : Nat) (a : α) : mget d (mput m i a) j = if j = i then a else mget d m j := by
  by_cases h : j = i
  · subst h; simp
  · simp [h, mget_mput_other d m a h]

@[simp] theorem mput_mput_same (m : Map α) (i : Nat) (a b : α) : mput (mput m i a) i b = mput m i b := by
  induction m with
  | nil => simp [mput]
  | cons p r ih =>
    obtain ⟨k, v⟩ := p
    simp only [mput]
    by_cases h1 : i < k
    · simp [h1, mput]
    · by_cases h2 : k = i
      · subst h2; simp [mput]
      · simp [h1, h2, mput, ih]

/-! Rising keys. -/

theorem risingFrom_mono {m : Map α} {a b : Nat} (h : a ≤ b) (hm : risingFrom b m = true) : risingFrom a m = true := by
  cases m with
  | nil => rfl
  | cons p r =>
    obtain ⟨k, v⟩ := p
    simp only [risingFrom, Bool.and_eq_true, decide_eq_true_eq] at hm ⊢
    exact ⟨Nat.le_trans h hm.1, hm.2⟩

theorem risingFrom_mput {m : Map α} {n i : Nat} (a : α) (hm : risingFrom n m = true) (hi : n ≤ i) :
    risingFrom n (mput m i a) = true := by
  induction m generalizing n with
  | nil => simp [mput, risingFrom, hi]
  | cons p r ih =>
    obtain ⟨k, v⟩ := p
    simp only [risingFrom, Bool.and_eq_true, decide_eq_true_eq] at hm
    simp only [mput]
    split
    · rename_i h
      simp only [risingFrom, Bool.and_eq_true, decide_eq_true_eq]
      exact ⟨hi, h, hm.2⟩
    · split
      · rename_i _ h; subst h
        simp only [risingFrom, Bool.and_eq_true, decide_eq_true_eq]
        exact ⟨hm.1, hm.2⟩
      · rename_i h1 h2
        simp only [risingFrom, Bool.and_eq_true, decide_eq_true_eq]
        exact ⟨hm.1, ih hm.2 (by omega)⟩

theorem risingFrom_mdel {m : Map α} {n : Nat} (i : Nat) (hm : risingFrom n m = true) : risingFrom n (mdel m i) = true := by
  induction m generalizing n with
  | nil => rfl
  | cons p r ih =>
    obtain ⟨k, v⟩ := p
    simp only [risingFrom, Bool.and_eq_true, decide_eq_true_eq] at hm
    simp only [mdel]
    split
    · exact risingFrom_mono (by omega) hm.2
    · simp only [risingFrom, Bool.and_eq_true, decide_eq_true_eq]
      exact ⟨hm.1, ih hm.2⟩

theorem risingFrom_filter {m : Map α} {n : Nat} (q : Nat × α → Bool) (hm : risingFrom n m = true) :
    risingFrom n (m.filter q) = true := by
  induction m generalizing n with
  | nil => rfl
  | cons p r ih =>
    obtain ⟨k, v⟩ := p
    simp only [risingFrom, Bool.and_eq_true, decide_eq_true_eq] at hm
    simp only [List.filter]
    split
    · simp only [risingFrom, Bool.and_eq_true, decide_eq_true_eq]
      exact ⟨hm.1, ih hm.2⟩
    · exact risingFrom_mono (by omega) (ih hm.2)

theorem mget?_none_of_rising {m : Map α} {n i : Nat} (hm : risingFrom n m = true) (hi : i < n) : mget? m i = none := by
  induction m generalizing n with
  | nil => rfl
  | cons p r ih =>
    obtain ⟨k, v⟩ := p
    simp only [risingFrom, Bool.and_eq_true, decide_eq_true_eq] at hm
    have h : k ≠ i := by omega
    simp [mget?, h, ih hm.2 (by omega)]

theorem mget?_mdel {m : Map α} {n : Nat} (i j : Nat) (hm : risingFrom n m = true) :
    mget? (mdel m i) j = if j = i then none else mget? m j := by
  induction m generalizing n with
  | nil => simp [mdel, mget?]
  | cons p r ih =>
    obtain ⟨k, v⟩ := p
    simp only [risingFrom, Bool.and_eq_true, decide_eq_true_eq] at hm
    simp only [mdel]
    split
    · rename_i h; subst h
      by_cases hj : j = k
      · subst hj; simp [mget?_none_of_rising hm.2 (by omega : j < j + 1)]
      · simp [hj, mget?, Ne.symm hj]
    · rename_i h
      by_cases hk : k = j
      · subst hk; simp [mget?, h]
      · simp [mget?, hk, ih hm.2]

/-! Memory. -/

theorem all_mput {q : Nat × α → Bool} {m : Map α} {i : Nat} {a : α} (hm : m.all q = true) (ha : q (i, a) = true) :
    (mput m i a).all q = true := by
  induction m with
  | nil => simp [mput, ha]
  | cons p r ih =>
    obtain ⟨k, v⟩ := p
    simp only [List.all_cons, Bool.and_eq_true] at hm
    simp only [mput]
    split
    · simp only [List.all_cons, Bool.and_eq_true]; exact ⟨ha, hm.1, hm.2⟩
    · split
      · simp only [List.all_cons, Bool.and_eq_true]; exact ⟨ha, hm.2⟩
      · simp only [List.all_cons, Bool.and_eq_true]; exact ⟨hm.1, ih hm.2⟩

theorem all_mdel {q : Nat × α → Bool} {m : Map α} (i : Nat) (hm : m.all q = true) : (mdel m i).all q = true := by
  induction m with
  | nil => rfl
  | cons p r ih =>
    obtain ⟨k, v⟩ := p
    simp only [List.all_cons, Bool.and_eq_true] at hm
    simp only [mdel]
    split
    · exact hm.2
    · simp only [List.all_cons, Bool.and_eq_true]; exact ⟨hm.1, ih hm.2⟩

/-- A memory in canonical form: rising addresses, and no byte equal to the default. -/
theorem Memory.wf_iff (m : Memory) : m.wf = true ↔ risingFrom 0 m = true ∧ m.all (fun c => decide (c.2 ≠ memDefault)) = true := by
  simp [Memory.wf]

/-- Writing a byte keeps the canonical form. -/
theorem Memory.write_wf {m : Memory} (a : Nat) (b : Byte) (h : m.wf = true) : (m.write a b).wf = true := by
  rw [Memory.wf_iff] at h ⊢
  unfold Memory.write
  split
  · exact ⟨risingFrom_mdel a h.1, all_mdel a h.2⟩
  · rename_i hb
    exact ⟨risingFrom_mput b h.1 (Nat.zero_le a), all_mput h.2 (by simpa using hb)⟩

/-- Unlisting bytes keeps the canonical form. -/
theorem Memory.filter_wf {m : Memory} (q : Host.Cell → Bool) (h : m.wf = true) : Memory.wf (m.filter q) = true := by
  rw [Memory.wf_iff] at h ⊢
  refine ⟨risingFrom_filter q h.1, ?_⟩
  have h2 := h.2
  rw [List.all_eq_true] at h2 ⊢
  intro x hx
  exact h2 x (List.mem_filter.1 hx).1

/-- A byte reads as it was written. -/
theorem Memory.read_write_same {m : Memory} (a : Nat) (b : Byte) (h : m.wf = true) : (m.write a b).read a = b := by
  unfold Memory.write Memory.read
  split
  · rename_i hb
    subst hb
    simp [mget, mget?_mdel a a ((Memory.wf_iff m).1 h).1]
  · simp

/-- A write leaves every other byte alone. -/
theorem Memory.read_write_other {m : Memory} {a x : Nat} (b : Byte) (h : m.wf = true) (hx : x ≠ a) :
    (m.write a b).read x = m.read x := by
  unfold Memory.write Memory.read
  split
  · simp [mget, mget?_mdel a x ((Memory.wf_iff m).1 h).1, hx]
  · exact mget_mput_other _ _ _ hx

/-! Several bytes. -/

theorem mget?_append (m r : Map α) (i : Nat) : mget? (m ++ r) i = (mget? m i).or (mget? r i) := by
  induction m with
  | nil => simp [mget?]
  | cons p q ih =>
    obtain ⟨k, v⟩ := p
    by_cases h : k = i <;> simp [mget?, h, ih]

theorem mget?_filter (m : Map α) (q : Nat → Bool) (i : Nat) : mget? (m.filter fun c => q c.1) i = if q i then mget? m i else none := by
  induction m with
  | nil => simp [mget?]
  | cons p r ih =>
    obtain ⟨k, v⟩ := p
    by_cases hk : k = i
    · subst hk
      by_cases h : q k = true
      · simp [List.filter, h, mget?]
      · simp only [Bool.not_eq_true] at h
        simp [List.filter, h, ih]
    · by_cases h : q k = true
      · simp [List.filter, h, mget?, hk, ih]
      · simp only [Bool.not_eq_true] at h
        simp [List.filter, h, mget?, hk, ih]

theorem risingFrom_append {m r : Map α} {n c : Nat} (hm : risingFrom n m = true) (h : m.all (fun p => decide (p.1 < c)) = true)
    (hr : risingFrom c r = true) (hn : n ≤ c) : risingFrom n (m ++ r) = true := by
  induction m generalizing n with
  | nil => exact risingFrom_mono hn hr
  | cons p q ih =>
    obtain ⟨k, v⟩ := p
    simp only [List.all_cons, Bool.and_eq_true, decide_eq_true_eq] at h
    simp only [risingFrom, List.cons_append, Bool.and_eq_true, decide_eq_true_eq] at hm ⊢
    exact ⟨hm.1, ih hm.2 h.2 (by omega)⟩

theorem risingFrom_filter_ge {m : Map α} {n : Nat} (c : Nat) (hm : risingFrom n m = true) :
    risingFrom c (m.filter fun p => decide (c ≤ p.1)) = true := by
  induction m generalizing n with
  | nil => rfl
  | cons p q ih =>
    obtain ⟨k, v⟩ := p
    simp only [risingFrom, Bool.and_eq_true, decide_eq_true_eq] at hm
    by_cases h : c ≤ k
    · simp only [List.filter, h, decide_true, risingFrom, Bool.and_eq_true, true_and]
      exact risingFrom_filter _ hm.2
    · simpa [List.filter, h] using ih hm.2

theorem Memory.ofBytes_rising (a n v : Nat) : risingFrom a (Memory.ofBytes a n v) = true := by
  induction n generalizing a v with
  | zero => rfl
  | succ n ih =>
    simp only [Memory.ofBytes]
    split
    · rfl
    · split
      · exact risingFrom_mono (Nat.le_succ a) (ih _ _)
      · simp [risingFrom, ih]

theorem Memory.ofBytes_lt (a n v : Nat) : (Memory.ofBytes a n v).all (fun p => decide (p.1 < a + n)) = true := by
  induction n generalizing a v with
  | zero => rfl
  | succ n ih =>
    have h := ih (a + 1) (v / 256)
    rw [show a + 1 + n = a + (n + 1) by omega] at h
    simp only [Memory.ofBytes]
    split
    · rfl
    · split
      · exact h
      · simp only [List.all_cons, Bool.and_eq_true, decide_eq_true_eq]
        exact ⟨by omega, h⟩

theorem Memory.ofBytes_listed (a n v : Nat) : (Memory.ofBytes a n v).all (fun c => decide (c.2 ≠ memDefault)) = true := by
  induction n generalizing a v with
  | zero => rfl
  | succ n ih =>
    simp only [Memory.ofBytes]
    split
    · rfl
    · split
      · exact ih _ _
      · rename_i h
        simp only [List.all_cons, Bool.and_eq_true, decide_eq_true_eq]
        exact ⟨h, ih _ _⟩

/-- The byte a list of bytes has at an address. -/
theorem Memory.read_ofBytes (a n v x : Nat) :
    Memory.read (Memory.ofBytes a n v) x = if a ≤ x ∧ x < a + n then BitVec.ofNat 8 (v / 256 ^ (x - a)) else memDefault := by
  have low : ∀ (b k w : Nat), x < b → mget? (Memory.ofBytes b k w) x = none := fun b k w h =>
    mget?_none_of_rising (Memory.ofBytes_rising b k w) h
  induction n generalizing a v with
  | zero => rw [if_neg (by omega)]; rfl
  | succ n ih =>
    have ih := ih (a + 1) (v / 256)
    simp only [Memory.read, mget] at ih ⊢
    by_cases hx : x = a
    · subst hx
      rw [if_pos ⟨Nat.le_refl x, by omega⟩]
      simp only [Memory.ofBytes]
      split
      · rename_i h; subst h; simp [mget?, memDefault]
      · split
        · rename_i h; rw [low _ _ _ (Nat.lt_succ_self x)]; simpa using h.symm
        · simp [mget?]
    · have e : mget? (Memory.ofBytes a (n + 1) v) x = mget? (if v = 0 then [] else Memory.ofBytes (a + 1) n (v / 256)) x := by
        simp only [Memory.ofBytes]
        split
        · rfl
        · split
          · rfl
          · simp [mget?, Ne.symm hx]
      rw [e]
      by_cases hv : v = 0
      · subst hv; simp [mget?, memDefault]
      · rw [if_neg hv, ih]
        by_cases h1 : a + 1 ≤ x ∧ x < a + 1 + n
        · have h2 : a ≤ x ∧ x < a + (n + 1) := by omega
          rw [if_pos h1, if_pos h2, Nat.div_div_eq_div_mul]
          congr 2
          rw [show x - a = (x - (a + 1)) + 1 by omega, Nat.pow_succ, Nat.mul_comm]
        · have h2 : ¬(a ≤ x ∧ x < a + (n + 1)) := by omega
          rw [if_neg h1, if_neg h2]

/-- Writing bytes keeps the canonical form. -/
theorem Memory.writeN_wf {m : Memory} (a n v : Nat) (h : m.wf = true) : (m.writeN a n v).wf = true := by
  rw [Memory.wf_iff] at h ⊢
  unfold Memory.writeN
  have all : ∀ q : Host.Cell → Bool, (m.filter q).all (fun c => decide (c.2 ≠ memDefault)) = true := fun q => by
    have h2 := h.2
    rw [List.all_eq_true] at h2 ⊢
    exact fun x hx => h2 x (List.mem_filter.1 hx).1
  constructor
  · refine risingFrom_append (c := a + n) (risingFrom_append (c := a) (risingFrom_filter _ h.1) ?_ (Memory.ofBytes_rising a n v) (Nat.zero_le a))
      ?_ (risingFrom_filter_ge (a + n) h.1) (Nat.zero_le _)
    · rw [List.all_eq_true]; exact fun x hx => (List.mem_filter.1 hx).2
    · rw [List.all_append, Memory.ofBytes_lt, Bool.and_true, List.all_eq_true]
      intro x hx
      have := (List.mem_filter.1 hx).2
      simp only [decide_eq_true_eq] at this ⊢
      omega
  · rw [List.all_append, List.all_append, all, all, Memory.ofBytes_listed]; rfl

/-- A byte after a write: the value's inside, as before elsewhere. -/
theorem Memory.read_writeN (m : Memory) (a n v x : Nat) :
    (m.writeN a n v).read x = if a ≤ x ∧ x < a + n then BitVec.ofNat 8 (v / 256 ^ (x - a)) else m.read x := by
  have hb := Memory.read_ofBytes a n v x
  simp only [Memory.read, mget, Memory.writeN, mget?_append] at hb ⊢
  rw [mget?_filter m (fun k => decide (k < a)), mget?_filter m (fun k => decide (a + n ≤ k))]
  by_cases h1 : x < a
  · have h2 : ¬(a ≤ x ∧ x < a + n) := by omega
    have h3 : ¬(a + n ≤ x) := by omega
    have h4 : mget? (Memory.ofBytes a n v) x = none := mget?_none_of_rising (Memory.ofBytes_rising a n v) h1
    simp [h1, h3, h4] <;> omega
  · by_cases h2 : a + n ≤ x
    · have h3 : ¬(a ≤ x ∧ x < a + n) := by omega
      have h4 : mget? (Memory.ofBytes a n v) x = none := by
        cases e : mget? (Memory.ofBytes a n v) x with
        | none => rfl
        | some b =>
          have mem : ∀ (q : Memory), mget? q x = some b → (x, b) ∈ q := by
            intro q
            induction q with
            | nil => intro h; cases h
            | cons p r ih =>
              obtain ⟨k, w⟩ := p
              simp only [mget?]
              split
              · rename_i hk; subst hk; intro h; cases h; exact List.mem_cons_self
              · exact fun h => List.mem_cons_of_mem _ (ih h)
          have := (List.all_eq_true.1 (Memory.ofBytes_lt a n v)) _ (mem _ e)
          simp only [decide_eq_true_eq] at this
          omega
      simp [h1, h2, h4] <;> omega
    · have hc : a ≤ x ∧ x < a + n := ⟨by omega, by omega⟩
      rw [if_pos hc] at hb
      rw [if_pos hc]
      simpa [h1, h2] using hb

/-- The bytes from an address, one at a time. -/
theorem Memory.readN_succ {m : Memory} (a n : Nat) (h : m.wf = true) :
    m.readN a (n + 1) = (m.read a).toNat + 256 * m.readN (a + 1) n := by
  have key : ∀ (m : Memory) (c : Nat), risingFrom c m = true → Memory.readN m a (n + 1) = (Memory.read m a).toNat + 256 * Memory.readN m (a + 1) n := by
    intro m
    induction m with
    | nil => intro _ _; simp [Memory.readN, Memory.read, mget, mget?, memDefault]
    | cons p r ih =>
      obtain ⟨k, b⟩ := p
      intro c hm
      simp only [risingFrom, Bool.and_eq_true, decide_eq_true_eq] at hm
      have ih := ih _ hm.2
      simp only [Memory.readN, Memory.read, mget, mget?] at ih ⊢
      by_cases h1 : k < a
      · rw [if_pos h1, if_pos (by omega : k < a + 1), if_neg (by omega : ¬k = a), ih]
      · rw [if_neg h1]
        by_cases h2 : k = a
        · subst h2
          have hr : mget? r k = none := mget?_none_of_rising hm.2 (Nat.lt_succ_self k)
          rw [hr] at ih
          simp only [Option.getD_none, memDefault] at ih
          rw [if_pos (by omega), if_pos rfl, if_pos (by omega : k < k + 1), ih]
          simp
        · rw [if_neg h2, if_neg (by omega : ¬k < a + 1)]
          have hr : mget? r a = none := mget?_none_of_rising hm.2 (by omega)
          rw [hr] at ih ⊢
          simp only [Option.getD_none, memDefault] at ih ⊢
          by_cases h3 : k < a + (n + 1)
          · rw [if_pos h3, if_pos (by omega : k < a + 1 + n), ih, show k - a = (k - (a + 1)) + 1 by omega, Nat.pow_succ]
            simp [Nat.mul_add, Nat.mul_comm, Nat.mul_left_comm]
          · rw [if_neg h3, if_neg (by omega : ¬k < a + 1 + n)]
            simp
  exact key m 0 ((Memory.wf_iff m).1 h).1

theorem Memory.readN_zero {m : Memory} (a : Nat) : m.readN a 0 = 0 := by
  induction m with
  | nil => rfl
  | cons p r ih =>
    obtain ⟨k, b⟩ := p
    simp only [Memory.readN, ih, Nat.add_zero]
    split <;> rfl

theorem Memory.readN_congr {m m' : Memory} (a n : Nat) (hm : m.wf = true) (hm' : m'.wf = true)
    (h : ∀ x, a ≤ x → x < a + n → m.read x = m'.read x) : m.readN a n = m'.readN a n := by
  induction n generalizing a with
  | zero => rw [Memory.readN_zero, Memory.readN_zero]
  | succ n ih =>
    rw [Memory.readN_succ a n hm, Memory.readN_succ a n hm', h a (by omega) (by omega),
      ih (a + 1) fun x h1 h2 => h x (by omega) (by omega)]

theorem Memory.readN_lt {m : Memory} (a n : Nat) (h : m.wf = true) : m.readN a n < 256 ^ n := by
  induction n generalizing a with
  | zero => simp [Memory.readN_zero]
  | succ n ih =>
    rw [Memory.readN_succ a n h]
    have h1 := ih (a + 1)
    have h2 : (m.read a).toNat < 256 := (m.read a).isLt
    rw [Nat.pow_succ]
    omega

/-- A byte of what lies from an address on. -/
theorem Memory.readN_byte {m : Memory} (a n k : Nat) (h : m.wf = true) (hk : k < n) :
    BitVec.ofNat 8 (m.readN a n / 256 ^ k) = m.read (a + k) := by
  induction k generalizing a n with
  | zero =>
    obtain ⟨n, rfl⟩ : ∃ j, n = j + 1 := ⟨n - 1, by omega⟩
    rw [Memory.readN_succ a n h]
    apply BitVec.eq_of_toNat_eq
    have h2 : (m.read a).toNat < 256 := (m.read a).isLt
    simp
    omega
  | succ k ih =>
    obtain ⟨n, rfl⟩ : ∃ j, n = j + 1 := ⟨n - 1, by omega⟩
    rw [Memory.readN_succ a n h, Nat.pow_succ, Nat.mul_comm (256 ^ k), ← Nat.div_div_eq_div_mul,
      show ((m.read a).toNat + 256 * m.readN (a + 1) n) / 256 = m.readN (a + 1) n by
        have h2 : (m.read a).toNat < 256 := (m.read a).isLt
        omega,
      ih (a + 1) n (by omega), show a + 1 + k = a + (k + 1) by omega]

/-- What was written is read back. -/
theorem Memory.readN_writeN {m : Memory} (a n v : Nat) (h : m.wf = true) : (m.writeN a n v).readN a n = v % 256 ^ n := by
  have key : ∀ (k b w : Nat) (p : Memory), p.wf = true → (∀ x, b ≤ x → x < b + k → p.read x = BitVec.ofNat 8 (w / 256 ^ (x - b))) →
      p.readN b k = w % 256 ^ k := by
    intro k
    induction k with
    | zero => intro b w p _ _; simp [Memory.readN_zero, Nat.mod_one]
    | succ k ih =>
      intro b w p hw hp
      rw [Memory.readN_succ b k hw, hp b (by omega) (by omega), ih (b + 1) (w / 256) p hw]
      · simp only [Nat.sub_self, Nat.pow_zero, Nat.div_one, BitVec.toNat_ofNat, Nat.reducePow]
        rw [Nat.pow_succ, Nat.mul_comm (256 ^ k) 256, Nat.mod_mul]
      · intro x h1 h2
        rw [hp x (by omega) (by omega), Nat.div_div_eq_div_mul]
        congr 2
        rw [show x - b = (x - (b + 1)) + 1 by omega, Nat.pow_succ, Nat.mul_comm]
  apply key
  · exact Memory.writeN_wf _ _ _ h
  · intro x h1 h2
    rw [Memory.read_writeN m a n v x, if_pos ⟨h1, h2⟩]

/-- A write elsewhere leaves some bytes alone. -/
theorem Memory.readN_writeN_apart {m : Memory} (a n v b k : Nat) (h : m.wf = true) (hd : b + k ≤ a ∨ a + n ≤ b) :
    (m.writeN a n v).readN b k = m.readN b k := by
  apply Memory.readN_congr _ _ (Memory.writeN_wf _ _ _ h) h
  intro x h1 h2
  rw [Memory.read_writeN m a n v x, if_neg (by omega)]

end Sys2Proof.Machine
end

