-- ==== Sys2Proof/Laws/State.lean ====
section
/-!
SUPPORT. One lemma per field per update of the state: the fields an update leaves alone read as before.
-/
namespace Sys2Proof.Machine

/-! `updCrew` -/

@[simp] theorem State.cur_updCrew (s : State) (k : Nat) (f : Crew → Crew) : (s.updCrew k f).cur = s.cur := rfl
@[simp] theorem State.tick_updCrew (s : State) (k : Nat) (f : Crew → Crew) : (s.updCrew k f).tick = s.tick := rfl
@[simp] theorem State.clock_updCrew (s : State) (k : Nat) (f : Crew → Crew) : (s.updCrew k f).clock = s.clock := rfl
@[simp] theorem State.events_updCrew (s : State) (k : Nat) (f : Crew → Crew) : (s.updCrew k f).events = s.events := rfl
@[simp] theorem State.actor_updCrew (s : State) (k : Nat) (f : Crew → Crew) : (s.updCrew k f).actor = s.actor := rfl
@[simp] theorem State.dies_updCrew (s : State) (k : Nat) (f : Crew → Crew) : (s.updCrew k f).dies = s.dies := rfl
@[simp] theorem State.mem_updCrew (s : State) (k : Nat) (f : Crew → Crew) : (s.updCrew k f).mem = s.mem := rfl
@[simp] theorem State.lines_updCrew (s : State) (k : Nat) (f : Crew → Crew) : (s.updCrew k f).lines = s.lines := rfl
@[simp] theorem State.copies_updCrew (s : State) (k : Nat) (f : Crew → Crew) : (s.updCrew k f).copies = s.copies := rfl
@[simp] theorem State.leaves_updCrew (s : State) (k : Nat) (f : Crew → Crew) : (s.updCrew k f).leaves = s.leaves := rfl
@[simp] theorem State.walks_updCrew (s : State) (k : Nat) (f : Crew → Crew) : (s.updCrew k f).walks = s.walks := rfl
@[simp] theorem State.watches_updCrew (s : State) (k : Nat) (f : Crew → Crew) : (s.updCrew k f).watches = s.watches := rfl
@[simp] theorem State.slots_updCrew (s : State) (k : Nat) (f : Crew → Crew) : (s.updCrew k f).slots = s.slots := rfl
@[simp] theorem State.posts_updCrew (s : State) (k : Nat) (f : Crew → Crew) : (s.updCrew k f).posts = s.posts := rfl
@[simp] theorem State.owed_updCrew (s : State) (k : Nat) (f : Crew → Crew) : (s.updCrew k f).owed = s.owed := rfl
@[simp] theorem State.flying_updCrew (s : State) (k : Nat) (f : Crew → Crew) : (s.updCrew k f).flying = s.flying := rfl
@[simp] theorem State.flown_updCrew (s : State) (k : Nat) (f : Crew → Crew) : (s.updCrew k f).flown = s.flown := rfl
@[simp] theorem State.replies_updCrew (s : State) (k : Nat) (f : Crew → Crew) : (s.updCrew k f).replies = s.replies := rfl
@[simp] theorem State.heldJoins_updCrew (s : State) (k : Nat) (f : Crew → Crew) : (s.updCrew k f).heldJoins = s.heldJoins := rfl
@[simp] theorem State.busyList_updCrew (s : State) (k : Nat) (f : Crew → Crew) : (s.updCrew k f).busyList = s.busyList := rfl
@[simp] theorem State.retry_updCrew (s : State) (k : Nat) (f : Crew → Crew) : (s.updCrew k f).retry = s.retry := rfl
@[simp] theorem State.serving_updCrew (s : State) (k : Nat) (f : Crew → Crew) : (s.updCrew k f).serving = s.serving := rfl
@[simp] theorem State.hostrep_updCrew (s : State) (k : Nat) (f : Crew → Crew) : (s.updCrew k f).hostrep = s.hostrep := rfl
@[simp] theorem State.hostData_updCrew (s : State) (k : Nat) (f : Crew → Crew) : (s.updCrew k f).hostData = s.hostData := rfl
@[simp] theorem State.arrivals_updCrew (s : State) (k : Nat) (f : Crew → Crew) : (s.updCrew k f).arrivals = s.arrivals := rfl
@[simp] theorem State.hostMem_updCrew (s : State) (k : Nat) (f : Crew → Crew) : (s.updCrew k f).hostMem = s.hostMem := rfl
@[simp] theorem State.shadows_updCrew (s : State) (k : Nat) (f : Crew → Crew) : (s.updCrew k f).shadows = s.shadows := rfl
@[simp] theorem State.homes_updCrew (s : State) (k : Nat) (f : Crew → Crew) : (s.updCrew k f).homes = s.homes := rfl
@[simp] theorem State.timers_updCrew (s : State) (k : Nat) (f : Crew → Crew) : (s.updCrew k f).timers = s.timers := rfl
@[simp] theorem State.pkg_updCrew (s : State) (k : Nat) (f : Crew → Crew) : (s.updCrew k f).pkg = s.pkg := rfl

/-! `updCtx` -/

@[simp] theorem State.cur_updCtx (s : State) (i : CtxId) (f : Ctx → Ctx) : (s.updCtx i f).cur = s.cur := rfl
@[simp] theorem State.tick_updCtx (s : State) (i : CtxId) (f : Ctx → Ctx) : (s.updCtx i f).tick = s.tick := rfl
@[simp] theorem State.clock_updCtx (s : State) (i : CtxId) (f : Ctx → Ctx) : (s.updCtx i f).clock = s.clock := rfl
@[simp] theorem State.events_updCtx (s : State) (i : CtxId) (f : Ctx → Ctx) : (s.updCtx i f).events = s.events := rfl
@[simp] theorem State.actor_updCtx (s : State) (i : CtxId) (f : Ctx → Ctx) : (s.updCtx i f).actor = s.actor := rfl
@[simp] theorem State.dies_updCtx (s : State) (i : CtxId) (f : Ctx → Ctx) : (s.updCtx i f).dies = s.dies := rfl
@[simp] theorem State.mem_updCtx (s : State) (i : CtxId) (f : Ctx → Ctx) : (s.updCtx i f).mem = s.mem := rfl
@[simp] theorem State.lines_updCtx (s : State) (i : CtxId) (f : Ctx → Ctx) : (s.updCtx i f).lines = s.lines := rfl
@[simp] theorem State.copies_updCtx (s : State) (i : CtxId) (f : Ctx → Ctx) : (s.updCtx i f).copies = s.copies := rfl
@[simp] theorem State.leaves_updCtx (s : State) (i : CtxId) (f : Ctx → Ctx) : (s.updCtx i f).leaves = s.leaves := rfl
@[simp] theorem State.walks_updCtx (s : State) (i : CtxId) (f : Ctx → Ctx) : (s.updCtx i f).walks = s.walks := rfl
@[simp] theorem State.watches_updCtx (s : State) (i : CtxId) (f : Ctx → Ctx) : (s.updCtx i f).watches = s.watches := rfl
@[simp] theorem State.slots_updCtx (s : State) (i : CtxId) (f : Ctx → Ctx) : (s.updCtx i f).slots = s.slots := rfl
@[simp] theorem State.posts_updCtx (s : State) (i : CtxId) (f : Ctx → Ctx) : (s.updCtx i f).posts = s.posts := rfl
@[simp] theorem State.owed_updCtx (s : State) (i : CtxId) (f : Ctx → Ctx) : (s.updCtx i f).owed = s.owed := rfl
@[simp] theorem State.flying_updCtx (s : State) (i : CtxId) (f : Ctx → Ctx) : (s.updCtx i f).flying = s.flying := rfl
@[simp] theorem State.flown_updCtx (s : State) (i : CtxId) (f : Ctx → Ctx) : (s.updCtx i f).flown = s.flown := rfl
@[simp] theorem State.replies_updCtx (s : State) (i : CtxId) (f : Ctx → Ctx) : (s.updCtx i f).replies = s.replies := rfl
@[simp] theorem State.heldJoins_updCtx (s : State) (i : CtxId) (f : Ctx → Ctx) : (s.updCtx i f).heldJoins = s.heldJoins := rfl
@[simp] theorem State.busyList_updCtx (s : State) (i : CtxId) (f : Ctx → Ctx) : (s.updCtx i f).busyList = s.busyList := rfl
@[simp] theorem State.retry_updCtx (s : State) (i : CtxId) (f : Ctx → Ctx) : (s.updCtx i f).retry = s.retry := rfl
@[simp] theorem State.serving_updCtx (s : State) (i : CtxId) (f : Ctx → Ctx) : (s.updCtx i f).serving = s.serving := rfl
@[simp] theorem State.hostrep_updCtx (s : State) (i : CtxId) (f : Ctx → Ctx) : (s.updCtx i f).hostrep = s.hostrep := rfl
@[simp] theorem State.hostData_updCtx (s : State) (i : CtxId) (f : Ctx → Ctx) : (s.updCtx i f).hostData = s.hostData := rfl
@[simp] theorem State.arrivals_updCtx (s : State) (i : CtxId) (f : Ctx → Ctx) : (s.updCtx i f).arrivals = s.arrivals := rfl
@[simp] theorem State.hostMem_updCtx (s : State) (i : CtxId) (f : Ctx → Ctx) : (s.updCtx i f).hostMem = s.hostMem := rfl
@[simp] theorem State.shadows_updCtx (s : State) (i : CtxId) (f : Ctx → Ctx) : (s.updCtx i f).shadows = s.shadows := rfl
@[simp] theorem State.homes_updCtx (s : State) (i : CtxId) (f : Ctx → Ctx) : (s.updCtx i f).homes = s.homes := rfl
@[simp] theorem State.timers_updCtx (s : State) (i : CtxId) (f : Ctx → Ctx) : (s.updCtx i f).timers = s.timers := rfl
@[simp] theorem State.pkg_updCtx (s : State) (i : CtxId) (f : Ctx → Ctx) : (s.updCtx i f).pkg = s.pkg := rfl

/-! `upd` -/

@[simp] theorem State.cur_upd (s : State) (f : Ctx → Ctx) : (s.upd f).cur = s.cur := rfl
@[simp] theorem State.tick_upd (s : State) (f : Ctx → Ctx) : (s.upd f).tick = s.tick := rfl
@[simp] theorem State.clock_upd (s : State) (f : Ctx → Ctx) : (s.upd f).clock = s.clock := rfl
@[simp] theorem State.events_upd (s : State) (f : Ctx → Ctx) : (s.upd f).events = s.events := rfl
@[simp] theorem State.actor_upd (s : State) (f : Ctx → Ctx) : (s.upd f).actor = s.actor := rfl
@[simp] theorem State.dies_upd (s : State) (f : Ctx → Ctx) : (s.upd f).dies = s.dies := rfl
@[simp] theorem State.mem_upd (s : State) (f : Ctx → Ctx) : (s.upd f).mem = s.mem := rfl
@[simp] theorem State.lines_upd (s : State) (f : Ctx → Ctx) : (s.upd f).lines = s.lines := rfl
@[simp] theorem State.copies_upd (s : State) (f : Ctx → Ctx) : (s.upd f).copies = s.copies := rfl
@[simp] theorem State.leaves_upd (s : State) (f : Ctx → Ctx) : (s.upd f).leaves = s.leaves := rfl
@[simp] theorem State.walks_upd (s : State) (f : Ctx → Ctx) : (s.upd f).walks = s.walks := rfl
@[simp] theorem State.watches_upd (s : State) (f : Ctx → Ctx) : (s.upd f).watches = s.watches := rfl
@[simp] theorem State.slots_upd (s : State) (f : Ctx → Ctx) : (s.upd f).slots = s.slots := rfl
@[simp] theorem State.posts_upd (s : State) (f : Ctx → Ctx) : (s.upd f).posts = s.posts := rfl
@[simp] theorem State.owed_upd (s : State) (f : Ctx → Ctx) : (s.upd f).owed = s.owed := rfl
@[simp] theorem State.flying_upd (s : State) (f : Ctx → Ctx) : (s.upd f).flying = s.flying := rfl
@[simp] theorem State.flown_upd (s : State) (f : Ctx → Ctx) : (s.upd f).flown = s.flown := rfl
@[simp] theorem State.replies_upd (s : State) (f : Ctx → Ctx) : (s.upd f).replies = s.replies := rfl
@[simp] theorem State.heldJoins_upd (s : State) (f : Ctx → Ctx) : (s.upd f).heldJoins = s.heldJoins := rfl
@[simp] theorem State.busyList_upd (s : State) (f : Ctx → Ctx) : (s.upd f).busyList = s.busyList := rfl
@[simp] theorem State.retry_upd (s : State) (f : Ctx → Ctx) : (s.upd f).retry = s.retry := rfl
@[simp] theorem State.serving_upd (s : State) (f : Ctx → Ctx) : (s.upd f).serving = s.serving := rfl
@[simp] theorem State.hostrep_upd (s : State) (f : Ctx → Ctx) : (s.upd f).hostrep = s.hostrep := rfl
@[simp] theorem State.hostData_upd (s : State) (f : Ctx → Ctx) : (s.upd f).hostData = s.hostData := rfl
@[simp] theorem State.arrivals_upd (s : State) (f : Ctx → Ctx) : (s.upd f).arrivals = s.arrivals := rfl
@[simp] theorem State.hostMem_upd (s : State) (f : Ctx → Ctx) : (s.upd f).hostMem = s.hostMem := rfl
@[simp] theorem State.shadows_upd (s : State) (f : Ctx → Ctx) : (s.upd f).shadows = s.shadows := rfl
@[simp] theorem State.homes_upd (s : State) (f : Ctx → Ctx) : (s.upd f).homes = s.homes := rfl
@[simp] theorem State.timers_upd (s : State) (f : Ctx → Ctx) : (s.upd f).timers = s.timers := rfl
@[simp] theorem State.pkg_upd (s : State) (f : Ctx → Ctx) : (s.upd f).pkg = s.pkg := rfl

/-! `setX` -/

@[simp] theorem State.cur_setX (s : State) (r : BitVec 6) (v : Word) : (s.setX r v).cur = s.cur := rfl
@[simp] theorem State.tick_setX (s : State) (r : BitVec 6) (v : Word) : (s.setX r v).tick = s.tick := rfl
@[simp] theorem State.clock_setX (s : State) (r : BitVec 6) (v : Word) : (s.setX r v).clock = s.clock := rfl
@[simp] theorem State.events_setX (s : State) (r : BitVec 6) (v : Word) : (s.setX r v).events = s.events := rfl
@[simp] theorem State.actor_setX (s : State) (r : BitVec 6) (v : Word) : (s.setX r v).actor = s.actor := rfl
@[simp] theorem State.dies_setX (s : State) (r : BitVec 6) (v : Word) : (s.setX r v).dies = s.dies := rfl
@[simp] theorem State.mem_setX (s : State) (r : BitVec 6) (v : Word) : (s.setX r v).mem = s.mem := rfl
@[simp] theorem State.lines_setX (s : State) (r : BitVec 6) (v : Word) : (s.setX r v).lines = s.lines := rfl
@[simp] theorem State.copies_setX (s : State) (r : BitVec 6) (v : Word) : (s.setX r v).copies = s.copies := rfl
@[simp] theorem State.leaves_setX (s : State) (r : BitVec 6) (v : Word) : (s.setX r v).leaves = s.leaves := rfl
@[simp] theorem State.walks_setX (s : State) (r : BitVec 6) (v : Word) : (s.setX r v).walks = s.walks := rfl
@[simp] theorem State.watches_setX (s : State) (r : BitVec 6) (v : Word) : (s.setX r v).watches = s.watches := rfl
@[simp] theorem State.slots_setX (s : State) (r : BitVec 6) (v : Word) : (s.setX r v).slots = s.slots := rfl
@[simp] theorem State.posts_setX (s : State) (r : BitVec 6) (v : Word) : (s.setX r v).posts = s.posts := rfl
@[simp] theorem State.owed_setX (s : State) (r : BitVec 6) (v : Word) : (s.setX r v).owed = s.owed := rfl
@[simp] theorem State.flying_setX (s : State) (r : BitVec 6) (v : Word) : (s.setX r v).flying = s.flying := rfl
@[simp] theorem State.flown_setX (s : State) (r : BitVec 6) (v : Word) : (s.setX r v).flown = s.flown := rfl
@[simp] theorem State.replies_setX (s : State) (r : BitVec 6) (v : Word) : (s.setX r v).replies = s.replies := rfl
@[simp] theorem State.heldJoins_setX (s : State) (r : BitVec 6) (v : Word) : (s.setX r v).heldJoins = s.heldJoins := rfl
@[simp] theorem State.busyList_setX (s : State) (r : BitVec 6) (v : Word) : (s.setX r v).busyList = s.busyList := rfl
@[simp] theorem State.retry_setX (s : State) (r : BitVec 6) (v : Word) : (s.setX r v).retry = s.retry := rfl
@[simp] theorem State.serving_setX (s : State) (r : BitVec 6) (v : Word) : (s.setX r v).serving = s.serving := rfl
@[simp] theorem State.hostrep_setX (s : State) (r : BitVec 6) (v : Word) : (s.setX r v).hostrep = s.hostrep := rfl
@[simp] theorem State.hostData_setX (s : State) (r : BitVec 6) (v : Word) : (s.setX r v).hostData = s.hostData := rfl
@[simp] theorem State.arrivals_setX (s : State) (r : BitVec 6) (v : Word) : (s.setX r v).arrivals = s.arrivals := rfl
@[simp] theorem State.hostMem_setX (s : State) (r : BitVec 6) (v : Word) : (s.setX r v).hostMem = s.hostMem := rfl
@[simp] theorem State.shadows_setX (s : State) (r : BitVec 6) (v : Word) : (s.setX r v).shadows = s.shadows := rfl
@[simp] theorem State.homes_setX (s : State) (r : BitVec 6) (v : Word) : (s.setX r v).homes = s.homes := rfl
@[simp] theorem State.timers_setX (s : State) (r : BitVec 6) (v : Word) : (s.setX r v).timers = s.timers := rfl
@[simp] theorem State.pkg_setX (s : State) (r : BitVec 6) (v : Word) : (s.setX r v).pkg = s.pkg := rfl

/-! `setP` -/

@[simp] theorem State.cur_setP (s : State) (r : BitVec 3) (b : Bool) : (s.setP r b).cur = s.cur := rfl
@[simp] theorem State.tick_setP (s : State) (r : BitVec 3) (b : Bool) : (s.setP r b).tick = s.tick := rfl
@[simp] theorem State.clock_setP (s : State) (r : BitVec 3) (b : Bool) : (s.setP r b).clock = s.clock := rfl
@[simp] theorem State.events_setP (s : State) (r : BitVec 3) (b : Bool) : (s.setP r b).events = s.events := rfl
@[simp] theorem State.actor_setP (s : State) (r : BitVec 3) (b : Bool) : (s.setP r b).actor = s.actor := rfl
@[simp] theorem State.dies_setP (s : State) (r : BitVec 3) (b : Bool) : (s.setP r b).dies = s.dies := rfl
@[simp] theorem State.mem_setP (s : State) (r : BitVec 3) (b : Bool) : (s.setP r b).mem = s.mem := rfl
@[simp] theorem State.lines_setP (s : State) (r : BitVec 3) (b : Bool) : (s.setP r b).lines = s.lines := rfl
@[simp] theorem State.copies_setP (s : State) (r : BitVec 3) (b : Bool) : (s.setP r b).copies = s.copies := rfl
@[simp] theorem State.leaves_setP (s : State) (r : BitVec 3) (b : Bool) : (s.setP r b).leaves = s.leaves := rfl
@[simp] theorem State.walks_setP (s : State) (r : BitVec 3) (b : Bool) : (s.setP r b).walks = s.walks := rfl
@[simp] theorem State.watches_setP (s : State) (r : BitVec 3) (b : Bool) : (s.setP r b).watches = s.watches := rfl
@[simp] theorem State.slots_setP (s : State) (r : BitVec 3) (b : Bool) : (s.setP r b).slots = s.slots := rfl
@[simp] theorem State.posts_setP (s : State) (r : BitVec 3) (b : Bool) : (s.setP r b).posts = s.posts := rfl
@[simp] theorem State.owed_setP (s : State) (r : BitVec 3) (b : Bool) : (s.setP r b).owed = s.owed := rfl
@[simp] theorem State.flying_setP (s : State) (r : BitVec 3) (b : Bool) : (s.setP r b).flying = s.flying := rfl
@[simp] theorem State.flown_setP (s : State) (r : BitVec 3) (b : Bool) : (s.setP r b).flown = s.flown := rfl
@[simp] theorem State.replies_setP (s : State) (r : BitVec 3) (b : Bool) : (s.setP r b).replies = s.replies := rfl
@[simp] theorem State.heldJoins_setP (s : State) (r : BitVec 3) (b : Bool) : (s.setP r b).heldJoins = s.heldJoins := rfl
@[simp] theorem State.busyList_setP (s : State) (r : BitVec 3) (b : Bool) : (s.setP r b).busyList = s.busyList := rfl
@[simp] theorem State.retry_setP (s : State) (r : BitVec 3) (b : Bool) : (s.setP r b).retry = s.retry := rfl
@[simp] theorem State.serving_setP (s : State) (r : BitVec 3) (b : Bool) : (s.setP r b).serving = s.serving := rfl
@[simp] theorem State.hostrep_setP (s : State) (r : BitVec 3) (b : Bool) : (s.setP r b).hostrep = s.hostrep := rfl
@[simp] theorem State.hostData_setP (s : State) (r : BitVec 3) (b : Bool) : (s.setP r b).hostData = s.hostData := rfl
@[simp] theorem State.arrivals_setP (s : State) (r : BitVec 3) (b : Bool) : (s.setP r b).arrivals = s.arrivals := rfl
@[simp] theorem State.hostMem_setP (s : State) (r : BitVec 3) (b : Bool) : (s.setP r b).hostMem = s.hostMem := rfl
@[simp] theorem State.shadows_setP (s : State) (r : BitVec 3) (b : Bool) : (s.setP r b).shadows = s.shadows := rfl
@[simp] theorem State.homes_setP (s : State) (r : BitVec 3) (b : Bool) : (s.setP r b).homes = s.homes := rfl
@[simp] theorem State.timers_setP (s : State) (r : BitVec 3) (b : Bool) : (s.setP r b).timers = s.timers := rfl
@[simp] theorem State.pkg_setP (s : State) (r : BitVec 3) (b : Bool) : (s.setP r b).pkg = s.pkg := rfl

/-! `setV` -/

@[simp] theorem State.cur_setV (s : State) (r : BitVec 5) (v : VReg) : (s.setV r v).cur = s.cur := rfl
@[simp] theorem State.tick_setV (s : State) (r : BitVec 5) (v : VReg) : (s.setV r v).tick = s.tick := rfl
@[simp] theorem State.clock_setV (s : State) (r : BitVec 5) (v : VReg) : (s.setV r v).clock = s.clock := rfl
@[simp] theorem State.events_setV (s : State) (r : BitVec 5) (v : VReg) : (s.setV r v).events = s.events := rfl
@[simp] theorem State.actor_setV (s : State) (r : BitVec 5) (v : VReg) : (s.setV r v).actor = s.actor := rfl
@[simp] theorem State.dies_setV (s : State) (r : BitVec 5) (v : VReg) : (s.setV r v).dies = s.dies := rfl
@[simp] theorem State.mem_setV (s : State) (r : BitVec 5) (v : VReg) : (s.setV r v).mem = s.mem := rfl
@[simp] theorem State.lines_setV (s : State) (r : BitVec 5) (v : VReg) : (s.setV r v).lines = s.lines := rfl
@[simp] theorem State.copies_setV (s : State) (r : BitVec 5) (v : VReg) : (s.setV r v).copies = s.copies := rfl
@[simp] theorem State.leaves_setV (s : State) (r : BitVec 5) (v : VReg) : (s.setV r v).leaves = s.leaves := rfl
@[simp] theorem State.walks_setV (s : State) (r : BitVec 5) (v : VReg) : (s.setV r v).walks = s.walks := rfl
@[simp] theorem State.watches_setV (s : State) (r : BitVec 5) (v : VReg) : (s.setV r v).watches = s.watches := rfl
@[simp] theorem State.slots_setV (s : State) (r : BitVec 5) (v : VReg) : (s.setV r v).slots = s.slots := rfl
@[simp] theorem State.posts_setV (s : State) (r : BitVec 5) (v : VReg) : (s.setV r v).posts = s.posts := rfl
@[simp] theorem State.owed_setV (s : State) (r : BitVec 5) (v : VReg) : (s.setV r v).owed = s.owed := rfl
@[simp] theorem State.flying_setV (s : State) (r : BitVec 5) (v : VReg) : (s.setV r v).flying = s.flying := rfl
@[simp] theorem State.flown_setV (s : State) (r : BitVec 5) (v : VReg) : (s.setV r v).flown = s.flown := rfl
@[simp] theorem State.replies_setV (s : State) (r : BitVec 5) (v : VReg) : (s.setV r v).replies = s.replies := rfl
@[simp] theorem State.heldJoins_setV (s : State) (r : BitVec 5) (v : VReg) : (s.setV r v).heldJoins = s.heldJoins := rfl
@[simp] theorem State.busyList_setV (s : State) (r : BitVec 5) (v : VReg) : (s.setV r v).busyList = s.busyList := rfl
@[simp] theorem State.retry_setV (s : State) (r : BitVec 5) (v : VReg) : (s.setV r v).retry = s.retry := rfl
@[simp] theorem State.serving_setV (s : State) (r : BitVec 5) (v : VReg) : (s.setV r v).serving = s.serving := rfl
@[simp] theorem State.hostrep_setV (s : State) (r : BitVec 5) (v : VReg) : (s.setV r v).hostrep = s.hostrep := rfl
@[simp] theorem State.hostData_setV (s : State) (r : BitVec 5) (v : VReg) : (s.setV r v).hostData = s.hostData := rfl
@[simp] theorem State.arrivals_setV (s : State) (r : BitVec 5) (v : VReg) : (s.setV r v).arrivals = s.arrivals := rfl
@[simp] theorem State.hostMem_setV (s : State) (r : BitVec 5) (v : VReg) : (s.setV r v).hostMem = s.hostMem := rfl
@[simp] theorem State.shadows_setV (s : State) (r : BitVec 5) (v : VReg) : (s.setV r v).shadows = s.shadows := rfl
@[simp] theorem State.homes_setV (s : State) (r : BitVec 5) (v : VReg) : (s.setV r v).homes = s.homes := rfl
@[simp] theorem State.timers_setV (s : State) (r : BitVec 5) (v : VReg) : (s.setV r v).timers = s.timers := rfl
@[simp] theorem State.pkg_setV (s : State) (r : BitVec 5) (v : VReg) : (s.setV r v).pkg = s.pkg := rfl

/-! `setLoop` -/

@[simp] theorem State.cur_setLoop (s : State) (n : BitVec 1) (l : Loop) : (s.setLoop n l).cur = s.cur := rfl
@[simp] theorem State.tick_setLoop (s : State) (n : BitVec 1) (l : Loop) : (s.setLoop n l).tick = s.tick := rfl
@[simp] theorem State.clock_setLoop (s : State) (n : BitVec 1) (l : Loop) : (s.setLoop n l).clock = s.clock := rfl
@[simp] theorem State.events_setLoop (s : State) (n : BitVec 1) (l : Loop) : (s.setLoop n l).events = s.events := rfl
@[simp] theorem State.actor_setLoop (s : State) (n : BitVec 1) (l : Loop) : (s.setLoop n l).actor = s.actor := rfl
@[simp] theorem State.dies_setLoop (s : State) (n : BitVec 1) (l : Loop) : (s.setLoop n l).dies = s.dies := rfl
@[simp] theorem State.mem_setLoop (s : State) (n : BitVec 1) (l : Loop) : (s.setLoop n l).mem = s.mem := rfl
@[simp] theorem State.lines_setLoop (s : State) (n : BitVec 1) (l : Loop) : (s.setLoop n l).lines = s.lines := rfl
@[simp] theorem State.copies_setLoop (s : State) (n : BitVec 1) (l : Loop) : (s.setLoop n l).copies = s.copies := rfl
@[simp] theorem State.leaves_setLoop (s : State) (n : BitVec 1) (l : Loop) : (s.setLoop n l).leaves = s.leaves := rfl
@[simp] theorem State.walks_setLoop (s : State) (n : BitVec 1) (l : Loop) : (s.setLoop n l).walks = s.walks := rfl
@[simp] theorem State.watches_setLoop (s : State) (n : BitVec 1) (l : Loop) : (s.setLoop n l).watches = s.watches := rfl
@[simp] theorem State.slots_setLoop (s : State) (n : BitVec 1) (l : Loop) : (s.setLoop n l).slots = s.slots := rfl
@[simp] theorem State.posts_setLoop (s : State) (n : BitVec 1) (l : Loop) : (s.setLoop n l).posts = s.posts := rfl
@[simp] theorem State.owed_setLoop (s : State) (n : BitVec 1) (l : Loop) : (s.setLoop n l).owed = s.owed := rfl
@[simp] theorem State.flying_setLoop (s : State) (n : BitVec 1) (l : Loop) : (s.setLoop n l).flying = s.flying := rfl
@[simp] theorem State.flown_setLoop (s : State) (n : BitVec 1) (l : Loop) : (s.setLoop n l).flown = s.flown := rfl
@[simp] theorem State.replies_setLoop (s : State) (n : BitVec 1) (l : Loop) : (s.setLoop n l).replies = s.replies := rfl
@[simp] theorem State.heldJoins_setLoop (s : State) (n : BitVec 1) (l : Loop) : (s.setLoop n l).heldJoins = s.heldJoins := rfl
@[simp] theorem State.busyList_setLoop (s : State) (n : BitVec 1) (l : Loop) : (s.setLoop n l).busyList = s.busyList := rfl
@[simp] theorem State.retry_setLoop (s : State) (n : BitVec 1) (l : Loop) : (s.setLoop n l).retry = s.retry := rfl
@[simp] theorem State.serving_setLoop (s : State) (n : BitVec 1) (l : Loop) : (s.setLoop n l).serving = s.serving := rfl
@[simp] theorem State.hostrep_setLoop (s : State) (n : BitVec 1) (l : Loop) : (s.setLoop n l).hostrep = s.hostrep := rfl
@[simp] theorem State.hostData_setLoop (s : State) (n : BitVec 1) (l : Loop) : (s.setLoop n l).hostData = s.hostData := rfl
@[simp] theorem State.arrivals_setLoop (s : State) (n : BitVec 1) (l : Loop) : (s.setLoop n l).arrivals = s.arrivals := rfl
@[simp] theorem State.hostMem_setLoop (s : State) (n : BitVec 1) (l : Loop) : (s.setLoop n l).hostMem = s.hostMem := rfl
@[simp] theorem State.shadows_setLoop (s : State) (n : BitVec 1) (l : Loop) : (s.setLoop n l).shadows = s.shadows := rfl
@[simp] theorem State.homes_setLoop (s : State) (n : BitVec 1) (l : Loop) : (s.setLoop n l).homes = s.homes := rfl
@[simp] theorem State.timers_setLoop (s : State) (n : BitVec 1) (l : Loop) : (s.setLoop n l).timers = s.timers := rfl
@[simp] theorem State.pkg_setLoop (s : State) (n : BitVec 1) (l : Loop) : (s.setLoop n l).pkg = s.pkg := rfl

/-! `updTile` -/

@[simp] theorem State.cur_updTile (s : State) (k n : Nat) (f : Tile → Tile) : (s.updTile k n f).cur = s.cur := rfl
@[simp] theorem State.tick_updTile (s : State) (k n : Nat) (f : Tile → Tile) : (s.updTile k n f).tick = s.tick := rfl
@[simp] theorem State.clock_updTile (s : State) (k n : Nat) (f : Tile → Tile) : (s.updTile k n f).clock = s.clock := rfl
@[simp] theorem State.events_updTile (s : State) (k n : Nat) (f : Tile → Tile) : (s.updTile k n f).events = s.events := rfl
@[simp] theorem State.actor_updTile (s : State) (k n : Nat) (f : Tile → Tile) : (s.updTile k n f).actor = s.actor := rfl
@[simp] theorem State.dies_updTile (s : State) (k n : Nat) (f : Tile → Tile) : (s.updTile k n f).dies = s.dies := rfl
@[simp] theorem State.mem_updTile (s : State) (k n : Nat) (f : Tile → Tile) : (s.updTile k n f).mem = s.mem := rfl
@[simp] theorem State.lines_updTile (s : State) (k n : Nat) (f : Tile → Tile) : (s.updTile k n f).lines = s.lines := rfl
@[simp] theorem State.copies_updTile (s : State) (k n : Nat) (f : Tile → Tile) : (s.updTile k n f).copies = s.copies := rfl
@[simp] theorem State.leaves_updTile (s : State) (k n : Nat) (f : Tile → Tile) : (s.updTile k n f).leaves = s.leaves := rfl
@[simp] theorem State.walks_updTile (s : State) (k n : Nat) (f : Tile → Tile) : (s.updTile k n f).walks = s.walks := rfl
@[simp] theorem State.watches_updTile (s : State) (k n : Nat) (f : Tile → Tile) : (s.updTile k n f).watches = s.watches := rfl
@[simp] theorem State.slots_updTile (s : State) (k n : Nat) (f : Tile → Tile) : (s.updTile k n f).slots = s.slots := rfl
@[simp] theorem State.posts_updTile (s : State) (k n : Nat) (f : Tile → Tile) : (s.updTile k n f).posts = s.posts := rfl
@[simp] theorem State.owed_updTile (s : State) (k n : Nat) (f : Tile → Tile) : (s.updTile k n f).owed = s.owed := rfl
@[simp] theorem State.flying_updTile (s : State) (k n : Nat) (f : Tile → Tile) : (s.updTile k n f).flying = s.flying := rfl
@[simp] theorem State.flown_updTile (s : State) (k n : Nat) (f : Tile → Tile) : (s.updTile k n f).flown = s.flown := rfl
@[simp] theorem State.replies_updTile (s : State) (k n : Nat) (f : Tile → Tile) : (s.updTile k n f).replies = s.replies := rfl
@[simp] theorem State.heldJoins_updTile (s : State) (k n : Nat) (f : Tile → Tile) : (s.updTile k n f).heldJoins = s.heldJoins := rfl
@[simp] theorem State.busyList_updTile (s : State) (k n : Nat) (f : Tile → Tile) : (s.updTile k n f).busyList = s.busyList := rfl
@[simp] theorem State.retry_updTile (s : State) (k n : Nat) (f : Tile → Tile) : (s.updTile k n f).retry = s.retry := rfl
@[simp] theorem State.serving_updTile (s : State) (k n : Nat) (f : Tile → Tile) : (s.updTile k n f).serving = s.serving := rfl
@[simp] theorem State.hostrep_updTile (s : State) (k n : Nat) (f : Tile → Tile) : (s.updTile k n f).hostrep = s.hostrep := rfl
@[simp] theorem State.hostData_updTile (s : State) (k n : Nat) (f : Tile → Tile) : (s.updTile k n f).hostData = s.hostData := rfl
@[simp] theorem State.arrivals_updTile (s : State) (k n : Nat) (f : Tile → Tile) : (s.updTile k n f).arrivals = s.arrivals := rfl
@[simp] theorem State.hostMem_updTile (s : State) (k n : Nat) (f : Tile → Tile) : (s.updTile k n f).hostMem = s.hostMem := rfl
@[simp] theorem State.shadows_updTile (s : State) (k n : Nat) (f : Tile → Tile) : (s.updTile k n f).shadows = s.shadows := rfl
@[simp] theorem State.homes_updTile (s : State) (k n : Nat) (f : Tile → Tile) : (s.updTile k n f).homes = s.homes := rfl
@[simp] theorem State.timers_updTile (s : State) (k n : Nat) (f : Tile → Tile) : (s.updTile k n f).timers = s.timers := rfl
@[simp] theorem State.pkg_updTile (s : State) (k n : Nat) (f : Tile → Tile) : (s.updTile k n f).pkg = s.pkg := rfl

/-! `putNode` -/

@[simp] theorem State.cur_putNode (s : State) (k i : Nat) (n : Node) : (s.putNode k i n).cur = s.cur := rfl
@[simp] theorem State.tick_putNode (s : State) (k i : Nat) (n : Node) : (s.putNode k i n).tick = s.tick := rfl
@[simp] theorem State.clock_putNode (s : State) (k i : Nat) (n : Node) : (s.putNode k i n).clock = s.clock := rfl
@[simp] theorem State.events_putNode (s : State) (k i : Nat) (n : Node) : (s.putNode k i n).events = s.events := rfl
@[simp] theorem State.actor_putNode (s : State) (k i : Nat) (n : Node) : (s.putNode k i n).actor = s.actor := rfl
@[simp] theorem State.dies_putNode (s : State) (k i : Nat) (n : Node) : (s.putNode k i n).dies = s.dies := rfl
@[simp] theorem State.mem_putNode (s : State) (k i : Nat) (n : Node) : (s.putNode k i n).mem = s.mem := rfl
@[simp] theorem State.lines_putNode (s : State) (k i : Nat) (n : Node) : (s.putNode k i n).lines = s.lines := rfl
@[simp] theorem State.copies_putNode (s : State) (k i : Nat) (n : Node) : (s.putNode k i n).copies = s.copies := rfl
@[simp] theorem State.leaves_putNode (s : State) (k i : Nat) (n : Node) : (s.putNode k i n).leaves = s.leaves := rfl
@[simp] theorem State.walks_putNode (s : State) (k i : Nat) (n : Node) : (s.putNode k i n).walks = s.walks := rfl
@[simp] theorem State.watches_putNode (s : State) (k i : Nat) (n : Node) : (s.putNode k i n).watches = s.watches := rfl
@[simp] theorem State.slots_putNode (s : State) (k i : Nat) (n : Node) : (s.putNode k i n).slots = s.slots := rfl
@[simp] theorem State.posts_putNode (s : State) (k i : Nat) (n : Node) : (s.putNode k i n).posts = s.posts := rfl
@[simp] theorem State.owed_putNode (s : State) (k i : Nat) (n : Node) : (s.putNode k i n).owed = s.owed := rfl
@[simp] theorem State.flying_putNode (s : State) (k i : Nat) (n : Node) : (s.putNode k i n).flying = s.flying := rfl
@[simp] theorem State.flown_putNode (s : State) (k i : Nat) (n : Node) : (s.putNode k i n).flown = s.flown := rfl
@[simp] theorem State.replies_putNode (s : State) (k i : Nat) (n : Node) : (s.putNode k i n).replies = s.replies := rfl
@[simp] theorem State.heldJoins_putNode (s : State) (k i : Nat) (n : Node) : (s.putNode k i n).heldJoins = s.heldJoins := rfl
@[simp] theorem State.busyList_putNode (s : State) (k i : Nat) (n : Node) : (s.putNode k i n).busyList = s.busyList := rfl
@[simp] theorem State.retry_putNode (s : State) (k i : Nat) (n : Node) : (s.putNode k i n).retry = s.retry := rfl
@[simp] theorem State.serving_putNode (s : State) (k i : Nat) (n : Node) : (s.putNode k i n).serving = s.serving := rfl
@[simp] theorem State.hostrep_putNode (s : State) (k i : Nat) (n : Node) : (s.putNode k i n).hostrep = s.hostrep := rfl
@[simp] theorem State.hostData_putNode (s : State) (k i : Nat) (n : Node) : (s.putNode k i n).hostData = s.hostData := rfl
@[simp] theorem State.arrivals_putNode (s : State) (k i : Nat) (n : Node) : (s.putNode k i n).arrivals = s.arrivals := rfl
@[simp] theorem State.hostMem_putNode (s : State) (k i : Nat) (n : Node) : (s.putNode k i n).hostMem = s.hostMem := rfl
@[simp] theorem State.shadows_putNode (s : State) (k i : Nat) (n : Node) : (s.putNode k i n).shadows = s.shadows := rfl
@[simp] theorem State.homes_putNode (s : State) (k i : Nat) (n : Node) : (s.putNode k i n).homes = s.homes := rfl
@[simp] theorem State.timers_putNode (s : State) (k i : Nat) (n : Node) : (s.putNode k i n).timers = s.timers := rfl
@[simp] theorem State.pkg_putNode (s : State) (k i : Nat) (n : Node) : (s.putNode k i n).pkg = s.pkg := rfl

/-! `dropNode` -/

@[simp] theorem State.cur_dropNode (s : State) (k i : Nat) : (s.dropNode k i).cur = s.cur := rfl
@[simp] theorem State.tick_dropNode (s : State) (k i : Nat) : (s.dropNode k i).tick = s.tick := rfl
@[simp] theorem State.clock_dropNode (s : State) (k i : Nat) : (s.dropNode k i).clock = s.clock := rfl
@[simp] theorem State.events_dropNode (s : State) (k i : Nat) : (s.dropNode k i).events = s.events := rfl
@[simp] theorem State.actor_dropNode (s : State) (k i : Nat) : (s.dropNode k i).actor = s.actor := rfl
@[simp] theorem State.dies_dropNode (s : State) (k i : Nat) : (s.dropNode k i).dies = s.dies := rfl
@[simp] theorem State.mem_dropNode (s : State) (k i : Nat) : (s.dropNode k i).mem = s.mem := rfl
@[simp] theorem State.lines_dropNode (s : State) (k i : Nat) : (s.dropNode k i).lines = s.lines := rfl
@[simp] theorem State.copies_dropNode (s : State) (k i : Nat) : (s.dropNode k i).copies = s.copies := rfl
@[simp] theorem State.leaves_dropNode (s : State) (k i : Nat) : (s.dropNode k i).leaves = s.leaves := rfl
@[simp] theorem State.walks_dropNode (s : State) (k i : Nat) : (s.dropNode k i).walks = s.walks := rfl
@[simp] theorem State.watches_dropNode (s : State) (k i : Nat) : (s.dropNode k i).watches = s.watches := rfl
@[simp] theorem State.slots_dropNode (s : State) (k i : Nat) : (s.dropNode k i).slots = s.slots := rfl
@[simp] theorem State.posts_dropNode (s : State) (k i : Nat) : (s.dropNode k i).posts = s.posts := rfl
@[simp] theorem State.owed_dropNode (s : State) (k i : Nat) : (s.dropNode k i).owed = s.owed := rfl
@[simp] theorem State.flying_dropNode (s : State) (k i : Nat) : (s.dropNode k i).flying = s.flying := rfl
@[simp] theorem State.flown_dropNode (s : State) (k i : Nat) : (s.dropNode k i).flown = s.flown := rfl
@[simp] theorem State.replies_dropNode (s : State) (k i : Nat) : (s.dropNode k i).replies = s.replies := rfl
@[simp] theorem State.heldJoins_dropNode (s : State) (k i : Nat) : (s.dropNode k i).heldJoins = s.heldJoins := rfl
@[simp] theorem State.busyList_dropNode (s : State) (k i : Nat) : (s.dropNode k i).busyList = s.busyList := rfl
@[simp] theorem State.retry_dropNode (s : State) (k i : Nat) : (s.dropNode k i).retry = s.retry := rfl
@[simp] theorem State.serving_dropNode (s : State) (k i : Nat) : (s.dropNode k i).serving = s.serving := rfl
@[simp] theorem State.hostrep_dropNode (s : State) (k i : Nat) : (s.dropNode k i).hostrep = s.hostrep := rfl
@[simp] theorem State.hostData_dropNode (s : State) (k i : Nat) : (s.dropNode k i).hostData = s.hostData := rfl
@[simp] theorem State.arrivals_dropNode (s : State) (k i : Nat) : (s.dropNode k i).arrivals = s.arrivals := rfl
@[simp] theorem State.hostMem_dropNode (s : State) (k i : Nat) : (s.dropNode k i).hostMem = s.hostMem := rfl
@[simp] theorem State.shadows_dropNode (s : State) (k i : Nat) : (s.dropNode k i).shadows = s.shadows := rfl
@[simp] theorem State.homes_dropNode (s : State) (k i : Nat) : (s.dropNode k i).homes = s.homes := rfl
@[simp] theorem State.timers_dropNode (s : State) (k i : Nat) : (s.dropNode k i).timers = s.timers := rfl
@[simp] theorem State.pkg_dropNode (s : State) (k i : Nat) : (s.dropNode k i).pkg = s.pkg := rfl

/-! `updQueue` -/

@[simp] theorem State.cur_updQueue (s : State) (k : Nat) (f : Queue → Queue) : (s.updQueue k f).cur = s.cur := rfl
@[simp] theorem State.tick_updQueue (s : State) (k : Nat) (f : Queue → Queue) : (s.updQueue k f).tick = s.tick := rfl
@[simp] theorem State.clock_updQueue (s : State) (k : Nat) (f : Queue → Queue) : (s.updQueue k f).clock = s.clock := rfl
@[simp] theorem State.events_updQueue (s : State) (k : Nat) (f : Queue → Queue) : (s.updQueue k f).events = s.events := rfl
@[simp] theorem State.actor_updQueue (s : State) (k : Nat) (f : Queue → Queue) : (s.updQueue k f).actor = s.actor := rfl
@[simp] theorem State.dies_updQueue (s : State) (k : Nat) (f : Queue → Queue) : (s.updQueue k f).dies = s.dies := rfl
@[simp] theorem State.mem_updQueue (s : State) (k : Nat) (f : Queue → Queue) : (s.updQueue k f).mem = s.mem := rfl
@[simp] theorem State.lines_updQueue (s : State) (k : Nat) (f : Queue → Queue) : (s.updQueue k f).lines = s.lines := rfl
@[simp] theorem State.copies_updQueue (s : State) (k : Nat) (f : Queue → Queue) : (s.updQueue k f).copies = s.copies := rfl
@[simp] theorem State.leaves_updQueue (s : State) (k : Nat) (f : Queue → Queue) : (s.updQueue k f).leaves = s.leaves := rfl
@[simp] theorem State.walks_updQueue (s : State) (k : Nat) (f : Queue → Queue) : (s.updQueue k f).walks = s.walks := rfl
@[simp] theorem State.watches_updQueue (s : State) (k : Nat) (f : Queue → Queue) : (s.updQueue k f).watches = s.watches := rfl
@[simp] theorem State.slots_updQueue (s : State) (k : Nat) (f : Queue → Queue) : (s.updQueue k f).slots = s.slots := rfl
@[simp] theorem State.posts_updQueue (s : State) (k : Nat) (f : Queue → Queue) : (s.updQueue k f).posts = s.posts := rfl
@[simp] theorem State.owed_updQueue (s : State) (k : Nat) (f : Queue → Queue) : (s.updQueue k f).owed = s.owed := rfl
@[simp] theorem State.flying_updQueue (s : State) (k : Nat) (f : Queue → Queue) : (s.updQueue k f).flying = s.flying := rfl
@[simp] theorem State.flown_updQueue (s : State) (k : Nat) (f : Queue → Queue) : (s.updQueue k f).flown = s.flown := rfl
@[simp] theorem State.replies_updQueue (s : State) (k : Nat) (f : Queue → Queue) : (s.updQueue k f).replies = s.replies := rfl
@[simp] theorem State.heldJoins_updQueue (s : State) (k : Nat) (f : Queue → Queue) : (s.updQueue k f).heldJoins = s.heldJoins := rfl
@[simp] theorem State.busyList_updQueue (s : State) (k : Nat) (f : Queue → Queue) : (s.updQueue k f).busyList = s.busyList := rfl
@[simp] theorem State.retry_updQueue (s : State) (k : Nat) (f : Queue → Queue) : (s.updQueue k f).retry = s.retry := rfl
@[simp] theorem State.serving_updQueue (s : State) (k : Nat) (f : Queue → Queue) : (s.updQueue k f).serving = s.serving := rfl
@[simp] theorem State.hostrep_updQueue (s : State) (k : Nat) (f : Queue → Queue) : (s.updQueue k f).hostrep = s.hostrep := rfl
@[simp] theorem State.hostData_updQueue (s : State) (k : Nat) (f : Queue → Queue) : (s.updQueue k f).hostData = s.hostData := rfl
@[simp] theorem State.arrivals_updQueue (s : State) (k : Nat) (f : Queue → Queue) : (s.updQueue k f).arrivals = s.arrivals := rfl
@[simp] theorem State.hostMem_updQueue (s : State) (k : Nat) (f : Queue → Queue) : (s.updQueue k f).hostMem = s.hostMem := rfl
@[simp] theorem State.shadows_updQueue (s : State) (k : Nat) (f : Queue → Queue) : (s.updQueue k f).shadows = s.shadows := rfl
@[simp] theorem State.homes_updQueue (s : State) (k : Nat) (f : Queue → Queue) : (s.updQueue k f).homes = s.homes := rfl
@[simp] theorem State.timers_updQueue (s : State) (k : Nat) (f : Queue → Queue) : (s.updQueue k f).timers = s.timers := rfl
@[simp] theorem State.pkg_updQueue (s : State) (k : Nat) (f : Queue → Queue) : (s.updQueue k f).pkg = s.pkg := rfl

/-! `push` -/

@[simp] theorem State.cur_push (s : State) (e : Instr) : (s.push e).cur = s.cur := rfl
@[simp] theorem State.tick_push (s : State) (e : Instr) : (s.push e).tick = s.tick := rfl
@[simp] theorem State.clock_push (s : State) (e : Instr) : (s.push e).clock = s.clock := rfl
@[simp] theorem State.actor_push (s : State) (e : Instr) : (s.push e).actor = s.actor := rfl
@[simp] theorem State.crews_push (s : State) (e : Instr) : (s.push e).crews = s.crews := rfl
@[simp] theorem State.dies_push (s : State) (e : Instr) : (s.push e).dies = s.dies := rfl
@[simp] theorem State.mem_push (s : State) (e : Instr) : (s.push e).mem = s.mem := rfl
@[simp] theorem State.lines_push (s : State) (e : Instr) : (s.push e).lines = s.lines := rfl
@[simp] theorem State.copies_push (s : State) (e : Instr) : (s.push e).copies = s.copies := rfl
@[simp] theorem State.leaves_push (s : State) (e : Instr) : (s.push e).leaves = s.leaves := rfl
@[simp] theorem State.walks_push (s : State) (e : Instr) : (s.push e).walks = s.walks := rfl
@[simp] theorem State.watches_push (s : State) (e : Instr) : (s.push e).watches = s.watches := rfl
@[simp] theorem State.slots_push (s : State) (e : Instr) : (s.push e).slots = s.slots := rfl
@[simp] theorem State.posts_push (s : State) (e : Instr) : (s.push e).posts = s.posts := rfl
@[simp] theorem State.owed_push (s : State) (e : Instr) : (s.push e).owed = s.owed := rfl
@[simp] theorem State.flying_push (s : State) (e : Instr) : (s.push e).flying = s.flying := rfl
@[simp] theorem State.flown_push (s : State) (e : Instr) : (s.push e).flown = s.flown := rfl
@[simp] theorem State.replies_push (s : State) (e : Instr) : (s.push e).replies = s.replies := rfl
@[simp] theorem State.heldJoins_push (s : State) (e : Instr) : (s.push e).heldJoins = s.heldJoins := rfl
@[simp] theorem State.busyList_push (s : State) (e : Instr) : (s.push e).busyList = s.busyList := rfl
@[simp] theorem State.retry_push (s : State) (e : Instr) : (s.push e).retry = s.retry := rfl
@[simp] theorem State.serving_push (s : State) (e : Instr) : (s.push e).serving = s.serving := rfl
@[simp] theorem State.hostrep_push (s : State) (e : Instr) : (s.push e).hostrep = s.hostrep := rfl
@[simp] theorem State.hostData_push (s : State) (e : Instr) : (s.push e).hostData = s.hostData := rfl
@[simp] theorem State.arrivals_push (s : State) (e : Instr) : (s.push e).arrivals = s.arrivals := rfl
@[simp] theorem State.hostMem_push (s : State) (e : Instr) : (s.push e).hostMem = s.hostMem := rfl
@[simp] theorem State.shadows_push (s : State) (e : Instr) : (s.push e).shadows = s.shadows := rfl
@[simp] theorem State.homes_push (s : State) (e : Instr) : (s.push e).homes = s.homes := rfl
@[simp] theorem State.timers_push (s : State) (e : Instr) : (s.push e).timers = s.timers := rfl
@[simp] theorem State.pkg_push (s : State) (e : Instr) : (s.push e).pkg = s.pkg := rfl

/-! `after` -/

@[simp] theorem State.cur_after (s : State) (c : Nat) (e : Instr) : (s.after c e).cur = s.cur := rfl
@[simp] theorem State.tick_after (s : State) (c : Nat) (e : Instr) : (s.after c e).tick = s.tick := rfl
@[simp] theorem State.clock_after (s : State) (c : Nat) (e : Instr) : (s.after c e).clock = s.clock := rfl
@[simp] theorem State.events_after (s : State) (c : Nat) (e : Instr) : (s.after c e).events = s.events := rfl
@[simp] theorem State.actor_after (s : State) (c : Nat) (e : Instr) : (s.after c e).actor = s.actor := rfl
@[simp] theorem State.crews_after (s : State) (c : Nat) (e : Instr) : (s.after c e).crews = s.crews := rfl
@[simp] theorem State.dies_after (s : State) (c : Nat) (e : Instr) : (s.after c e).dies = s.dies := rfl
@[simp] theorem State.mem_after (s : State) (c : Nat) (e : Instr) : (s.after c e).mem = s.mem := rfl
@[simp] theorem State.lines_after (s : State) (c : Nat) (e : Instr) : (s.after c e).lines = s.lines := rfl
@[simp] theorem State.copies_after (s : State) (c : Nat) (e : Instr) : (s.after c e).copies = s.copies := rfl
@[simp] theorem State.leaves_after (s : State) (c : Nat) (e : Instr) : (s.after c e).leaves = s.leaves := rfl
@[simp] theorem State.walks_after (s : State) (c : Nat) (e : Instr) : (s.after c e).walks = s.walks := rfl
@[simp] theorem State.watches_after (s : State) (c : Nat) (e : Instr) : (s.after c e).watches = s.watches := rfl
@[simp] theorem State.slots_after (s : State) (c : Nat) (e : Instr) : (s.after c e).slots = s.slots := rfl
@[simp] theorem State.posts_after (s : State) (c : Nat) (e : Instr) : (s.after c e).posts = s.posts := rfl
@[simp] theorem State.owed_after (s : State) (c : Nat) (e : Instr) : (s.after c e).owed = s.owed := rfl
@[simp] theorem State.flying_after (s : State) (c : Nat) (e : Instr) : (s.after c e).flying = s.flying := rfl
@[simp] theorem State.flown_after (s : State) (c : Nat) (e : Instr) : (s.after c e).flown = s.flown := rfl
@[simp] theorem State.replies_after (s : State) (c : Nat) (e : Instr) : (s.after c e).replies = s.replies := rfl
@[simp] theorem State.heldJoins_after (s : State) (c : Nat) (e : Instr) : (s.after c e).heldJoins = s.heldJoins := rfl
@[simp] theorem State.busyList_after (s : State) (c : Nat) (e : Instr) : (s.after c e).busyList = s.busyList := rfl
@[simp] theorem State.retry_after (s : State) (c : Nat) (e : Instr) : (s.after c e).retry = s.retry := rfl
@[simp] theorem State.serving_after (s : State) (c : Nat) (e : Instr) : (s.after c e).serving = s.serving := rfl
@[simp] theorem State.hostrep_after (s : State) (c : Nat) (e : Instr) : (s.after c e).hostrep = s.hostrep := rfl
@[simp] theorem State.hostData_after (s : State) (c : Nat) (e : Instr) : (s.after c e).hostData = s.hostData := rfl
@[simp] theorem State.arrivals_after (s : State) (c : Nat) (e : Instr) : (s.after c e).arrivals = s.arrivals := rfl
@[simp] theorem State.hostMem_after (s : State) (c : Nat) (e : Instr) : (s.after c e).hostMem = s.hostMem := rfl
@[simp] theorem State.shadows_after (s : State) (c : Nat) (e : Instr) : (s.after c e).shadows = s.shadows := rfl
@[simp] theorem State.homes_after (s : State) (c : Nat) (e : Instr) : (s.after c e).homes = s.homes := rfl
@[simp] theorem State.pkg_after (s : State) (c : Nat) (e : Instr) : (s.after c e).pkg = s.pkg := rfl

/-! `post` -/

@[simp] theorem State.cur_post (s : State) (r : Report) : (s.post r).cur = s.cur := rfl
@[simp] theorem State.tick_post (s : State) (r : Report) : (s.post r).tick = s.tick := rfl
@[simp] theorem State.clock_post (s : State) (r : Report) : (s.post r).clock = s.clock := rfl
@[simp] theorem State.events_post (s : State) (r : Report) : (s.post r).events = s.events := rfl
@[simp] theorem State.actor_post (s : State) (r : Report) : (s.post r).actor = s.actor := rfl
@[simp] theorem State.crews_post (s : State) (r : Report) : (s.post r).crews = s.crews := rfl
@[simp] theorem State.dies_post (s : State) (r : Report) : (s.post r).dies = s.dies := rfl
@[simp] theorem State.mem_post (s : State) (r : Report) : (s.post r).mem = s.mem := rfl
@[simp] theorem State.lines_post (s : State) (r : Report) : (s.post r).lines = s.lines := rfl
@[simp] theorem State.copies_post (s : State) (r : Report) : (s.post r).copies = s.copies := rfl
@[simp] theorem State.leaves_post (s : State) (r : Report) : (s.post r).leaves = s.leaves := rfl
@[simp] theorem State.walks_post (s : State) (r : Report) : (s.post r).walks = s.walks := rfl
@[simp] theorem State.watches_post (s : State) (r : Report) : (s.post r).watches = s.watches := rfl
@[simp] theorem State.slots_post (s : State) (r : Report) : (s.post r).slots = s.slots := rfl
@[simp] theorem State.owed_post (s : State) (r : Report) : (s.post r).owed = s.owed := rfl
@[simp] theorem State.flying_post (s : State) (r : Report) : (s.post r).flying = s.flying := rfl
@[simp] theorem State.flown_post (s : State) (r : Report) : (s.post r).flown = s.flown := rfl
@[simp] theorem State.replies_post (s : State) (r : Report) : (s.post r).replies = s.replies := rfl
@[simp] theorem State.heldJoins_post (s : State) (r : Report) : (s.post r).heldJoins = s.heldJoins := rfl
@[simp] theorem State.busyList_post (s : State) (r : Report) : (s.post r).busyList = s.busyList := rfl
@[simp] theorem State.retry_post (s : State) (r : Report) : (s.post r).retry = s.retry := rfl
@[simp] theorem State.serving_post (s : State) (r : Report) : (s.post r).serving = s.serving := rfl
@[simp] theorem State.hostrep_post (s : State) (r : Report) : (s.post r).hostrep = s.hostrep := rfl
@[simp] theorem State.hostData_post (s : State) (r : Report) : (s.post r).hostData = s.hostData := rfl
@[simp] theorem State.arrivals_post (s : State) (r : Report) : (s.post r).arrivals = s.arrivals := rfl
@[simp] theorem State.hostMem_post (s : State) (r : Report) : (s.post r).hostMem = s.hostMem := rfl
@[simp] theorem State.shadows_post (s : State) (r : Report) : (s.post r).shadows = s.shadows := rfl
@[simp] theorem State.homes_post (s : State) (r : Report) : (s.post r).homes = s.homes := rfl
@[simp] theorem State.timers_post (s : State) (r : Report) : (s.post r).timers = s.timers := rfl
@[simp] theorem State.pkg_post (s : State) (r : Report) : (s.post r).pkg = s.pkg := rfl

/-! `setMeta` -/

@[simp] theorem State.cur_setMeta (s : State) (l : Nat) (m : LineMeta) : (s.setMeta l m).cur = s.cur := rfl
@[simp] theorem State.tick_setMeta (s : State) (l : Nat) (m : LineMeta) : (s.setMeta l m).tick = s.tick := rfl
@[simp] theorem State.clock_setMeta (s : State) (l : Nat) (m : LineMeta) : (s.setMeta l m).clock = s.clock := rfl
@[simp] theorem State.events_setMeta (s : State) (l : Nat) (m : LineMeta) : (s.setMeta l m).events = s.events := rfl
@[simp] theorem State.actor_setMeta (s : State) (l : Nat) (m : LineMeta) : (s.setMeta l m).actor = s.actor := rfl
@[simp] theorem State.crews_setMeta (s : State) (l : Nat) (m : LineMeta) : (s.setMeta l m).crews = s.crews := rfl
@[simp] theorem State.dies_setMeta (s : State) (l : Nat) (m : LineMeta) : (s.setMeta l m).dies = s.dies := rfl
@[simp] theorem State.mem_setMeta (s : State) (l : Nat) (m : LineMeta) : (s.setMeta l m).mem = s.mem := rfl
@[simp] theorem State.copies_setMeta (s : State) (l : Nat) (m : LineMeta) : (s.setMeta l m).copies = s.copies := rfl
@[simp] theorem State.leaves_setMeta (s : State) (l : Nat) (m : LineMeta) : (s.setMeta l m).leaves = s.leaves := rfl
@[simp] theorem State.walks_setMeta (s : State) (l : Nat) (m : LineMeta) : (s.setMeta l m).walks = s.walks := rfl
@[simp] theorem State.watches_setMeta (s : State) (l : Nat) (m : LineMeta) : (s.setMeta l m).watches = s.watches := rfl
@[simp] theorem State.slots_setMeta (s : State) (l : Nat) (m : LineMeta) : (s.setMeta l m).slots = s.slots := rfl
@[simp] theorem State.posts_setMeta (s : State) (l : Nat) (m : LineMeta) : (s.setMeta l m).posts = s.posts := rfl
@[simp] theorem State.owed_setMeta (s : State) (l : Nat) (m : LineMeta) : (s.setMeta l m).owed = s.owed := rfl
@[simp] theorem State.flying_setMeta (s : State) (l : Nat) (m : LineMeta) : (s.setMeta l m).flying = s.flying := rfl
@[simp] theorem State.flown_setMeta (s : State) (l : Nat) (m : LineMeta) : (s.setMeta l m).flown = s.flown := rfl
@[simp] theorem State.replies_setMeta (s : State) (l : Nat) (m : LineMeta) : (s.setMeta l m).replies = s.replies := rfl
@[simp] theorem State.heldJoins_setMeta (s : State) (l : Nat) (m : LineMeta) : (s.setMeta l m).heldJoins = s.heldJoins := rfl
@[simp] theorem State.busyList_setMeta (s : State) (l : Nat) (m : LineMeta) : (s.setMeta l m).busyList = s.busyList := rfl
@[simp] theorem State.retry_setMeta (s : State) (l : Nat) (m : LineMeta) : (s.setMeta l m).retry = s.retry := rfl
@[simp] theorem State.serving_setMeta (s : State) (l : Nat) (m : LineMeta) : (s.setMeta l m).serving = s.serving := rfl
@[simp] theorem State.hostrep_setMeta (s : State) (l : Nat) (m : LineMeta) : (s.setMeta l m).hostrep = s.hostrep := rfl
@[simp] theorem State.hostData_setMeta (s : State) (l : Nat) (m : LineMeta) : (s.setMeta l m).hostData = s.hostData := rfl
@[simp] theorem State.arrivals_setMeta (s : State) (l : Nat) (m : LineMeta) : (s.setMeta l m).arrivals = s.arrivals := rfl
@[simp] theorem State.hostMem_setMeta (s : State) (l : Nat) (m : LineMeta) : (s.setMeta l m).hostMem = s.hostMem := rfl
@[simp] theorem State.shadows_setMeta (s : State) (l : Nat) (m : LineMeta) : (s.setMeta l m).shadows = s.shadows := rfl
@[simp] theorem State.homes_setMeta (s : State) (l : Nat) (m : LineMeta) : (s.setMeta l m).homes = s.homes := rfl
@[simp] theorem State.timers_setMeta (s : State) (l : Nat) (m : LineMeta) : (s.setMeta l m).timers = s.timers := rfl
@[simp] theorem State.pkg_setMeta (s : State) (l : Nat) (m : LineMeta) : (s.setMeta l m).pkg = s.pkg := rfl

/-! `updMeta` -/

@[simp] theorem State.cur_updMeta (s : State) (l : Nat) (f : LineMeta → LineMeta) : (s.updMeta l f).cur = s.cur := rfl
@[simp] theorem State.tick_updMeta (s : State) (l : Nat) (f : LineMeta → LineMeta) : (s.updMeta l f).tick = s.tick := rfl
@[simp] theorem State.clock_updMeta (s : State) (l : Nat) (f : LineMeta → LineMeta) : (s.updMeta l f).clock = s.clock := rfl
@[simp] theorem State.events_updMeta (s : State) (l : Nat) (f : LineMeta → LineMeta) : (s.updMeta l f).events = s.events := rfl
@[simp] theorem State.actor_updMeta (s : State) (l : Nat) (f : LineMeta → LineMeta) : (s.updMeta l f).actor = s.actor := rfl
@[simp] theorem State.crews_updMeta (s : State) (l : Nat) (f : LineMeta → LineMeta) : (s.updMeta l f).crews = s.crews := rfl
@[simp] theorem State.dies_updMeta (s : State) (l : Nat) (f : LineMeta → LineMeta) : (s.updMeta l f).dies = s.dies := rfl
@[simp] theorem State.mem_updMeta (s : State) (l : Nat) (f : LineMeta → LineMeta) : (s.updMeta l f).mem = s.mem := rfl
@[simp] theorem State.copies_updMeta (s : State) (l : Nat) (f : LineMeta → LineMeta) : (s.updMeta l f).copies = s.copies := rfl
@[simp] theorem State.leaves_updMeta (s : State) (l : Nat) (f : LineMeta → LineMeta) : (s.updMeta l f).leaves = s.leaves := rfl
@[simp] theorem State.walks_updMeta (s : State) (l : Nat) (f : LineMeta → LineMeta) : (s.updMeta l f).walks = s.walks := rfl
@[simp] theorem State.watches_updMeta (s : State) (l : Nat) (f : LineMeta → LineMeta) : (s.updMeta l f).watches = s.watches := rfl
@[simp] theorem State.slots_updMeta (s : State) (l : Nat) (f : LineMeta → LineMeta) : (s.updMeta l f).slots = s.slots := rfl
@[simp] theorem State.posts_updMeta (s : State) (l : Nat) (f : LineMeta → LineMeta) : (s.updMeta l f).posts = s.posts := rfl
@[simp] theorem State.owed_updMeta (s : State) (l : Nat) (f : LineMeta → LineMeta) : (s.updMeta l f).owed = s.owed := rfl
@[simp] theorem State.flying_updMeta (s : State) (l : Nat) (f : LineMeta → LineMeta) : (s.updMeta l f).flying = s.flying := rfl
@[simp] theorem State.flown_updMeta (s : State) (l : Nat) (f : LineMeta → LineMeta) : (s.updMeta l f).flown = s.flown := rfl
@[simp] theorem State.replies_updMeta (s : State) (l : Nat) (f : LineMeta → LineMeta) : (s.updMeta l f).replies = s.replies := rfl
@[simp] theorem State.heldJoins_updMeta (s : State) (l : Nat) (f : LineMeta → LineMeta) : (s.updMeta l f).heldJoins = s.heldJoins := rfl
@[simp] theorem State.busyList_updMeta (s : State) (l : Nat) (f : LineMeta → LineMeta) : (s.updMeta l f).busyList = s.busyList := rfl
@[simp] theorem State.retry_updMeta (s : State) (l : Nat) (f : LineMeta → LineMeta) : (s.updMeta l f).retry = s.retry := rfl
@[simp] theorem State.serving_updMeta (s : State) (l : Nat) (f : LineMeta → LineMeta) : (s.updMeta l f).serving = s.serving := rfl
@[simp] theorem State.hostrep_updMeta (s : State) (l : Nat) (f : LineMeta → LineMeta) : (s.updMeta l f).hostrep = s.hostrep := rfl
@[simp] theorem State.hostData_updMeta (s : State) (l : Nat) (f : LineMeta → LineMeta) : (s.updMeta l f).hostData = s.hostData := rfl
@[simp] theorem State.arrivals_updMeta (s : State) (l : Nat) (f : LineMeta → LineMeta) : (s.updMeta l f).arrivals = s.arrivals := rfl
@[simp] theorem State.hostMem_updMeta (s : State) (l : Nat) (f : LineMeta → LineMeta) : (s.updMeta l f).hostMem = s.hostMem := rfl
@[simp] theorem State.shadows_updMeta (s : State) (l : Nat) (f : LineMeta → LineMeta) : (s.updMeta l f).shadows = s.shadows := rfl
@[simp] theorem State.homes_updMeta (s : State) (l : Nat) (f : LineMeta → LineMeta) : (s.updMeta l f).homes = s.homes := rfl
@[simp] theorem State.timers_updMeta (s : State) (l : Nat) (f : LineMeta → LineMeta) : (s.updMeta l f).timers = s.timers := rfl
@[simp] theorem State.pkg_updMeta (s : State) (l : Nat) (f : LineMeta → LineMeta) : (s.updMeta l f).pkg = s.pkg := rfl

/-! `putCopy` -/

@[simp] theorem State.cur_putCopy (s : State) (a l : Nat) (c : Copy) : (s.putCopy a l c).cur = s.cur := rfl
@[simp] theorem State.tick_putCopy (s : State) (a l : Nat) (c : Copy) : (s.putCopy a l c).tick = s.tick := rfl
@[simp] theorem State.clock_putCopy (s : State) (a l : Nat) (c : Copy) : (s.putCopy a l c).clock = s.clock := rfl
@[simp] theorem State.events_putCopy (s : State) (a l : Nat) (c : Copy) : (s.putCopy a l c).events = s.events := rfl
@[simp] theorem State.actor_putCopy (s : State) (a l : Nat) (c : Copy) : (s.putCopy a l c).actor = s.actor := rfl
@[simp] theorem State.crews_putCopy (s : State) (a l : Nat) (c : Copy) : (s.putCopy a l c).crews = s.crews := rfl
@[simp] theorem State.dies_putCopy (s : State) (a l : Nat) (c : Copy) : (s.putCopy a l c).dies = s.dies := rfl
@[simp] theorem State.mem_putCopy (s : State) (a l : Nat) (c : Copy) : (s.putCopy a l c).mem = s.mem := rfl
@[simp] theorem State.lines_putCopy (s : State) (a l : Nat) (c : Copy) : (s.putCopy a l c).lines = s.lines := rfl
@[simp] theorem State.leaves_putCopy (s : State) (a l : Nat) (c : Copy) : (s.putCopy a l c).leaves = s.leaves := rfl
@[simp] theorem State.walks_putCopy (s : State) (a l : Nat) (c : Copy) : (s.putCopy a l c).walks = s.walks := rfl
@[simp] theorem State.watches_putCopy (s : State) (a l : Nat) (c : Copy) : (s.putCopy a l c).watches = s.watches := rfl
@[simp] theorem State.slots_putCopy (s : State) (a l : Nat) (c : Copy) : (s.putCopy a l c).slots = s.slots := rfl
@[simp] theorem State.posts_putCopy (s : State) (a l : Nat) (c : Copy) : (s.putCopy a l c).posts = s.posts := rfl
@[simp] theorem State.owed_putCopy (s : State) (a l : Nat) (c : Copy) : (s.putCopy a l c).owed = s.owed := rfl
@[simp] theorem State.flying_putCopy (s : State) (a l : Nat) (c : Copy) : (s.putCopy a l c).flying = s.flying := rfl
@[simp] theorem State.flown_putCopy (s : State) (a l : Nat) (c : Copy) : (s.putCopy a l c).flown = s.flown := rfl
@[simp] theorem State.replies_putCopy (s : State) (a l : Nat) (c : Copy) : (s.putCopy a l c).replies = s.replies := rfl
@[simp] theorem State.heldJoins_putCopy (s : State) (a l : Nat) (c : Copy) : (s.putCopy a l c).heldJoins = s.heldJoins := rfl
@[simp] theorem State.busyList_putCopy (s : State) (a l : Nat) (c : Copy) : (s.putCopy a l c).busyList = s.busyList := rfl
@[simp] theorem State.retry_putCopy (s : State) (a l : Nat) (c : Copy) : (s.putCopy a l c).retry = s.retry := rfl
@[simp] theorem State.serving_putCopy (s : State) (a l : Nat) (c : Copy) : (s.putCopy a l c).serving = s.serving := rfl
@[simp] theorem State.hostrep_putCopy (s : State) (a l : Nat) (c : Copy) : (s.putCopy a l c).hostrep = s.hostrep := rfl
@[simp] theorem State.hostData_putCopy (s : State) (a l : Nat) (c : Copy) : (s.putCopy a l c).hostData = s.hostData := rfl
@[simp] theorem State.arrivals_putCopy (s : State) (a l : Nat) (c : Copy) : (s.putCopy a l c).arrivals = s.arrivals := rfl
@[simp] theorem State.hostMem_putCopy (s : State) (a l : Nat) (c : Copy) : (s.putCopy a l c).hostMem = s.hostMem := rfl
@[simp] theorem State.shadows_putCopy (s : State) (a l : Nat) (c : Copy) : (s.putCopy a l c).shadows = s.shadows := rfl
@[simp] theorem State.homes_putCopy (s : State) (a l : Nat) (c : Copy) : (s.putCopy a l c).homes = s.homes := rfl
@[simp] theorem State.timers_putCopy (s : State) (a l : Nat) (c : Copy) : (s.putCopy a l c).timers = s.timers := rfl
@[simp] theorem State.pkg_putCopy (s : State) (a l : Nat) (c : Copy) : (s.putCopy a l c).pkg = s.pkg := rfl

/-! `dropCopy` -/

@[simp] theorem State.cur_dropCopy (s : State) (a l : Nat) : (s.dropCopy a l).cur = s.cur := rfl
@[simp] theorem State.tick_dropCopy (s : State) (a l : Nat) : (s.dropCopy a l).tick = s.tick := rfl
@[simp] theorem State.clock_dropCopy (s : State) (a l : Nat) : (s.dropCopy a l).clock = s.clock := rfl
@[simp] theorem State.events_dropCopy (s : State) (a l : Nat) : (s.dropCopy a l).events = s.events := rfl
@[simp] theorem State.actor_dropCopy (s : State) (a l : Nat) : (s.dropCopy a l).actor = s.actor := rfl
@[simp] theorem State.crews_dropCopy (s : State) (a l : Nat) : (s.dropCopy a l).crews = s.crews := rfl
@[simp] theorem State.dies_dropCopy (s : State) (a l : Nat) : (s.dropCopy a l).dies = s.dies := rfl
@[simp] theorem State.mem_dropCopy (s : State) (a l : Nat) : (s.dropCopy a l).mem = s.mem := rfl
@[simp] theorem State.lines_dropCopy (s : State) (a l : Nat) : (s.dropCopy a l).lines = s.lines := rfl
@[simp] theorem State.leaves_dropCopy (s : State) (a l : Nat) : (s.dropCopy a l).leaves = s.leaves := rfl
@[simp] theorem State.walks_dropCopy (s : State) (a l : Nat) : (s.dropCopy a l).walks = s.walks := rfl
@[simp] theorem State.watches_dropCopy (s : State) (a l : Nat) : (s.dropCopy a l).watches = s.watches := rfl
@[simp] theorem State.slots_dropCopy (s : State) (a l : Nat) : (s.dropCopy a l).slots = s.slots := rfl
@[simp] theorem State.posts_dropCopy (s : State) (a l : Nat) : (s.dropCopy a l).posts = s.posts := rfl
@[simp] theorem State.owed_dropCopy (s : State) (a l : Nat) : (s.dropCopy a l).owed = s.owed := rfl
@[simp] theorem State.flying_dropCopy (s : State) (a l : Nat) : (s.dropCopy a l).flying = s.flying := rfl
@[simp] theorem State.flown_dropCopy (s : State) (a l : Nat) : (s.dropCopy a l).flown = s.flown := rfl
@[simp] theorem State.replies_dropCopy (s : State) (a l : Nat) : (s.dropCopy a l).replies = s.replies := rfl
@[simp] theorem State.heldJoins_dropCopy (s : State) (a l : Nat) : (s.dropCopy a l).heldJoins = s.heldJoins := rfl
@[simp] theorem State.busyList_dropCopy (s : State) (a l : Nat) : (s.dropCopy a l).busyList = s.busyList := rfl
@[simp] theorem State.retry_dropCopy (s : State) (a l : Nat) : (s.dropCopy a l).retry = s.retry := rfl
@[simp] theorem State.serving_dropCopy (s : State) (a l : Nat) : (s.dropCopy a l).serving = s.serving := rfl
@[simp] theorem State.hostrep_dropCopy (s : State) (a l : Nat) : (s.dropCopy a l).hostrep = s.hostrep := rfl
@[simp] theorem State.hostData_dropCopy (s : State) (a l : Nat) : (s.dropCopy a l).hostData = s.hostData := rfl
@[simp] theorem State.arrivals_dropCopy (s : State) (a l : Nat) : (s.dropCopy a l).arrivals = s.arrivals := rfl
@[simp] theorem State.hostMem_dropCopy (s : State) (a l : Nat) : (s.dropCopy a l).hostMem = s.hostMem := rfl
@[simp] theorem State.shadows_dropCopy (s : State) (a l : Nat) : (s.dropCopy a l).shadows = s.shadows := rfl
@[simp] theorem State.homes_dropCopy (s : State) (a l : Nat) : (s.dropCopy a l).homes = s.homes := rfl
@[simp] theorem State.timers_dropCopy (s : State) (a l : Nat) : (s.dropCopy a l).timers = s.timers := rfl
@[simp] theorem State.pkg_dropCopy (s : State) (a l : Nat) : (s.dropCopy a l).pkg = s.pkg := rfl

/-! `dropOthers` -/

@[simp] theorem State.cur_dropOthers (s : State) (a l : Nat) : (s.dropOthers a l).cur = s.cur := rfl
@[simp] theorem State.tick_dropOthers (s : State) (a l : Nat) : (s.dropOthers a l).tick = s.tick := rfl
@[simp] theorem State.clock_dropOthers (s : State) (a l : Nat) : (s.dropOthers a l).clock = s.clock := rfl
@[simp] theorem State.events_dropOthers (s : State) (a l : Nat) : (s.dropOthers a l).events = s.events := rfl
@[simp] theorem State.actor_dropOthers (s : State) (a l : Nat) : (s.dropOthers a l).actor = s.actor := rfl
@[simp] theorem State.crews_dropOthers (s : State) (a l : Nat) : (s.dropOthers a l).crews = s.crews := rfl
@[simp] theorem State.dies_dropOthers (s : State) (a l : Nat) : (s.dropOthers a l).dies = s.dies := rfl
@[simp] theorem State.mem_dropOthers (s : State) (a l : Nat) : (s.dropOthers a l).mem = s.mem := rfl
@[simp] theorem State.lines_dropOthers (s : State) (a l : Nat) : (s.dropOthers a l).lines = s.lines := rfl
@[simp] theorem State.leaves_dropOthers (s : State) (a l : Nat) : (s.dropOthers a l).leaves = s.leaves := rfl
@[simp] theorem State.walks_dropOthers (s : State) (a l : Nat) : (s.dropOthers a l).walks = s.walks := rfl
@[simp] theorem State.watches_dropOthers (s : State) (a l : Nat) : (s.dropOthers a l).watches = s.watches := rfl
@[simp] theorem State.slots_dropOthers (s : State) (a l : Nat) : (s.dropOthers a l).slots = s.slots := rfl
@[simp] theorem State.posts_dropOthers (s : State) (a l : Nat) : (s.dropOthers a l).posts = s.posts := rfl
@[simp] theorem State.owed_dropOthers (s : State) (a l : Nat) : (s.dropOthers a l).owed = s.owed := rfl
@[simp] theorem State.flying_dropOthers (s : State) (a l : Nat) : (s.dropOthers a l).flying = s.flying := rfl
@[simp] theorem State.flown_dropOthers (s : State) (a l : Nat) : (s.dropOthers a l).flown = s.flown := rfl
@[simp] theorem State.replies_dropOthers (s : State) (a l : Nat) : (s.dropOthers a l).replies = s.replies := rfl
@[simp] theorem State.heldJoins_dropOthers (s : State) (a l : Nat) : (s.dropOthers a l).heldJoins = s.heldJoins := rfl
@[simp] theorem State.busyList_dropOthers (s : State) (a l : Nat) : (s.dropOthers a l).busyList = s.busyList := rfl
@[simp] theorem State.retry_dropOthers (s : State) (a l : Nat) : (s.dropOthers a l).retry = s.retry := rfl
@[simp] theorem State.serving_dropOthers (s : State) (a l : Nat) : (s.dropOthers a l).serving = s.serving := rfl
@[simp] theorem State.hostrep_dropOthers (s : State) (a l : Nat) : (s.dropOthers a l).hostrep = s.hostrep := rfl
@[simp] theorem State.hostData_dropOthers (s : State) (a l : Nat) : (s.dropOthers a l).hostData = s.hostData := rfl
@[simp] theorem State.arrivals_dropOthers (s : State) (a l : Nat) : (s.dropOthers a l).arrivals = s.arrivals := rfl
@[simp] theorem State.hostMem_dropOthers (s : State) (a l : Nat) : (s.dropOthers a l).hostMem = s.hostMem := rfl
@[simp] theorem State.shadows_dropOthers (s : State) (a l : Nat) : (s.dropOthers a l).shadows = s.shadows := rfl
@[simp] theorem State.homes_dropOthers (s : State) (a l : Nat) : (s.dropOthers a l).homes = s.homes := rfl
@[simp] theorem State.timers_dropOthers (s : State) (a l : Nat) : (s.dropOthers a l).timers = s.timers := rfl
@[simp] theorem State.pkg_dropOthers (s : State) (a l : Nat) : (s.dropOthers a l).pkg = s.pkg := rfl

/-! `poke` -/

@[simp] theorem State.cur_poke (s : State) (pa n v : Nat) : (s.poke pa n v).cur = s.cur := rfl
@[simp] theorem State.tick_poke (s : State) (pa n v : Nat) : (s.poke pa n v).tick = s.tick := rfl
@[simp] theorem State.clock_poke (s : State) (pa n v : Nat) : (s.poke pa n v).clock = s.clock := rfl
@[simp] theorem State.events_poke (s : State) (pa n v : Nat) : (s.poke pa n v).events = s.events := rfl
@[simp] theorem State.actor_poke (s : State) (pa n v : Nat) : (s.poke pa n v).actor = s.actor := rfl
@[simp] theorem State.crews_poke (s : State) (pa n v : Nat) : (s.poke pa n v).crews = s.crews := rfl
@[simp] theorem State.dies_poke (s : State) (pa n v : Nat) : (s.poke pa n v).dies = s.dies := rfl
@[simp] theorem State.lines_poke (s : State) (pa n v : Nat) : (s.poke pa n v).lines = s.lines := rfl
@[simp] theorem State.copies_poke (s : State) (pa n v : Nat) : (s.poke pa n v).copies = s.copies := rfl
@[simp] theorem State.leaves_poke (s : State) (pa n v : Nat) : (s.poke pa n v).leaves = s.leaves := rfl
@[simp] theorem State.walks_poke (s : State) (pa n v : Nat) : (s.poke pa n v).walks = s.walks := rfl
@[simp] theorem State.watches_poke (s : State) (pa n v : Nat) : (s.poke pa n v).watches = s.watches := rfl
@[simp] theorem State.slots_poke (s : State) (pa n v : Nat) : (s.poke pa n v).slots = s.slots := rfl
@[simp] theorem State.posts_poke (s : State) (pa n v : Nat) : (s.poke pa n v).posts = s.posts := rfl
@[simp] theorem State.owed_poke (s : State) (pa n v : Nat) : (s.poke pa n v).owed = s.owed := rfl
@[simp] theorem State.flying_poke (s : State) (pa n v : Nat) : (s.poke pa n v).flying = s.flying := rfl
@[simp] theorem State.flown_poke (s : State) (pa n v : Nat) : (s.poke pa n v).flown = s.flown := rfl
@[simp] theorem State.replies_poke (s : State) (pa n v : Nat) : (s.poke pa n v).replies = s.replies := rfl
@[simp] theorem State.heldJoins_poke (s : State) (pa n v : Nat) : (s.poke pa n v).heldJoins = s.heldJoins := rfl
@[simp] theorem State.busyList_poke (s : State) (pa n v : Nat) : (s.poke pa n v).busyList = s.busyList := rfl
@[simp] theorem State.retry_poke (s : State) (pa n v : Nat) : (s.poke pa n v).retry = s.retry := rfl
@[simp] theorem State.serving_poke (s : State) (pa n v : Nat) : (s.poke pa n v).serving = s.serving := rfl
@[simp] theorem State.hostrep_poke (s : State) (pa n v : Nat) : (s.poke pa n v).hostrep = s.hostrep := rfl
@[simp] theorem State.hostData_poke (s : State) (pa n v : Nat) : (s.poke pa n v).hostData = s.hostData := rfl
@[simp] theorem State.arrivals_poke (s : State) (pa n v : Nat) : (s.poke pa n v).arrivals = s.arrivals := rfl
@[simp] theorem State.hostMem_poke (s : State) (pa n v : Nat) : (s.poke pa n v).hostMem = s.hostMem := rfl
@[simp] theorem State.shadows_poke (s : State) (pa n v : Nat) : (s.poke pa n v).shadows = s.shadows := rfl
@[simp] theorem State.homes_poke (s : State) (pa n v : Nat) : (s.poke pa n v).homes = s.homes := rfl
@[simp] theorem State.timers_poke (s : State) (pa n v : Nat) : (s.poke pa n v).timers = s.timers := rfl
@[simp] theorem State.pkg_poke (s : State) (pa n v : Nat) : (s.poke pa n v).pkg = s.pkg := rfl

/-! `pokeLine` -/

@[simp] theorem State.cur_pokeLine (s : State) (l : Nat) (d : BitVec 1024) : (s.pokeLine l d).cur = s.cur := rfl
@[simp] theorem State.tick_pokeLine (s : State) (l : Nat) (d : BitVec 1024) : (s.pokeLine l d).tick = s.tick := rfl
@[simp] theorem State.clock_pokeLine (s : State) (l : Nat) (d : BitVec 1024) : (s.pokeLine l d).clock = s.clock := rfl
@[simp] theorem State.events_pokeLine (s : State) (l : Nat) (d : BitVec 1024) : (s.pokeLine l d).events = s.events := rfl
@[simp] theorem State.actor_pokeLine (s : State) (l : Nat) (d : BitVec 1024) : (s.pokeLine l d).actor = s.actor := rfl
@[simp] theorem State.crews_pokeLine (s : State) (l : Nat) (d : BitVec 1024) : (s.pokeLine l d).crews = s.crews := rfl
@[simp] theorem State.dies_pokeLine (s : State) (l : Nat) (d : BitVec 1024) : (s.pokeLine l d).dies = s.dies := rfl
@[simp] theorem State.lines_pokeLine (s : State) (l : Nat) (d : BitVec 1024) : (s.pokeLine l d).lines = s.lines := rfl
@[simp] theorem State.copies_pokeLine (s : State) (l : Nat) (d : BitVec 1024) : (s.pokeLine l d).copies = s.copies := rfl
@[simp] theorem State.leaves_pokeLine (s : State) (l : Nat) (d : BitVec 1024) : (s.pokeLine l d).leaves = s.leaves := rfl
@[simp] theorem State.walks_pokeLine (s : State) (l : Nat) (d : BitVec 1024) : (s.pokeLine l d).walks = s.walks := rfl
@[simp] theorem State.watches_pokeLine (s : State) (l : Nat) (d : BitVec 1024) : (s.pokeLine l d).watches = s.watches := rfl
@[simp] theorem State.slots_pokeLine (s : State) (l : Nat) (d : BitVec 1024) : (s.pokeLine l d).slots = s.slots := rfl
@[simp] theorem State.posts_pokeLine (s : State) (l : Nat) (d : BitVec 1024) : (s.pokeLine l d).posts = s.posts := rfl
@[simp] theorem State.owed_pokeLine (s : State) (l : Nat) (d : BitVec 1024) : (s.pokeLine l d).owed = s.owed := rfl
@[simp] theorem State.flying_pokeLine (s : State) (l : Nat) (d : BitVec 1024) : (s.pokeLine l d).flying = s.flying := rfl
@[simp] theorem State.flown_pokeLine (s : State) (l : Nat) (d : BitVec 1024) : (s.pokeLine l d).flown = s.flown := rfl
@[simp] theorem State.replies_pokeLine (s : State) (l : Nat) (d : BitVec 1024) : (s.pokeLine l d).replies = s.replies := rfl
@[simp] theorem State.heldJoins_pokeLine (s : State) (l : Nat) (d : BitVec 1024) : (s.pokeLine l d).heldJoins = s.heldJoins := rfl
@[simp] theorem State.busyList_pokeLine (s : State) (l : Nat) (d : BitVec 1024) : (s.pokeLine l d).busyList = s.busyList := rfl
@[simp] theorem State.retry_pokeLine (s : State) (l : Nat) (d : BitVec 1024) : (s.pokeLine l d).retry = s.retry := rfl
@[simp] theorem State.serving_pokeLine (s : State) (l : Nat) (d : BitVec 1024) : (s.pokeLine l d).serving = s.serving := rfl
@[simp] theorem State.hostrep_pokeLine (s : State) (l : Nat) (d : BitVec 1024) : (s.pokeLine l d).hostrep = s.hostrep := rfl
@[simp] theorem State.hostData_pokeLine (s : State) (l : Nat) (d : BitVec 1024) : (s.pokeLine l d).hostData = s.hostData := rfl
@[simp] theorem State.arrivals_pokeLine (s : State) (l : Nat) (d : BitVec 1024) : (s.pokeLine l d).arrivals = s.arrivals := rfl
@[simp] theorem State.hostMem_pokeLine (s : State) (l : Nat) (d : BitVec 1024) : (s.pokeLine l d).hostMem = s.hostMem := rfl
@[simp] theorem State.shadows_pokeLine (s : State) (l : Nat) (d : BitVec 1024) : (s.pokeLine l d).shadows = s.shadows := rfl
@[simp] theorem State.homes_pokeLine (s : State) (l : Nat) (d : BitVec 1024) : (s.pokeLine l d).homes = s.homes := rfl
@[simp] theorem State.timers_pokeLine (s : State) (l : Nat) (d : BitVec 1024) : (s.pokeLine l d).timers = s.timers := rfl
@[simp] theorem State.pkg_pokeLine (s : State) (l : Nat) (d : BitVec 1024) : (s.pokeLine l d).pkg = s.pkg := rfl

/-! `updSlot` -/

@[simp] theorem State.cur_updSlot (s : State) (i : Nat) (f : Slot → Slot) : (s.updSlot i f).cur = s.cur := rfl
@[simp] theorem State.tick_updSlot (s : State) (i : Nat) (f : Slot → Slot) : (s.updSlot i f).tick = s.tick := rfl
@[simp] theorem State.clock_updSlot (s : State) (i : Nat) (f : Slot → Slot) : (s.updSlot i f).clock = s.clock := rfl
@[simp] theorem State.events_updSlot (s : State) (i : Nat) (f : Slot → Slot) : (s.updSlot i f).events = s.events := rfl
@[simp] theorem State.actor_updSlot (s : State) (i : Nat) (f : Slot → Slot) : (s.updSlot i f).actor = s.actor := rfl
@[simp] theorem State.crews_updSlot (s : State) (i : Nat) (f : Slot → Slot) : (s.updSlot i f).crews = s.crews := rfl
@[simp] theorem State.dies_updSlot (s : State) (i : Nat) (f : Slot → Slot) : (s.updSlot i f).dies = s.dies := rfl
@[simp] theorem State.mem_updSlot (s : State) (i : Nat) (f : Slot → Slot) : (s.updSlot i f).mem = s.mem := rfl
@[simp] theorem State.lines_updSlot (s : State) (i : Nat) (f : Slot → Slot) : (s.updSlot i f).lines = s.lines := rfl
@[simp] theorem State.copies_updSlot (s : State) (i : Nat) (f : Slot → Slot) : (s.updSlot i f).copies = s.copies := rfl
@[simp] theorem State.leaves_updSlot (s : State) (i : Nat) (f : Slot → Slot) : (s.updSlot i f).leaves = s.leaves := rfl
@[simp] theorem State.walks_updSlot (s : State) (i : Nat) (f : Slot → Slot) : (s.updSlot i f).walks = s.walks := rfl
@[simp] theorem State.watches_updSlot (s : State) (i : Nat) (f : Slot → Slot) : (s.updSlot i f).watches = s.watches := rfl
@[simp] theorem State.posts_updSlot (s : State) (i : Nat) (f : Slot → Slot) : (s.updSlot i f).posts = s.posts := rfl
@[simp] theorem State.owed_updSlot (s : State) (i : Nat) (f : Slot → Slot) : (s.updSlot i f).owed = s.owed := rfl
@[simp] theorem State.flying_updSlot (s : State) (i : Nat) (f : Slot → Slot) : (s.updSlot i f).flying = s.flying := rfl
@[simp] theorem State.flown_updSlot (s : State) (i : Nat) (f : Slot → Slot) : (s.updSlot i f).flown = s.flown := rfl
@[simp] theorem State.replies_updSlot (s : State) (i : Nat) (f : Slot → Slot) : (s.updSlot i f).replies = s.replies := rfl
@[simp] theorem State.heldJoins_updSlot (s : State) (i : Nat) (f : Slot → Slot) : (s.updSlot i f).heldJoins = s.heldJoins := rfl
@[simp] theorem State.busyList_updSlot (s : State) (i : Nat) (f : Slot → Slot) : (s.updSlot i f).busyList = s.busyList := rfl
@[simp] theorem State.retry_updSlot (s : State) (i : Nat) (f : Slot → Slot) : (s.updSlot i f).retry = s.retry := rfl
@[simp] theorem State.serving_updSlot (s : State) (i : Nat) (f : Slot → Slot) : (s.updSlot i f).serving = s.serving := rfl
@[simp] theorem State.hostrep_updSlot (s : State) (i : Nat) (f : Slot → Slot) : (s.updSlot i f).hostrep = s.hostrep := rfl
@[simp] theorem State.hostData_updSlot (s : State) (i : Nat) (f : Slot → Slot) : (s.updSlot i f).hostData = s.hostData := rfl
@[simp] theorem State.arrivals_updSlot (s : State) (i : Nat) (f : Slot → Slot) : (s.updSlot i f).arrivals = s.arrivals := rfl
@[simp] theorem State.hostMem_updSlot (s : State) (i : Nat) (f : Slot → Slot) : (s.updSlot i f).hostMem = s.hostMem := rfl
@[simp] theorem State.shadows_updSlot (s : State) (i : Nat) (f : Slot → Slot) : (s.updSlot i f).shadows = s.shadows := rfl
@[simp] theorem State.homes_updSlot (s : State) (i : Nat) (f : Slot → Slot) : (s.updSlot i f).homes = s.homes := rfl
@[simp] theorem State.timers_updSlot (s : State) (i : Nat) (f : Slot → Slot) : (s.updSlot i f).timers = s.timers := rfl
@[simp] theorem State.pkg_updSlot (s : State) (i : Nat) (f : Slot → Slot) : (s.updSlot i f).pkg = s.pkg := rfl

/-! `updDie` -/

@[simp] theorem State.cur_updDie (s : State) (d : Nat) (f : Die → Die) : (s.updDie d f).cur = s.cur := rfl
@[simp] theorem State.tick_updDie (s : State) (d : Nat) (f : Die → Die) : (s.updDie d f).tick = s.tick := rfl
@[simp] theorem State.clock_updDie (s : State) (d : Nat) (f : Die → Die) : (s.updDie d f).clock = s.clock := rfl
@[simp] theorem State.events_updDie (s : State) (d : Nat) (f : Die → Die) : (s.updDie d f).events = s.events := rfl
@[simp] theorem State.actor_updDie (s : State) (d : Nat) (f : Die → Die) : (s.updDie d f).actor = s.actor := rfl
@[simp] theorem State.crews_updDie (s : State) (d : Nat) (f : Die → Die) : (s.updDie d f).crews = s.crews := rfl
@[simp] theorem State.mem_updDie (s : State) (d : Nat) (f : Die → Die) : (s.updDie d f).mem = s.mem := rfl
@[simp] theorem State.lines_updDie (s : State) (d : Nat) (f : Die → Die) : (s.updDie d f).lines = s.lines := rfl
@[simp] theorem State.copies_updDie (s : State) (d : Nat) (f : Die → Die) : (s.updDie d f).copies = s.copies := rfl
@[simp] theorem State.leaves_updDie (s : State) (d : Nat) (f : Die → Die) : (s.updDie d f).leaves = s.leaves := rfl
@[simp] theorem State.walks_updDie (s : State) (d : Nat) (f : Die → Die) : (s.updDie d f).walks = s.walks := rfl
@[simp] theorem State.watches_updDie (s : State) (d : Nat) (f : Die → Die) : (s.updDie d f).watches = s.watches := rfl
@[simp] theorem State.slots_updDie (s : State) (d : Nat) (f : Die → Die) : (s.updDie d f).slots = s.slots := rfl
@[simp] theorem State.posts_updDie (s : State) (d : Nat) (f : Die → Die) : (s.updDie d f).posts = s.posts := rfl
@[simp] theorem State.owed_updDie (s : State) (d : Nat) (f : Die → Die) : (s.updDie d f).owed = s.owed := rfl
@[simp] theorem State.flying_updDie (s : State) (d : Nat) (f : Die → Die) : (s.updDie d f).flying = s.flying := rfl
@[simp] theorem State.flown_updDie (s : State) (d : Nat) (f : Die → Die) : (s.updDie d f).flown = s.flown := rfl
@[simp] theorem State.replies_updDie (s : State) (d : Nat) (f : Die → Die) : (s.updDie d f).replies = s.replies := rfl
@[simp] theorem State.heldJoins_updDie (s : State) (d : Nat) (f : Die → Die) : (s.updDie d f).heldJoins = s.heldJoins := rfl
@[simp] theorem State.busyList_updDie (s : State) (d : Nat) (f : Die → Die) : (s.updDie d f).busyList = s.busyList := rfl
@[simp] theorem State.retry_updDie (s : State) (d : Nat) (f : Die → Die) : (s.updDie d f).retry = s.retry := rfl
@[simp] theorem State.serving_updDie (s : State) (d : Nat) (f : Die → Die) : (s.updDie d f).serving = s.serving := rfl
@[simp] theorem State.hostrep_updDie (s : State) (d : Nat) (f : Die → Die) : (s.updDie d f).hostrep = s.hostrep := rfl
@[simp] theorem State.hostData_updDie (s : State) (d : Nat) (f : Die → Die) : (s.updDie d f).hostData = s.hostData := rfl
@[simp] theorem State.arrivals_updDie (s : State) (d : Nat) (f : Die → Die) : (s.updDie d f).arrivals = s.arrivals := rfl
@[simp] theorem State.hostMem_updDie (s : State) (d : Nat) (f : Die → Die) : (s.updDie d f).hostMem = s.hostMem := rfl
@[simp] theorem State.shadows_updDie (s : State) (d : Nat) (f : Die → Die) : (s.updDie d f).shadows = s.shadows := rfl
@[simp] theorem State.homes_updDie (s : State) (d : Nat) (f : Die → Die) : (s.updDie d f).homes = s.homes := rfl
@[simp] theorem State.timers_updDie (s : State) (d : Nat) (f : Die → Die) : (s.updDie d f).timers = s.timers := rfl
@[simp] theorem State.pkg_updDie (s : State) (d : Nat) (f : Die → Die) : (s.updDie d f).pkg = s.pkg := rfl

/-! `updPkg` -/

@[simp] theorem State.cur_updPkg (s : State) (f : Pkg → Pkg) : (s.updPkg f).cur = s.cur := rfl
@[simp] theorem State.tick_updPkg (s : State) (f : Pkg → Pkg) : (s.updPkg f).tick = s.tick := rfl
@[simp] theorem State.clock_updPkg (s : State) (f : Pkg → Pkg) : (s.updPkg f).clock = s.clock := rfl
@[simp] theorem State.events_updPkg (s : State) (f : Pkg → Pkg) : (s.updPkg f).events = s.events := rfl
@[simp] theorem State.actor_updPkg (s : State) (f : Pkg → Pkg) : (s.updPkg f).actor = s.actor := rfl
@[simp] theorem State.crews_updPkg (s : State) (f : Pkg → Pkg) : (s.updPkg f).crews = s.crews := rfl
@[simp] theorem State.dies_updPkg (s : State) (f : Pkg → Pkg) : (s.updPkg f).dies = s.dies := rfl
@[simp] theorem State.mem_updPkg (s : State) (f : Pkg → Pkg) : (s.updPkg f).mem = s.mem := rfl
@[simp] theorem State.lines_updPkg (s : State) (f : Pkg → Pkg) : (s.updPkg f).lines = s.lines := rfl
@[simp] theorem State.copies_updPkg (s : State) (f : Pkg → Pkg) : (s.updPkg f).copies = s.copies := rfl
@[simp] theorem State.leaves_updPkg (s : State) (f : Pkg → Pkg) : (s.updPkg f).leaves = s.leaves := rfl
@[simp] theorem State.walks_updPkg (s : State) (f : Pkg → Pkg) : (s.updPkg f).walks = s.walks := rfl
@[simp] theorem State.watches_updPkg (s : State) (f : Pkg → Pkg) : (s.updPkg f).watches = s.watches := rfl
@[simp] theorem State.slots_updPkg (s : State) (f : Pkg → Pkg) : (s.updPkg f).slots = s.slots := rfl
@[simp] theorem State.posts_updPkg (s : State) (f : Pkg → Pkg) : (s.updPkg f).posts = s.posts := rfl
@[simp] theorem State.owed_updPkg (s : State) (f : Pkg → Pkg) : (s.updPkg f).owed = s.owed := rfl
@[simp] theorem State.flying_updPkg (s : State) (f : Pkg → Pkg) : (s.updPkg f).flying = s.flying := rfl
@[simp] theorem State.flown_updPkg (s : State) (f : Pkg → Pkg) : (s.updPkg f).flown = s.flown := rfl
@[simp] theorem State.replies_updPkg (s : State) (f : Pkg → Pkg) : (s.updPkg f).replies = s.replies := rfl
@[simp] theorem State.heldJoins_updPkg (s : State) (f : Pkg → Pkg) : (s.updPkg f).heldJoins = s.heldJoins := rfl
@[simp] theorem State.busyList_updPkg (s : State) (f : Pkg → Pkg) : (s.updPkg f).busyList = s.busyList := rfl
@[simp] theorem State.retry_updPkg (s : State) (f : Pkg → Pkg) : (s.updPkg f).retry = s.retry := rfl
@[simp] theorem State.serving_updPkg (s : State) (f : Pkg → Pkg) : (s.updPkg f).serving = s.serving := rfl
@[simp] theorem State.hostrep_updPkg (s : State) (f : Pkg → Pkg) : (s.updPkg f).hostrep = s.hostrep := rfl
@[simp] theorem State.hostData_updPkg (s : State) (f : Pkg → Pkg) : (s.updPkg f).hostData = s.hostData := rfl
@[simp] theorem State.arrivals_updPkg (s : State) (f : Pkg → Pkg) : (s.updPkg f).arrivals = s.arrivals := rfl
@[simp] theorem State.hostMem_updPkg (s : State) (f : Pkg → Pkg) : (s.updPkg f).hostMem = s.hostMem := rfl
@[simp] theorem State.shadows_updPkg (s : State) (f : Pkg → Pkg) : (s.updPkg f).shadows = s.shadows := rfl
@[simp] theorem State.homes_updPkg (s : State) (f : Pkg → Pkg) : (s.updPkg f).homes = s.homes := rfl
@[simp] theorem State.timers_updPkg (s : State) (f : Pkg → Pkg) : (s.updPkg f).timers = s.timers := rfl

/-! `updLink` -/

@[simp] theorem State.cur_updLink (s : State) (n : Nat) (f : Link → Link) : (s.updLink n f).cur = s.cur := rfl
@[simp] theorem State.tick_updLink (s : State) (n : Nat) (f : Link → Link) : (s.updLink n f).tick = s.tick := rfl
@[simp] theorem State.clock_updLink (s : State) (n : Nat) (f : Link → Link) : (s.updLink n f).clock = s.clock := rfl
@[simp] theorem State.events_updLink (s : State) (n : Nat) (f : Link → Link) : (s.updLink n f).events = s.events := rfl
@[simp] theorem State.actor_updLink (s : State) (n : Nat) (f : Link → Link) : (s.updLink n f).actor = s.actor := rfl
@[simp] theorem State.crews_updLink (s : State) (n : Nat) (f : Link → Link) : (s.updLink n f).crews = s.crews := rfl
@[simp] theorem State.dies_updLink (s : State) (n : Nat) (f : Link → Link) : (s.updLink n f).dies = s.dies := rfl
@[simp] theorem State.mem_updLink (s : State) (n : Nat) (f : Link → Link) : (s.updLink n f).mem = s.mem := rfl
@[simp] theorem State.lines_updLink (s : State) (n : Nat) (f : Link → Link) : (s.updLink n f).lines = s.lines := rfl
@[simp] theorem State.copies_updLink (s : State) (n : Nat) (f : Link → Link) : (s.updLink n f).copies = s.copies := rfl
@[simp] theorem State.leaves_updLink (s : State) (n : Nat) (f : Link → Link) : (s.updLink n f).leaves = s.leaves := rfl
@[simp] theorem State.walks_updLink (s : State) (n : Nat) (f : Link → Link) : (s.updLink n f).walks = s.walks := rfl
@[simp] theorem State.watches_updLink (s : State) (n : Nat) (f : Link → Link) : (s.updLink n f).watches = s.watches := rfl
@[simp] theorem State.slots_updLink (s : State) (n : Nat) (f : Link → Link) : (s.updLink n f).slots = s.slots := rfl
@[simp] theorem State.posts_updLink (s : State) (n : Nat) (f : Link → Link) : (s.updLink n f).posts = s.posts := rfl
@[simp] theorem State.owed_updLink (s : State) (n : Nat) (f : Link → Link) : (s.updLink n f).owed = s.owed := rfl
@[simp] theorem State.flying_updLink (s : State) (n : Nat) (f : Link → Link) : (s.updLink n f).flying = s.flying := rfl
@[simp] theorem State.flown_updLink (s : State) (n : Nat) (f : Link → Link) : (s.updLink n f).flown = s.flown := rfl
@[simp] theorem State.replies_updLink (s : State) (n : Nat) (f : Link → Link) : (s.updLink n f).replies = s.replies := rfl
@[simp] theorem State.heldJoins_updLink (s : State) (n : Nat) (f : Link → Link) : (s.updLink n f).heldJoins = s.heldJoins := rfl
@[simp] theorem State.busyList_updLink (s : State) (n : Nat) (f : Link → Link) : (s.updLink n f).busyList = s.busyList := rfl
@[simp] theorem State.retry_updLink (s : State) (n : Nat) (f : Link → Link) : (s.updLink n f).retry = s.retry := rfl
@[simp] theorem State.serving_updLink (s : State) (n : Nat) (f : Link → Link) : (s.updLink n f).serving = s.serving := rfl
@[simp] theorem State.hostrep_updLink (s : State) (n : Nat) (f : Link → Link) : (s.updLink n f).hostrep = s.hostrep := rfl
@[simp] theorem State.hostData_updLink (s : State) (n : Nat) (f : Link → Link) : (s.updLink n f).hostData = s.hostData := rfl
@[simp] theorem State.arrivals_updLink (s : State) (n : Nat) (f : Link → Link) : (s.updLink n f).arrivals = s.arrivals := rfl
@[simp] theorem State.hostMem_updLink (s : State) (n : Nat) (f : Link → Link) : (s.updLink n f).hostMem = s.hostMem := rfl
@[simp] theorem State.shadows_updLink (s : State) (n : Nat) (f : Link → Link) : (s.updLink n f).shadows = s.shadows := rfl
@[simp] theorem State.homes_updLink (s : State) (n : Nat) (f : Link → Link) : (s.updLink n f).homes = s.homes := rfl
@[simp] theorem State.timers_updLink (s : State) (n : Nat) (f : Link → Link) : (s.updLink n f).timers = s.timers := rfl

/-! `signal` -/

@[simp] theorem State.cur_signal (s : State) (v : Nat) : (s.signal v).cur = s.cur := rfl
@[simp] theorem State.tick_signal (s : State) (v : Nat) : (s.signal v).tick = s.tick := rfl
@[simp] theorem State.clock_signal (s : State) (v : Nat) : (s.signal v).clock = s.clock := rfl
@[simp] theorem State.events_signal (s : State) (v : Nat) : (s.signal v).events = s.events := rfl
@[simp] theorem State.actor_signal (s : State) (v : Nat) : (s.signal v).actor = s.actor := rfl
@[simp] theorem State.crews_signal (s : State) (v : Nat) : (s.signal v).crews = s.crews := rfl
@[simp] theorem State.dies_signal (s : State) (v : Nat) : (s.signal v).dies = s.dies := rfl
@[simp] theorem State.mem_signal (s : State) (v : Nat) : (s.signal v).mem = s.mem := rfl
@[simp] theorem State.lines_signal (s : State) (v : Nat) : (s.signal v).lines = s.lines := rfl
@[simp] theorem State.copies_signal (s : State) (v : Nat) : (s.signal v).copies = s.copies := rfl
@[simp] theorem State.leaves_signal (s : State) (v : Nat) : (s.signal v).leaves = s.leaves := rfl
@[simp] theorem State.walks_signal (s : State) (v : Nat) : (s.signal v).walks = s.walks := rfl
@[simp] theorem State.watches_signal (s : State) (v : Nat) : (s.signal v).watches = s.watches := rfl
@[simp] theorem State.slots_signal (s : State) (v : Nat) : (s.signal v).slots = s.slots := rfl
@[simp] theorem State.posts_signal (s : State) (v : Nat) : (s.signal v).posts = s.posts := rfl
@[simp] theorem State.owed_signal (s : State) (v : Nat) : (s.signal v).owed = s.owed := rfl
@[simp] theorem State.flying_signal (s : State) (v : Nat) : (s.signal v).flying = s.flying := rfl
@[simp] theorem State.flown_signal (s : State) (v : Nat) : (s.signal v).flown = s.flown := rfl
@[simp] theorem State.replies_signal (s : State) (v : Nat) : (s.signal v).replies = s.replies := rfl
@[simp] theorem State.heldJoins_signal (s : State) (v : Nat) : (s.signal v).heldJoins = s.heldJoins := rfl
@[simp] theorem State.busyList_signal (s : State) (v : Nat) : (s.signal v).busyList = s.busyList := rfl
@[simp] theorem State.retry_signal (s : State) (v : Nat) : (s.signal v).retry = s.retry := rfl
@[simp] theorem State.serving_signal (s : State) (v : Nat) : (s.signal v).serving = s.serving := rfl
@[simp] theorem State.hostrep_signal (s : State) (v : Nat) : (s.signal v).hostrep = s.hostrep := rfl
@[simp] theorem State.hostData_signal (s : State) (v : Nat) : (s.signal v).hostData = s.hostData := rfl
@[simp] theorem State.arrivals_signal (s : State) (v : Nat) : (s.signal v).arrivals = s.arrivals := rfl
@[simp] theorem State.hostMem_signal (s : State) (v : Nat) : (s.signal v).hostMem = s.hostMem := rfl
@[simp] theorem State.shadows_signal (s : State) (v : Nat) : (s.signal v).shadows = s.shadows := rfl
@[simp] theorem State.homes_signal (s : State) (v : Nat) : (s.signal v).homes = s.homes := rfl
@[simp] theorem State.timers_signal (s : State) (v : Nat) : (s.signal v).timers = s.timers := rfl

/-! `updJob` -/

@[simp] theorem State.cur_updJob (s : State) (j : Nat) (f : Job → Job) : (s.updJob j f).cur = s.cur := rfl
@[simp] theorem State.tick_updJob (s : State) (j : Nat) (f : Job → Job) : (s.updJob j f).tick = s.tick := rfl
@[simp] theorem State.clock_updJob (s : State) (j : Nat) (f : Job → Job) : (s.updJob j f).clock = s.clock := rfl
@[simp] theorem State.events_updJob (s : State) (j : Nat) (f : Job → Job) : (s.updJob j f).events = s.events := rfl
@[simp] theorem State.actor_updJob (s : State) (j : Nat) (f : Job → Job) : (s.updJob j f).actor = s.actor := rfl
@[simp] theorem State.crews_updJob (s : State) (j : Nat) (f : Job → Job) : (s.updJob j f).crews = s.crews := rfl
@[simp] theorem State.dies_updJob (s : State) (j : Nat) (f : Job → Job) : (s.updJob j f).dies = s.dies := rfl
@[simp] theorem State.mem_updJob (s : State) (j : Nat) (f : Job → Job) : (s.updJob j f).mem = s.mem := rfl
@[simp] theorem State.lines_updJob (s : State) (j : Nat) (f : Job → Job) : (s.updJob j f).lines = s.lines := rfl
@[simp] theorem State.copies_updJob (s : State) (j : Nat) (f : Job → Job) : (s.updJob j f).copies = s.copies := rfl
@[simp] theorem State.leaves_updJob (s : State) (j : Nat) (f : Job → Job) : (s.updJob j f).leaves = s.leaves := rfl
@[simp] theorem State.walks_updJob (s : State) (j : Nat) (f : Job → Job) : (s.updJob j f).walks = s.walks := rfl
@[simp] theorem State.watches_updJob (s : State) (j : Nat) (f : Job → Job) : (s.updJob j f).watches = s.watches := rfl
@[simp] theorem State.slots_updJob (s : State) (j : Nat) (f : Job → Job) : (s.updJob j f).slots = s.slots := rfl
@[simp] theorem State.posts_updJob (s : State) (j : Nat) (f : Job → Job) : (s.updJob j f).posts = s.posts := rfl
@[simp] theorem State.owed_updJob (s : State) (j : Nat) (f : Job → Job) : (s.updJob j f).owed = s.owed := rfl
@[simp] theorem State.flying_updJob (s : State) (j : Nat) (f : Job → Job) : (s.updJob j f).flying = s.flying := rfl
@[simp] theorem State.flown_updJob (s : State) (j : Nat) (f : Job → Job) : (s.updJob j f).flown = s.flown := rfl
@[simp] theorem State.replies_updJob (s : State) (j : Nat) (f : Job → Job) : (s.updJob j f).replies = s.replies := rfl
@[simp] theorem State.heldJoins_updJob (s : State) (j : Nat) (f : Job → Job) : (s.updJob j f).heldJoins = s.heldJoins := rfl
@[simp] theorem State.busyList_updJob (s : State) (j : Nat) (f : Job → Job) : (s.updJob j f).busyList = s.busyList := rfl
@[simp] theorem State.retry_updJob (s : State) (j : Nat) (f : Job → Job) : (s.updJob j f).retry = s.retry := rfl
@[simp] theorem State.serving_updJob (s : State) (j : Nat) (f : Job → Job) : (s.updJob j f).serving = s.serving := rfl
@[simp] theorem State.hostrep_updJob (s : State) (j : Nat) (f : Job → Job) : (s.updJob j f).hostrep = s.hostrep := rfl
@[simp] theorem State.hostData_updJob (s : State) (j : Nat) (f : Job → Job) : (s.updJob j f).hostData = s.hostData := rfl
@[simp] theorem State.arrivals_updJob (s : State) (j : Nat) (f : Job → Job) : (s.updJob j f).arrivals = s.arrivals := rfl
@[simp] theorem State.hostMem_updJob (s : State) (j : Nat) (f : Job → Job) : (s.updJob j f).hostMem = s.hostMem := rfl
@[simp] theorem State.shadows_updJob (s : State) (j : Nat) (f : Job → Job) : (s.updJob j f).shadows = s.shadows := rfl
@[simp] theorem State.homes_updJob (s : State) (j : Nat) (f : Job → Job) : (s.updJob j f).homes = s.homes := rfl
@[simp] theorem State.timers_updJob (s : State) (j : Nat) (f : Job → Job) : (s.updJob j f).timers = s.timers := rfl

/-! `setHome` -/

@[simp] theorem State.cur_setHome (s : State) (r : Word) (h : Home) : (s.setHome r h).cur = s.cur := rfl
@[simp] theorem State.tick_setHome (s : State) (r : Word) (h : Home) : (s.setHome r h).tick = s.tick := rfl
@[simp] theorem State.clock_setHome (s : State) (r : Word) (h : Home) : (s.setHome r h).clock = s.clock := rfl
@[simp] theorem State.events_setHome (s : State) (r : Word) (h : Home) : (s.setHome r h).events = s.events := rfl
@[simp] theorem State.actor_setHome (s : State) (r : Word) (h : Home) : (s.setHome r h).actor = s.actor := rfl
@[simp] theorem State.crews_setHome (s : State) (r : Word) (h : Home) : (s.setHome r h).crews = s.crews := rfl
@[simp] theorem State.dies_setHome (s : State) (r : Word) (h : Home) : (s.setHome r h).dies = s.dies := rfl
@[simp] theorem State.mem_setHome (s : State) (r : Word) (h : Home) : (s.setHome r h).mem = s.mem := rfl
@[simp] theorem State.lines_setHome (s : State) (r : Word) (h : Home) : (s.setHome r h).lines = s.lines := rfl
@[simp] theorem State.copies_setHome (s : State) (r : Word) (h : Home) : (s.setHome r h).copies = s.copies := rfl
@[simp] theorem State.leaves_setHome (s : State) (r : Word) (h : Home) : (s.setHome r h).leaves = s.leaves := rfl
@[simp] theorem State.walks_setHome (s : State) (r : Word) (h : Home) : (s.setHome r h).walks = s.walks := rfl
@[simp] theorem State.watches_setHome (s : State) (r : Word) (h : Home) : (s.setHome r h).watches = s.watches := rfl
@[simp] theorem State.slots_setHome (s : State) (r : Word) (h : Home) : (s.setHome r h).slots = s.slots := rfl
@[simp] theorem State.posts_setHome (s : State) (r : Word) (h : Home) : (s.setHome r h).posts = s.posts := rfl
@[simp] theorem State.owed_setHome (s : State) (r : Word) (h : Home) : (s.setHome r h).owed = s.owed := rfl
@[simp] theorem State.flying_setHome (s : State) (r : Word) (h : Home) : (s.setHome r h).flying = s.flying := rfl
@[simp] theorem State.flown_setHome (s : State) (r : Word) (h : Home) : (s.setHome r h).flown = s.flown := rfl
@[simp] theorem State.replies_setHome (s : State) (r : Word) (h : Home) : (s.setHome r h).replies = s.replies := rfl
@[simp] theorem State.heldJoins_setHome (s : State) (r : Word) (h : Home) : (s.setHome r h).heldJoins = s.heldJoins := rfl
@[simp] theorem State.busyList_setHome (s : State) (r : Word) (h : Home) : (s.setHome r h).busyList = s.busyList := rfl
@[simp] theorem State.retry_setHome (s : State) (r : Word) (h : Home) : (s.setHome r h).retry = s.retry := rfl
@[simp] theorem State.serving_setHome (s : State) (r : Word) (h : Home) : (s.setHome r h).serving = s.serving := rfl
@[simp] theorem State.hostrep_setHome (s : State) (r : Word) (h : Home) : (s.setHome r h).hostrep = s.hostrep := rfl
@[simp] theorem State.hostData_setHome (s : State) (r : Word) (h : Home) : (s.setHome r h).hostData = s.hostData := rfl
@[simp] theorem State.arrivals_setHome (s : State) (r : Word) (h : Home) : (s.setHome r h).arrivals = s.arrivals := rfl
@[simp] theorem State.hostMem_setHome (s : State) (r : Word) (h : Home) : (s.setHome r h).hostMem = s.hostMem := rfl
@[simp] theorem State.shadows_setHome (s : State) (r : Word) (h : Home) : (s.setHome r h).shadows = s.shadows := rfl
@[simp] theorem State.timers_setHome (s : State) (r : Word) (h : Home) : (s.setHome r h).timers = s.timers := rfl
@[simp] theorem State.pkg_setHome (s : State) (r : Word) (h : Home) : (s.setHome r h).pkg = s.pkg := rfl

end Sys2Proof.Machine
end

