-- ==== Sys2Proof/Laws/Mem.lean ====
section
/-!
SUPPORT. Device memory keeps its canonical form: one lemma for each operation of the homes and for each other operation that writes
device memory.
-/
namespace Sys2Proof.Machine

theorem State.memWf_of {s t : State} (h : s.MemWf) (e : t.mem = s.mem) : t.MemWf := by
  simpa only [State.MemWf, e] using h

/-- A fold of steps that keep the form keeps it. -/
theorem State.foldl_memWf {α : Type} (f : State → α → State) (hf : ∀ s a, s.MemWf → (f s a).MemWf) (l : List α) (s : State)
    (h : s.MemWf) : (l.foldl f s).MemWf := by
  induction l generalizing s with
  | nil => exact h
  | cons a r ih => exact ih _ (hf s a h)

/-- A fold of steps that leave memory alone leaves it alone. -/
theorem State.foldl_mem {α : Type} (f : State → α → State) (hf : ∀ s a, (f s a).mem = s.mem) (l : List α) (s : State) :
    (l.foldl f s).mem = s.mem := by
  induction l generalizing s with
  | nil => rfl
  | cons a r ih => exact (ih _).trans (hf s a)

theorem State.pokeLine_memWf (s : State) (l : Nat) (d : BitVec 1024) (h : s.MemWf) : (s.pokeLine l d).MemWf :=
  Memory.writeN_wf _ _ _ h
theorem State.poke_memWf (s : State) (pa n v : Nat) (h : s.MemWf) : (s.poke pa n v).MemWf := Memory.writeN_wf _ _ _ h

/-! What leaves memory alone. -/

@[simp] theorem State.mem_progress (s : State) (launch : Nat) : (s.progress launch).mem = s.mem := by
  unfold State.progress; split <;> rfl
@[simp] theorem State.mem_splitsPut (s : State) (k kind who aux data : Nat) : (s.splitsPut k kind who aux data).mem = s.mem := rfl
@[simp] theorem State.mem_newCopy (s : State) (a l : Nat) (c : Copy) : (s.newCopy a l c).mem = s.mem := by
  unfold State.newCopy; dsimp only
  split
  · split <;> rfl
  · rfl
@[simp] theorem State.mem_install (s : State) (a l : Nat) (st : CopyState) (d : BitVec 1024) : (s.install a l st d).mem = s.mem := by
  unfold State.install; split
  · rfl
  · exact State.mem_newCopy _ _ _ _
@[simp] theorem State.mem_hostReport (s : State) (l : Nat) (r : Report) : (s.hostReport l r).mem = s.mem := by
  unfold State.hostReport; dsimp only; split
  · rfl
  · refine State.foldl_mem _ ?_ _ _
    intro s p; rfl
@[simp] theorem State.mem_postMerge (s : State) (l : Nat) (b : Bool) (rs : List Report) : (s.postMerge l b rs).mem = s.mem := by
  refine State.foldl_mem _ ?_ _ _
  intro s r; split <;> simp
@[simp] theorem State.mem_dropWatches (s : State) (p : Watch → Bool) (l : Nat) : (s.dropWatches p l).mem = s.mem := rfl
@[simp] theorem State.mem_dropContextWatches (s : State) (c : CtxId) : (s.dropContextWatches c).mem = s.mem := by
  refine State.foldl_mem _ ?_ _ _
  intro s l; rfl
@[simp] theorem State.mem_deliver (s : State) (k : Nat) (e : Instr) (m : Msg) : (s.deliver k e m).mem = s.mem := rfl
@[simp] theorem State.mem_homeRead (s : State) (a l : Nat) : (s.homeRead a l).mem = s.mem := by
  unfold State.homeRead; dsimp only
  repeat' split
  all_goals simp
@[simp] theorem State.mem_homeWriteOwn (s : State) (a l : Nat) : (s.homeWriteOwn a l).mem = s.mem := by
  unfold State.homeWriteOwn; simp
@[simp] theorem State.mem_holdJoin (s : State) (a l : Nat) (j : JoinMsg) (o : Option Nat) : (s.holdJoin a l j o).mem = s.mem := rfl
theorem State.mem_logJoin {s t : State} {a l : Nat} {j : JoinMsg} (h : s.logJoin a l j = some t) : t.mem = s.mem := by
  unfold State.logJoin at h; dsimp only at h
  split at h
  · split at h
    · cases h
    · injection h with h; exact h ▸ rfl
  · injection h with h; exact h ▸ rfl
@[simp] theorem State.mem_joinDelta (s : State) (a l : Nat) (c : Copy) (j : JoinMsg) (o : Option Nat) :
    (s.joinDelta a l c j o).1.mem = s.mem := by
  unfold State.joinDelta; split
  · rfl
  · next e => exact (State.mem_putCopy _ _ _ _).trans (State.mem_logJoin e)
@[simp] theorem State.mem_lowerBoundFill (s : State) (a l : Nat) : (s.lowerBoundFill a l).mem = s.mem := by
  unfold State.lowerBoundFill; split
  · rfl
  · exact State.mem_newCopy _ _ _ _
@[simp] theorem State.mem_deltaGrant (s : State) (a l : Nat) : (s.deltaGrant a l).mem = s.mem := by
  simp [State.deltaGrant]

/-! What writes memory (R376, R377, R407, R361). -/

theorem State.pokeChunks_memWf (s : State) (f : Nat → Option Nat) (o v n : Nat) (h : s.MemWf) : (s.pokeChunks f o v n).MemWf := by
  induction n generalizing s o v with
  | zero => exact h
  | succ n ih =>
    apply ih
    split
    · exact State.poke_memWf _ _ _ _ h
    · exact h
theorem State.writeSpilled_memWf (s : State) (b : Nat) (x : Option Nat) (h : s.MemWf) : (s.writeSpilled b x).MemWf := by
  unfold State.writeSpilled; split
  · exact h
  · split
    · exact State.poke_memWf _ _ _ _ h
    · exact h

theorem State.undoAppend_memWf (s : State) (l : Nat) (h : s.MemWf) : (s.undoAppend l).MemWf := by
  unfold State.undoAppend; dsimp only
  split
  · exact h
  · split
    · split
      · exact h
      · have h1 : ∀ p v f o x n, ((s.pokeChunks f o x n).poke p 8 v).MemWf :=
          fun _ _ _ _ _ _ => State.poke_memWf _ _ _ _ (State.pokeChunks_memWf _ _ _ _ _ h)
        split
        · exact State.poke_memWf _ _ _ _ (h1 _ _ _ _ _ _)
        · exact h1 _ _ _ _ _ _
    · exact h

theorem State.shadowCopy_memWf (s t : State) (b : Bool) (l : Nat) (h : s.MemWf) (e : s.shadowCopy b l = some t) : t.MemWf := by
  unfold State.shadowCopy at e
  split at e
  · injection e with e; exact e ▸ h
  · split at e
    · cases e
    · injection e with e
      subst e
      have h2 : ∀ p, ((s.poke p 16 (128 * l + 2 ^ 64 * s.actor)).poke (p + 16) 128 (s.lineData l).toNat).MemWf :=
        fun _ => State.poke_memWf _ _ _ _ (State.poke_memWf _ _ _ _ h)
      unfold State.MemWf; dsimp only
      cases s.undoRegion <;> dsimp only
      · exact h2 _
      · split
        · exact h2 _
        · exact h

theorem State.flushLine_memWf (s : State) (l : Nat) (h : s.MemWf) : (s.flushLine l).MemWf := by
  unfold State.flushLine; dsimp only
  split
  · exact State.pokeLine_memWf _ _ _ h
  · exact h

theorem State.homeUncachedWrite_memWf (s : State) (l : Nat) (d m : BitVec 1024) (h : s.MemWf) : (s.homeUncachedWrite l d m).1.MemWf := by
  unfold State.homeUncachedWrite; dsimp only
  split
  · exact State.flushLine_memWf _ _ h
  · have := State.pokeLine_memWf _ l (mergeBits (((s.flushLine l).undoAppend l).memLine l) d m)
      (State.undoAppend_memWf _ l (State.flushLine_memWf s l h))
    split <;> exact this

theorem State.hwWrite_memWf (s : State) (pa n v : Nat) (h : s.MemWf) : (s.hwWrite pa n v).MemWf :=
  State.homeUncachedWrite_memWf _ _ _ _ h
theorem State.recWrite_memWf (s : State) (r : Word) (o n v : Nat) (h : s.MemWf) : (s.recWrite r o n v).MemWf := by
  unfold State.recWrite; split
  · exact State.hwWrite_memWf _ _ _ _ h
  · exact h

theorem State.homeWriteBack_memWf (s : State) (a l : Nat) (h : s.MemWf) : (s.homeWriteBack a l).MemWf := by
  unfold State.homeWriteBack
  extract_lets m
  split
  · exact h
  · split
    · extract_lets s1
      have h1 : s1.MemWf := State.pokeLine_memWf _ _ _ h
      split <;> exact h1
    · exact h

theorem State.setLatLine_memWf (s : State) (l : Nat) (x : LatLine) (h : s.MemWf) : (s.setLatLine l x).MemWf :=
  State.pokeLine_memWf _ _ _ (State.undoAppend_memWf _ _ h)

theorem State.setLatLineFor_memWf (s : State) (k l : Nat) (x : LatLine) (h : s.MemWf) : (s.setLatLineFor k l x).MemWf :=
  State.setLatLine_memWf { s with actor := k } l x h

theorem State.wakeRecord_memWf (s : State) (r : Word) (k c : Nat) (h : s.MemWf) : (s.wakeRecord r k c).MemWf :=
  by
  unfold State.wakeRecord; dsimp only
  split
  · exact h
  · exact State.recWrite_memWf _ _ _ _ _ (State.recWrite_memWf _ _ _ _ _ h)

theorem State.fire_memWf (s : State) (w : Watch) (c : Nat) (h : s.MemWf) : (s.fire w c).MemWf := by
  unfold State.fire; split
  · exact State.memWf_of h (State.mem_progress _ _)
  · exact State.memWf_of (State.wakeRecord_memWf _ _ _ _ h) (State.mem_progress _ _)
  · exact h

theorem State.evalWatches_memWf (s : State) (l : Nat) (h : s.MemWf) : (s.evalWatches l).MemWf :=
  State.foldl_memWf _ (fun s a h => State.fire_memWf s a.1 a.2 h) _ _ (State.memWf_of h (by simp))

theorem State.mergeHome_memWf (s : State) (l : Nat) (j : JoinMsg) (h : s.MemWf) : (s.mergeHome l j).MemWf :=
  State.memWf_of (State.evalWatches_memWf _ l (State.memWf_of (State.setLatLine_memWf s l _ h) (State.mem_postMerge _ _ _ _)))
    (State.mem_progress _ _)

theorem State.joinAtHome_memWf (s : State) (l : Nat) (j : JoinMsg) (o : Option Nat) (h : s.MemWf) : (s.joinAtHome l j o).1.MemWf := by
  unfold State.joinAtHome
  split
  · exact h
  · next s1 e =>
    have h1 : s1.MemWf := by
      split at e
      · cases e; exact h
      · exact State.memWf_of h (State.mem_logJoin e)
    split
    · split
      · exact h1
      · exact State.mergeHome_memWf _ _ _ h1
    · split
      · exact State.memWf_of h1 (by simp)
      · exact State.memWf_of h1 rfl
    · exact h1

theorem State.deltaDrain_memWf (s : State) (a l : Nat) (h : s.MemWf) : (s.deltaDrain a l).MemWf := by
  unfold State.deltaDrain; dsimp only
  split
  · exact h
  · split
    · exact h
    · have h2 : ∀ b : Prop, [Decidable b] → ∀ m, (if b then (s.dropCopy a l).setMeta l m else s.dropCopy a l).MemWf := by
        intro b _ m; split <;> exact h
      split
      · exact h2 _ _
      · exact State.memWf_of (State.evalWatches_memWf _ _
          (State.memWf_of (State.setLatLineFor_memWf _ _ _ _ (h2 _ _)) (State.mem_postMerge _ _ _ _))) (State.mem_progress _ _)

theorem State.recallDeltas_memWf (s : State) (l : Nat) (h : s.MemWf) : (s.recallDeltas l).MemWf :=
  State.memWf_of (State.foldl_memWf (fun (s : State) (p : Nat × Copy) => s.deltaDrain p.1 l) (fun s p h => State.deltaDrain_memWf s p.1 l h)
    _ _ (State.foldl_memWf (fun (s : State) a => s.dropCopy a l) (fun _ _ h => h) (s.lostMembers l) s h)) (State.mem_updMeta _ _ _)

theorem State.registerWatch_memWf (s : State) (w : Watch) (h : s.MemWf) : (s.registerWatch w).MemWf :=
  State.evalWatches_memWf _ _ (State.memWf_of (State.writeSpilled_memWf _ _ _
    (State.memWf_of (State.recallDeltas_memWf s w.line h) (State.mem_updMeta _ _ _))) rfl)

theorem State.freezeNotice_memWf (s : State) (a l : Nat) (h : s.MemWf) : (s.freezeNotice a l).MemWf := by
  unfold State.freezeNotice; dsimp only
  split <;> exact State.deltaDrain_memWf _ _ _ h

theorem State.freezeLine_memWf (s : State) (l : Nat) (h : s.MemWf) : (s.freezeLine l).MemWf := by
  unfold State.freezeLine
  split
  · exact h
  · exact State.evalWatches_memWf _ _ (State.foldl_memWf _ (fun s p h => State.freezeNotice_memWf s p.1 l h) _ _
      (State.memWf_of (State.undoAppend_memWf _ _ (State.recallDeltas_memWf s l h)) (State.mem_updMeta _ _ _)))

theorem State.resetLine_memWf (s : State) (l : Nat) (h : s.MemWf) : (s.resetLine l).MemWf := by
  unfold State.resetLine; dsimp only
  refine State.memWf_of ?_ (State.mem_setMeta _ _ _)
  have h1 := State.foldl_memWf (fun (s : State) w => s.fire w 5) (fun s w h => State.fire_memWf s w 5 h)
    (s.watches.filter fun w => w.line == l) _ (State.memWf_of h (State.mem_dropWatches s (fun _ => true) l))
  split
  · exact h1
  · exact State.pokeLine_memWf _ _ _ h1

theorem State.typeLine_memWf (s : State) (l : Nat) (t : LatType) (wc : Nat) (h : s.MemWf) : (s.typeLine l t wc).1.MemWf := by
  unfold State.typeLine; dsimp only
  split
  · exact State.recallDeltas_memWf _ _ h
  · unfold State.MemWf
    simp only [State.mem_setMeta]
    exact State.pokeLine_memWf _ l (bottomLine t wc) (State.undoAppend_memWf _ l (State.recallDeltas_memWf s l h))

theorem State.evict_memWf (s : State) (a l : Nat) (h : s.MemWf) : (s.evict a l).MemWf := by
  unfold State.evict
  split
  · exact h
  · split
    · exact State.deltaDrain_memWf _ _ _ h
    · refine State.memWf_of ?_ (State.mem_dropCopy _ _ _)
      split
      · exact State.homeWriteBack_memWf _ _ _ h
      · exact h

end Sys2Proof.Machine
end

