-- ==== Sys2Proof/Laws/Regs.lean ====
section
/-!
SUPPORT. The accessors of crews, contexts and registers: what is read after a write, in the same place and in another.
-/
namespace Sys2Proof.Machine

/-! Crews and contexts. -/

@[simp] theorem State.crewAt_updCrew (s : State) (k : Nat) (f : Crew → Crew) : (s.updCrew k f).crewAt k = f (s.crewAt k) := by
  simp [State.crewAt, State.updCrew]

theorem State.crewAt_updCrew_other (s : State) {k j : Nat} (f : Crew → Crew) (h : j ≠ k) : (s.updCrew k f).crewAt j = s.crewAt j := by
  simp [State.crewAt, State.updCrew, mget_mput_other _ _ _ h]

@[simp] theorem Crew.ctxAt_updCtx (c : Crew) (n : Nat) (f : Ctx → Ctx) : (c.updCtx n f).ctxAt n = f (c.ctxAt n) := by
  simp [Crew.ctxAt, Crew.updCtx]

theorem Crew.ctxAt_updCtx_other (c : Crew) {n m : Nat} (f : Ctx → Ctx) (h : m ≠ n) : (c.updCtx n f).ctxAt m = c.ctxAt m := by
  simp [Crew.ctxAt, Crew.updCtx, mget_mput_other _ _ _ h]

@[simp] theorem State.ctxAt_updCtx (s : State) (i : CtxId) (f : Ctx → Ctx) : (s.updCtx i f).ctxAt i = f (s.ctxAt i) := by
  simp [State.ctxAt, State.updCtx]

theorem State.ctxAt_updCtx_other (s : State) {i j : CtxId} (f : Ctx → Ctx) (h : j ≠ i) : (s.updCtx i f).ctxAt j = s.ctxAt j := by
  unfold State.ctxAt State.updCtx
  by_cases hk : j.crew = i.crew
  · have hn : j.n ≠ i.n := fun e => h (by cases i; cases j; simp_all)
    rw [hk, State.crewAt_updCrew, Crew.ctxAt_updCtx_other _ _ hn]
  · rw [State.crewAt_updCrew_other _ _ hk]

@[simp] theorem State.cx_upd (s : State) (f : Ctx → Ctx) : (s.upd f).cx = f s.cx := by simp [State.cx, State.upd]

/-- An update that keeps the contexts keeps each of them. -/
theorem State.ctxAt_updCrew (s : State) (k : Nat) (f : Crew → Crew) (i : CtxId) (h : ∀ c, (f c).ctxs = c.ctxs) :
    (s.updCrew k f).ctxAt i = s.ctxAt i := by
  unfold State.ctxAt
  by_cases hk : i.crew = k
  · subst hk; simp [Crew.ctxAt, h]
  · rw [State.crewAt_updCrew_other _ _ hk]

@[simp] theorem State.ctxAt_push (s : State) (e : Instr) (i : CtxId) : (s.push e).ctxAt i = s.ctxAt i := rfl
@[simp] theorem State.ctxAt_after (s : State) (c : Nat) (e : Instr) (i : CtxId) : (s.after c e).ctxAt i = s.ctxAt i := rfl
@[simp] theorem State.cx_push (s : State) (e : Instr) : (s.push e).cx = s.cx := rfl
@[simp] theorem State.cx_after (s : State) (c : Nat) (e : Instr) : (s.after c e).cx = s.cx := rfl
@[simp] theorem State.crewAt_push (s : State) (e : Instr) (k : Nat) : (s.push e).crewAt k = s.crewAt k := rfl
@[simp] theorem State.crewAt_after (s : State) (c : Nat) (e : Instr) (k : Nat) : (s.after c e).crewAt k = s.crewAt k := rfl

/-- Two updates of one crew are one. -/
@[simp] theorem State.updCrew_updCrew (s : State) (k : Nat) (f g : Crew → Crew) :
    (s.updCrew k f).updCrew k g = s.updCrew k fun c => g (f c) := by
  simp [State.updCrew, State.crewAt]

@[simp] theorem State.updCtx_updCtx (s : State) (i : CtxId) (f g : Ctx → Ctx) :
    (s.updCtx i f).updCtx i g = s.updCtx i fun c => g (f c) := by
  simp [State.updCtx, Crew.updCtx, Crew.ctxAt]

@[simp] theorem State.upd_upd (s : State) (f g : Ctx → Ctx) : (s.upd f).upd g = s.upd fun c => g (f c) := by
  simp [State.upd]

/-- An update of the issuing context leaves nothing but its result. -/
theorem State.upd_eq_const (s : State) (f : Ctx → Ctx) : s.upd f = s.upd fun _ => f s.cx := by
  simp [State.upd, State.updCtx, State.updCrew, Crew.updCtx, State.cx, State.ctxAt]

/-! Registers. -/

theorem Ctx.getX_setX (c : Ctx) (d r : BitVec 6) (v : Word) : (c.setX d v).getX r = if r = d ∧ d ≠ 0 then v else c.getX r := by
  by_cases hd : d = 0
  · simp [Ctx.setX, hd]
  · by_cases hr : r = d
    · subst hr
      simp only [Ctx.setX, Ctx.getX, hd, if_false, ne_eq, not_false_eq_true, and_self, if_true]
      exact Vector.getElem_set_self ..
    · have hn : d.toNat ≠ r.toNat := fun e => hr (BitVec.eq_of_toNat_eq e.symm)
      simp only [Ctx.setX, Ctx.getX, hd, hr, if_false, false_and]
      split
      · rfl
      · exact Vector.getElem_set_ne _ _ hn

theorem Ctx.getP_setP (c : Ctx) (d r : BitVec 3) (b : Bool) : (c.setP d b).getP r = if r = d ∧ d ≠ 0 then b else c.getP r := by
  by_cases hd : d = 0
  · simp [Ctx.setP, hd]
  · have h8 : r.toNat < 8 := r.isLt
    by_cases hr : r = d
    · subst hr
      simp only [Ctx.setP, Ctx.getP, hd, if_false, ne_eq, not_false_eq_true, and_self, if_true]
      rw [show (r == 0) = false by simpa using hd, Bool.false_or]
      cases b <;> simp [h8]
    · have h1 : d.toNat ≠ r.toNat := fun e => hr (BitVec.eq_of_toNat_eq e.symm)
      simp only [Ctx.setP, Ctx.getP, hd, hr, if_false, false_and]
      congr 1
      cases b <;> simp [h8] <;> omega

theorem Ctx.getV_setV (c : Ctx) (d r : BitVec 5) (v : VReg) : (c.setV d v).getV r = if r = d then v else c.getV r := by
  unfold Ctx.setV Ctx.getV
  by_cases hr : r = d
  · subst hr; simp
  · have : d.toNat ≠ r.toNat := fun e => hr (BitVec.eq_of_toNat_eq e.symm)
    simp [hr, this]

theorem Ctx.getT_setT (c : Ctx) (d r : BitVec 4) (v : BitVec 32) : (c.setT d v).getT r = if r = d then v else c.getT r := by
  unfold Ctx.setT Ctx.getT
  by_cases hr : r = d
  · subst hr; simp
  · have : d.toNat ≠ r.toNat := fun e => hr (BitVec.eq_of_toNat_eq e.symm)
    simp [hr, this]

theorem Ctx.getTsh_setTsh (c : Ctx) (d r : BitVec 3) (v : Word) : (c.setTsh d v).getTsh r = if r = d then v else c.getTsh r := by
  unfold Ctx.setTsh Ctx.getTsh
  by_cases hr : r = d
  · subst hr; simp
  · have : d.toNat ≠ r.toNat := fun e => hr (BitVec.eq_of_toNat_eq e.symm)
    simp [hr, this]

@[simp] theorem Ctx.getX_zero (c : Ctx) : c.getX 0 = 0 := by simp [Ctx.getX]
@[simp] theorem Ctx.getP_zero (c : Ctx) : c.getP 0 = true := by simp [Ctx.getP]

/-- Writing x(d) changes the scalar registers only. -/
theorem Ctx.setX_frame (c : Ctx) (d : BitVec 6) (v : Word) : c.setX d v = { c with x := (c.setX d v).x } := by
  unfold Ctx.setX; split <;> rfl
theorem Ctx.setP_frame (c : Ctx) (d : BitVec 3) (b : Bool) : c.setP d b = { c with p := (c.setP d b).p } := by
  unfold Ctx.setP; split <;> rfl

/-- `Step` (R149) changes the loops and the PC only. -/
theorem Ctx.stepTo_frame (c : Ctx) (next pc : Word) (j : Bool) :
    c.stepTo next pc j = { c with l0 := (c.stepTo next pc j).l0, l1 := (c.stepTo next pc j).l1, pc := (c.stepTo next pc j).pc } := by
  unfold Ctx.stepTo; split <;> rfl

/-- `Step` reads nothing but the loops, the PC and the mode. -/
theorem Ctx.stepTo_x (c : Ctx) (x : Vector Word 64) (next pc : Word) (j : Bool) :
    ({ c with x := x } : Ctx).stepTo next pc j = { c.stepTo next pc j with x := x } := by
  show (if c.depth = 0 then _ else _) = _
  by_cases h : c.depth = 0 <;> simp [Ctx.stepTo, h]
theorem Ctx.stepTo_p (c : Ctx) (p : BitVec 8) (next pc : Word) (j : Bool) :
    ({ c with p := p } : Ctx).stepTo next pc j = { c.stepTo next pc j with p := p } := by
  show (if c.depth = 0 then _ else _) = _
  by_cases h : c.depth = 0 <;> simp [Ctx.stepTo, h]
theorem Ctx.stepTo_setX (c : Ctx) (d : BitVec 6) (v next pc : Word) (j : Bool) :
    (c.setX d v).stepTo next pc j = { c.stepTo next pc j with x := (c.setX d v).x } := by
  rw [Ctx.setX_frame, Ctx.stepTo_x]
theorem Ctx.stepTo_setP (c : Ctx) (d : BitVec 3) (b : Bool) (next pc : Word) (j : Bool) :
    (c.setP d b).stepTo next pc j = { c.stepTo next pc j with p := (c.setP d b).p } := by
  rw [Ctx.setP_frame, Ctx.stepTo_p]

/-! Bytes of memory. -/

/-- A byte depends on memory, line states and copies alone. -/
theorem State.byteAt_congr {s t : State} (hm : t.mem = s.mem) (hl : t.lines = s.lines) (hc : t.copies = s.copies) (pa : Nat) :
    t.byteAt pa = s.byteAt pa := by
  simp only [State.byteAt, State.lineData, State.metaOf, State.copyAt?, State.memLine, hm, hl, hc]
  rfl

@[simp] theorem State.byteAt_upd (s : State) (f : Ctx → Ctx) (pa : Nat) : (s.upd f).byteAt pa = s.byteAt pa :=
  State.byteAt_congr rfl rfl rfl pa
@[simp] theorem State.byteAt_updCtx (s : State) (i : CtxId) (f : Ctx → Ctx) (pa : Nat) : (s.updCtx i f).byteAt pa = s.byteAt pa :=
  State.byteAt_congr rfl rfl rfl pa
@[simp] theorem State.byteAt_updCrew (s : State) (k : Nat) (f : Crew → Crew) (pa : Nat) : (s.updCrew k f).byteAt pa = s.byteAt pa :=
  State.byteAt_congr rfl rfl rfl pa
@[simp] theorem State.byteAt_push (s : State) (e : Instr) (pa : Nat) : (s.push e).byteAt pa = s.byteAt pa := rfl
@[simp] theorem State.byteAt_after (s : State) (c : Nat) (e : Instr) (pa : Nat) : (s.after c e).byteAt pa = s.byteAt pa := rfl
@[simp] theorem State.byteAt_post (s : State) (r : Report) (pa : Nat) : (s.post r).byteAt pa = s.byteAt pa := rfl

end Sys2Proof.Machine
end

