-- ==== Sys2Proof/Laws/Ops.lean ====
section
/-!
SUPPORT. What each shared operation of the instructions can do, said once: writing a register and going on, transferring, trapping
and waiting.
-/
namespace Sys2Proof.Machine

theorem State.sameBytes_rfl (s : State) : s.SameBytes s := fun _ _ => rfl
theorem State.SameBytes.trans {s t u : State} (h : s.SameBytes t) (g : t.SameBytes u) : s.SameBytes u :=
  fun pa hp => (g pa hp).trans (h pa hp)

/-- Memory, line states and copies decide what bytes read as. -/
theorem State.sameBytes_of {s t : State} (hm : t.mem = s.mem) (hl : t.lines = s.lines) (hc : t.copies = s.copies) : s.SameBytes t :=
  fun pa _ => State.byteAt_congr hm hl hc pa

/-- An update of the issuing context changes nothing else. -/
theorem State.onlyHere_upd (s : State) (f : Ctx → Ctx) : s.OnlyHere (s.upd f) where
  rest := by rw [State.cx_upd]; exact State.upd_eq_const s f
  bytes := fun pa _ => State.byteAt_upd s f pa

@[simp] theorem Ctx.advance_seq_setX (c : Ctx) (d : BitVec 6) (v : Word) :
    (c.setX d v).advance .seq = { c.advance .seq with x := (c.setX d v).x } := by
  unfold Ctx.setX
  split
  · exact Ctx.stepTo_x c c.x _ _ _
  · exact Ctx.stepTo_x c _ _ _ _

@[simp] theorem Ctx.advance_seq_setP (c : Ctx) (d : BitVec 3) (b : Bool) :
    (c.setP d b).advance .seq = { c.advance .seq with p := (c.setP d b).p } := by
  unfold Ctx.setP
  split
  · exact Ctx.stepTo_p c c.p _ _ _
  · exact Ctx.stepTo_p c _ _ _ _

/-- The registers after an update of them alone. -/
theorem Ctx.getX_withX (c : Ctx) (x : Vector Word 64) (e : Ctx) (h : e.x = x) (r : BitVec 6) :
    ({ c with x := x } : Ctx).getX r = e.getX r := by subst h; rfl
theorem Ctx.getP_withP (c : Ctx) (p : BitVec 8) (e : Ctx) (h : e.p = p) (r : BitVec 3) :
    ({ c with p := p } : Ctx).getP r = e.getP r := by subst h; rfl

/-- An update of the issuing context that writes x(d), goes on and does no more. -/
theorem State.givesX_upd (s : State) (d : BitVec 6) (v : Word) : s.GivesX d v (s.upd fun c => (c.setX d v).advance .seq) where
  value := by
    simp only [State.X, State.cx_upd, Ctx.advance_seq_setX]
    rw [Ctx.getX_withX _ _ (s.cx.setX d v) rfl, Ctx.getX_setX]
    by_cases h : d = 0
    · subst h; exact Ctx.getX_zero s.cx
    · rw [if_pos ⟨rfl, h⟩, if_neg h]
  others := by
    intro r hr
    simp only [State.X, State.cx_upd, Ctx.advance_seq_setX]
    rw [Ctx.getX_withX _ _ (s.cx.setX d v) rfl, Ctx.getX_setX]
    simp [hr]
  context := by simp only [State.cx_upd, Ctx.advance_seq_setX]
  only := State.onlyHere_upd s _

theorem State.givesP_upd (s : State) (d : BitVec 3) (b : Bool) : s.GivesP d b (s.upd fun c => (c.setP d b).advance .seq) where
  value := by
    simp only [State.P, State.cx_upd, Ctx.advance_seq_setP]
    rw [Ctx.getP_withP _ _ (s.cx.setP d b) rfl, Ctx.getP_setP]
    by_cases h : d = 0
    · subst h; exact Ctx.getP_zero s.cx
    · rw [if_pos ⟨rfl, h⟩, if_neg h]
  others := by
    intro r hr
    simp only [State.P, State.cx_upd, Ctx.advance_seq_setP]
    rw [Ctx.getP_withP _ _ (s.cx.setP d b) rfl, Ctx.getP_setP]
    simp [hr]
  context := by simp only [State.cx_upd, Ctx.advance_seq_setP]
  only := State.onlyHere_upd s _

/-- What an instruction that writes x(d) does. -/
theorem State.writesX_spec (s : State) (d : BitVec 6) (v : Word) : ∃ t, s.writesX d v = .next t ∧ s.GivesX d v t := by
  refine ⟨_, rfl, ?_⟩
  have h : (Res.ok Next.seq (s.setX d v)).finish = s.upd fun c => (c.setX d v).advance .seq := by
    show (s.upd _).upd _ = _
    rw [State.upd_upd]
  rw [h]
  exact State.givesX_upd s d v

/-- What an instruction that writes p(d) does. -/
theorem State.writesP_spec (s : State) (d : BitVec 3) (b : Bool) : ∃ t, s.writesP d b = .next t ∧ s.GivesP d b t := by
  refine ⟨_, rfl, ?_⟩
  have h : (Res.ok Next.seq (s.setP d b)).finish = s.upd fun c => (c.setP d b).advance .seq := by
    show (s.upd _).upd _ = _
    rw [State.upd_upd]
  rw [h]
  exact State.givesP_upd s d b

/-- What a transfer does. -/
theorem State.transfers_spec (s : State) (taken : Bool) (t : Word) :
    ∃ u, s.transfers taken t = .next u ∧ s.Goes (if taken then .jump t else .seq) u :=
  ⟨_, rfl, { context := State.cx_upd s _, only := State.onlyHere_upd s _ }⟩

/-! The outcome of a meaning's result. -/

@[simp] theorem Res.close_ok (n : Next) (s : State) : (Res.ok n s).close = .next (s.upd fun c => c.advance n) := rfl
@[simp] theorem Res.close_trap (c : Nat) (v : Word) (s : State) (h : c ≠ heldCause) :
    (Res.trap c v s : Res Next).close = .next (s.enterTrap s.cur c v s.pc 0 false) := by
  show Host.Outcome.next (if c = heldCause then _ else _) = _
  rw [if_neg h]
/-- An instruction whose request its crew holds (R365) has had no effect. -/
theorem Res.close_held (v : Word) (s : State) :
    (Res.trap heldCause v s : Res Next).close = .next (s.upd fun c => { c with wait := some .requests }) := rfl
@[simp] theorem Res.close_thunk (c : Nat) (v e : Word) (s : State) :
    (Res.thunk c v e s : Res Next).close = .next (s.enterTrap s.cur c v e s.pc false) := rfl
@[simp] theorem Res.bind_ok {α β : Type} (a : α) (s : State) (f : α → State → Res β) : (Res.ok a s).bind f = f a s := rfl
@[simp] theorem Res.bind_trap {α β : Type} (c : Nat) (v : Word) (s : State) (f : α → State → Res β) :
    (Res.trap c v s).bind f = .trap c v s := rfl
@[simp] theorem Res.bind_wait {α β : Type} (w : Wait) (s : State) (f : α → State → Res β) :
    (Res.wait w s).bind f = .wait w s := rfl

/-- A context that no cancellation has reached stalls. -/
theorem Res.close_wait (w : Wait) (s : State) (h : s.cx.cancelled = false) :
    (Res.wait w s : Res Next).close = .next (s.upd fun c => c.stall w) := by
  show Host.Outcome.next (if s.cx.cancelled && _ && _ && _ then _ else _) = _
  rw [h]; rfl

end Sys2Proof.Machine
end

