-- ==== Sys2Proof/Tests/Slice0.lean ====
section
/-!
SUPPORT. Tests: ill-formed terms that the checks refuse, words of the manual and their instructions, one step of small states, and for the
statements with hypotheses a state that meets them. Expected values come from the manual's text, tables and examples.
-/
namespace Sys2Proof.Machine.Tests

set_option Elab.async false

/-! Ill-formed terms, one for each check (R103–R116). -/

/-- The subcode of R115 for a term whose word is built from its fields. -/
def refusedWith (i : Instr) (c : Nat) : Bool :=
  match encode i with
  | some w => (match decode w with | .error e => e == c | .ok _ => false)
  | none => false
/-- A term that its check shuts out, and no decoder gives. -/
def illFormed (check : Instr → Bool) (i : Instr) : Bool :=
  !check i && !i.wellFormed && (match encode i with | some w => (match decode w with | .error _ => true | .ok j => j != i) | none => true)

theorem test_functionOk_refuses : [Instr.sext 1 2 3, .zext 1 2 3, .cmp 1 2 3 6, .cmpi 7 1 2 3, .ld 1 2 0 4, .st 1 2 0 7, .lds 1 2 0 3,
    .xread 1 2 0 4, .vcmp 1 2 3 0 6 0, .tew 1 2 3 14, .tred 1 2 0 3, .coll 1 2 3 0 7].all (illFormed Instr.functionOk) = true := by
  decide +kernel
theorem test_reservedOk_refuses : illFormed Instr.reservedOk (.tew 3 1 2 5) = true := by decide +kernel
theorem test_reservedOk_code : refusedWith (.tew 3 1 2 5) 3 = true := by decide +kernel
theorem test_bitField_refuses : [Instr.bfx 1 2 63 1, .bfxu 1 2 1 63, .bfi 1 2 32 32].all (fun i => illFormed Instr.operandOk i && refusedWith i 4) = true := by
  decide +kernel
theorem test_loop_refuses : [Instr.loop 0 5 0, .loopi 0 3 0, .ldp 3 4 0, .stp 5 4 0].all
    (fun i => illFormed Instr.operandOk i && refusedWith i 4) = true := by decide +kernel
theorem test_lattice_refuses : [Instr.ltype 1 1 2, .ltype 1 2 5, .ltype 1 2 6, .ltype 1 0 8, .tread 1 2 61 3 2 0, .twait 1 2 63 1 2 0].all
    (fun i => illFormed Instr.operandOk i && refusedWith i 4) = true := by decide +kernel
theorem test_vector_refuses : [Instr.vbcast 1 2 3, .vext 1 2 0 1 0, .vins 1 2 0 0 3, .vadd 1 2 3 0 3, .vmulh 1 2 3 0 6, .vabs 1 2 0 4].all
    (fun i => illFormed Instr.operandOk i && refusedWith i 4) = true := by decide +kernel
theorem test_format_refuses : [Instr.vcvt 1 2 0 3 3, .vcvt 1 2 0 9 0, .vpack 1 2 3 0 0, .vqnt 1 2 3 0 0 4, .vqnt 1 2 3 0 1 2, .vdqnt 1 2 3 0 2 4,
    .vredsum 1 2 0 1, .vsel 1 2 3 0, .vcmp 1 2 3 0 4 3].all (fun i => illFormed Instr.operandOk i && refusedWith i 4) = true := by decide +kernel
theorem test_engine_refuses : [Instr.cqfence 0].all (fun i => illFormed Instr.operandOk i && refusedWith i 4) = true := by decide +kernel
theorem test_scope_refuses : [Instr.join 1 2 6 2 4 , .freeze 1 2 7, .fence 1 6, .joinv 1 2 7 0 2 4].all
    (fun i => illFormed Instr.scopeOk i && refusedWith i 5) = true := by decide +kernel

/-! Words: those the manual prints, and for every other row of the opcode table one written from its match and fields (R99–R114). -/

/-- The word decodes to the instruction. -/
def reads (p : BitVec 32 × Instr) : Bool := match decode p.1 with | .ok j => decide (j = p.2) | .error _ => false

theorem test_words_scalar_manual : ([(0x0851000C, .addi 5 4 12), (0x08000000, .addi 0 0 0), (0x04518C4B, .bfx 5 6 12 11), (0x0451873B, .sel 5 6 7 3), (0x1851A003, .srai 5 6 3),
    (0x1C51BFFF, .sltiu 5 6 (-1)), (0x30210502, .cmp 2 4 5 2), (0x36913FFF, .cmpi 5 1 4 (-1)), (0x38304200, .pand 3 1 2)] : List (BitVec 32 × Instr)).all reads = true := by decide +kernel
theorem test_words_memory_manual : ([(0x68710012, .ld 7 4 2 2), (0x68824013, .ld 8 9 2 3), (0x7052BFFA, .st 5 10 (-1) 2), (0x74628B01, .stnNib 6 10 11), (0x78824010, .ldp 8 9 2),
    (0x7C528B09, .amocas 5 10 11 1)] : List (BitVec 32 × Instr)).all reads = true := by decide +kernel
theorem test_words_control_manual : ([(0x41C00010, .brc 3 1 16), (0x50004000, .jalr 0 1 0), (0x5011C000, .jalr 1 7 0), (0x44480004, .bnz 4 4), (0x590000C7, .loopi 0 3 7),
    (0x58114004, .loop 1 5 4), (0x5A100000, .lbrk 1), (0x5C000000, .ecall), (0x5C000001, .ebreak), (0x5C000002, .tret),
    (0x5C000003, .halt)] : List (BitVec 32 × Instr)).all reads = true := by decide +kernel
theorem test_words_lattice_manual : ([(0x80028B94, .join 10 11 4 2 4), (0x84928C94, .twait 9 10 12 0 2 4), (0x80028B46, .join 10 11 2 0 6), (0x84628C23, .tread 6 10 12 1 0 3), (0x8872800A, .xread 7 10 1 2),
    (0x8C028024, .ltype 10 2 4), (0x8C028B44, .freeze 10 11 4), (0x8C028080, .lreset 10), (0x8C5280C0, .lquery 5 10), (0x90500004, .fence 5 4),
    (0x9400FF00, .waitc 15 15 0 0), (0x90028041, .prefxL1 10)] : List (BitVec 32 × Instr)).all reads = true := by decide +kernel
theorem test_words_vector_arithmetic_manual : ([(0x9C611006, .vadd 3 1 2 0 6), (0x9CC42808, .vsub 6 4 5 0 0), (0xA08110C0, .vfma 4 1 2 3 0)] : List (BitVec 32 × Instr)).all reads = true := by decide +kernel
theorem test_words_tiles_manual : ([(0xC8800401, .tmm 2 0 1 1), (0xC0000082, .talloc 0 2), (0xC08000C0, .trel 2), (0xC0860100, .tstat 2 6), (0xC0140005, .tshape 20 5),
    (0xC0000180, .shpld 0), (0xC0400041, .tmapTrans 1 0 0), (0xC0001D43, .bankfmt 7 3), (0xC4040000, .tload 0 4), (0xC4840080, .tstore 2 4),
    (0xC4851900, .tforce 2 5 6), (0xC8800400, .tmm 2 0 1 0), (0xC8800500, .tmmx 2 0 1 0), (0xC8080200, .tmprog 8)] : List (BitVec 32 × Instr)).all reads = true := by decide +kernel
theorem test_words_csr_task_manual : ([(0x60700012, .csrr 7 0x12), (0x60015001, .csrw 5 1), (0x64000002, .done), (0x64528B00, .spawn 5 10 11), (0x64528B01, .spawnr 5 10 11),
    (0x64030003, .yield 12), (0x64028004, .signal 10), (0x64028B05, .arm 10 11), (0x64028009, .cancelGraph 10)] : List (BitVec 32 × Instr)).all reads = true := by decide +kernel
theorem test_words_lanes_manual : ([(0x98900700, .lclaim 9 7), (0x9861C040, .vext 6 7 0 0 0), (0x98514030, .vbcast 5 5 0)] : List (BitVec 32 × Instr)).all reads = true := by decide +kernel
theorem test_words_vector_moves_manual : ([(0xA424280B, .vcmp 1 4 5 0 2 3), (0xA8C40002, .vredsum 6 4 0 2)] : List (BitVec 32 × Instr)).all reads = true := by decide +kernel
theorem test_words_vector_formats_manual : ([(0xAD040020, .vcvt 8 4 0 2 0), (0xB48A0000, .vld 4 10 0), (0xB88A2014, .joinv 4 10 4 0 2 4)] : List (BitVec 32 × Instr)).all reads = true := by decide +kernel
theorem test_words_engines_manual : ([(0xCCC10800, .tew 3 1 2 0), (0xCCC20100, .tcvt 3 2), (0xD0441400, .cpy 1 4 5), (0xD5800000, .cqfence 6), (0xD8841410, .coll 2 4 5 1 0),
    (0xD8800100, .collw 2)] : List (BitVec 32 × Instr)).all reads = true := by decide +kernel
theorem test_words_scalar_table : ([(0x04918700, .add 9 6 7), (0x04918701, .sub 9 6 7), (0x04918702, .mul 9 6 7), (0x04918703, .mulh 9 6 7), (0x04918704, .mulhu 9 6 7),
    (0x04918705, .div 9 6 7), (0x04918706, .divu 9 6 7), (0x04918707, .rem 9 6 7), (0x04918708, .remu 9 6 7), (0x04918710, .and 9 6 7),
    (0x04918711, .or 9 6 7), (0x04918712, .xor 9 6 7), (0x04918713, .andn 9 6 7), (0x04918718, .sll 9 6 7), (0x04918719, .srl 9 6 7),
    (0x0491871A, .sra 9 6 7), (0x0491871B, .rol 9 6 7), (0x0491871C, .ror 9 6 7), (0x04918720, .min 9 6 7), (0x04918721, .max 9 6 7),
    (0x04918722, .minu 9 6 7), (0x04918723, .maxu 9 6 7), (0x04918724, .slt 9 6 7), (0x04918725, .sltu 9 6 7), (0x04918028, .clz 9 6),
    (0x04918029, .ctz 9 6), (0x0491802A, .popc 9 6), (0x0491872D, .lea 9 6 7 1), (0x04918031, .sext 9 6 1), (0x04918035, .zext 9 6 1),
    (0x04918781, .bfxu 9 6 7 1), (0x049187C1, .bfi 9 6 7 1), (0x0C918007, .andi 9 6 7), (0x10918007, .ori 9 6 7), (0x14918007, .xori 9 6 7),
    (0x18918007, .slli 9 6 7), (0x18919007, .srli 9 6 7), (0x1891B007, .roli 9 6 7), (0x1C918007, .slti 9 6 7), (0x20900006, .movi 9 6),
    (0x24900006, .addhi 9 6), (0x28900006, .addtop 9 6), (0x2C900006, .pcadd 9 6), (0x38314601, .por 3 5 6), (0x38314602, .pxor 3 5 6),
    (0x38314603, .pandn 3 5 6), (0x38314004, .pnot 3 5), (0x38314005, .pmov 3 5)] : List (BitVec 32 × Instr)).all reads = true := by decide +kernel
theorem test_words_control_table : ([(0x44900006, .bz 9 6), (0x48000009, .j 9), (0x4C000009, .jal 9)] : List (BitVec 32 × Instr)).all reads = true := by decide +kernel
theorem test_words_csr_task_table : ([(0x60026006, .csrs 9 6), (0x60027006, .csrc 9 6), (0x64024008, .cancelLaunch 9), (0x6402400A, .cancelPhase 9), (0x6402400B, .cancelJob 9)] : List (BitVec 32 × Instr)).all reads = true := by decide +kernel
theorem test_words_memory_table : ([(0x6C918039, .lds 9 6 7 1), (0x74918700, .stnBit 9 6 7), (0x78418039, .stp 4 6 7), (0x7C918708, .amoswap 9 6 7 1), (0x7C91870A, .amoadd 9 6 7 1)] : List (BitVec 32 × Instr)).all reads = true := by decide +kernel
theorem test_words_lattice_table : ([(0x90024040, .prefxL2 9)] : List (BitVec 32 × Instr)).all reads = true := by decide +kernel
theorem test_words_lanes_table : ([(0x98000010, .lfree), (0x98000020, .vsync), (0x98918755, .vins 9 6 7 1 1)] : List (BitVec 32 × Instr)).all reads = true := by decide +kernel
theorem test_words_vector_arithmetic_table : ([(0x9D263911, .vmul 9 6 7 1 1), (0x9D26391D, .vmulh 9 6 7 1 5), (0x9D263921, .vmin 9 6 7 1 1), (0x9D263929, .vmax 9 6 7 1 1), (0x9D260631, .vabs 9 6 6 1),
    (0x9D260639, .vneg 9 6 6 1), (0x9D260641, .vsat 9 6 6 1), (0x9D263948, .vand 9 6 7 1 0), (0x9D263950, .vor 9 6 7 1 0), (0x9D263958, .vxor 9 6 7 1 0),
    (0x9D263961, .vshl 9 6 7 1 1), (0x9D263969, .vshr 9 6 7 1 1), (0x9D263971, .vsra 9 6 7 1 1), (0xA1263849, .vfms 9 6 7 1 1), (0xA126384A, .vfnma 9 6 7 1 1)] : List (BitVec 32 × Instr)).all reads = true := by decide +kernel
theorem test_words_vector_moves_table : ([(0xA5263920, .vsel 9 6 7 1), (0xA5260640, .vmov 9 6 6), (0xA5200560, .viota 9 5), (0xA5263980, .vperm 9 6 7 1), (0xA4A62BA2, .vslideUp 5 6 37 3),
    (0xA4A62BA3, .vslideDn 5 6 37 3), (0xA9260611, .vredmin 9 6 6 1), (0xA9260621, .vredmax 9 6 6 1), (0xA9260630, .vscanAdd 9 6 6 0), (0xA9260635, .vscanMin 9 6 6 1),
    (0xA9260639, .vscanMax 9 6 6 1), (0xA9260680, .vexp2 9 6 6), (0xA9260690, .vlog2 9 6 6), (0xA92606A0, .vrcp 9 6 6), (0xA92606B0, .vrsq 9 6 6),
    (0xA92606C0, .vsqrt 9 6 6), (0xA92606D0, .vtanh 9 6 6), (0xA92606E0, .vsigm 9 6 6)] : List (BitVec 32 × Instr)).all reads = true := by decide +kernel
theorem test_words_vector_formats_table : ([(0xB1263902, .vpack 9 6 7 1 2), (0xB1263942, .vunpack 9 6 7 1 2), (0xB1263994, .vqnt 9 6 7 1 1 4), (0xB12639D4, .vdqnt 9 6 7 1 1 4), (0xB5260640, .vst 9 6 6),
    (0xB5263980, .vldx 9 6 7 1), (0xB52639C0, .vstx 9 6 7 1), (0xB9260680, .xreadv 9 6 6)] : List (BitVec 32 × Instr)).all reads = true := by decide +kernel
theorem test_words_tiles_table : ([(0xC2461C40, .tmapId 9 6 7), (0xC2461C42, .tmapSlice 9 6 7), (0xC2461C43, .tmapStride 9 6 7), (0xC2461C44, .tmapBcast 9 6 7), (0xC2461C45, .tmapGather 9 6 7)] : List (BitVec 32 × Instr)).all reads = true := by decide +kernel
theorem test_words_engines_table : ([(0xCE460085, .tred 9 6 1 1), (0xCE460180, .ttrans 9 6), (0xCE461E00, .tgath 9 6 7), (0xCE460281, .tqnt 9 6 1), (0xD0461D00, .cpymm 1 6 7),
    (0xD4460100, .cstat 1 6)] : List (BitVec 32 × Instr)).all reads = true := by decide +kernel
theorem test_words_refused : [(0x00000000, 0), (0xFFFFFFFF, 0), (0x3C000000, 1), (0x04000009, 2), (0x5C000004, 2), (0x80028BD4, 5), (0x58114000, 4)].all
    (fun p : BitVec 32 × Nat => match decode p.1 with | .error e => e == p.2 | .ok _ => false) = true := by decide +kernel

/-! Small states: context 0 of crew 0 in task mode, with registers as given. -/

def okIs {ε α : Type} [DecidableEq α] (r : Except ε α) (a : α) : Bool := match r with | .ok x => decide (x = a) | .error _ => false
theorem eq_of_okIs {ε α : Type} [DecidableEq α] {r : Except ε α} {a : α} (h : okIs r a = true) : r = .ok a := by
  cases r with
  | ok x => simp only [okIs, decide_eq_true_eq] at h; rw [h]
  | error e => cases h
def errIs {ε α : Type} [DecidableEq ε] (r : Except ε α) (a : ε) : Bool := match r with | .ok _ => false | .error x => decide (x = a)
theorem eq_of_errIs {ε α : Type} [DecidableEq ε] {r : Except ε α} {a : ε} (h : errIs r a = true) : r = .error a := by
  cases r with
  | ok x => cases h
  | error e => simp only [errIs, decide_eq_true_eq] at h; rw [h]

def ctx0 : CtxId := { crew := 0, n := 0 }
def task (f : Ctx → Ctx) : State :=
  { State.reset with events := [] }.updCtx ctx0 fun c => f { c with st := .active, pc := 0x1000, record := 0x2000, launch := 1 }
/-- The same context in its handler. -/
def handler (f : Ctx → Ctx) : State := task fun c => f { c with st := .handler, trap := { c.trap with tstatus := 1 } }
/-- The next state, where there is one. -/
def next (i : Instr) (s : State) : Option State := match exec i s with | .next t => some t | _ => none
/-- A register after an instruction. -/
def gives (i : Instr) (f : Ctx → Ctx) (d : BitVec 6) : Option Word := (next i (task f)).map fun t => t.X d
def givesP (i : Instr) (f : Ctx → Ctx) (d : BitVec 3) : Option Bool := (next i (task f)).map fun t => t.P d
/-- The PC after an instruction. -/
def goesTo (i : Instr) (f : Ctx → Ctx) : Option Word := (next i (task f)).map State.pc
/-- The trap an instruction takes: TCAUSE and TVAL. -/
def trapsWith (i : Instr) (s : State) : Option (Word × Word) := (next i s).map fun t => (t.cx.trap.tcause, t.cx.trap.tval)
def two (a b : Word) (c : Ctx) : Ctx := (c.setX 2 a).setX 3 b

/-! Scalar instructions: the results R137 and R138 print, and wraps. -/

theorem test_mulh : gives (.mulh 1 2 3) (two (-1) (-1)) 1 = some 0 := by decide +kernel
theorem test_mulhu : gives (.mulhu 1 2 3) (two (-1) (-1)) 1 = some 0xFFFFFFFFFFFFFFFE := by decide +kernel
theorem test_div : gives (.div 1 2 3) (two (-7) 2) 1 = some (-3) := by decide +kernel
theorem test_rem : gives (.rem 1 2 3) (two (-7) 2) 1 = some (-1) := by decide +kernel
theorem test_divu_zero : gives (.divu 1 2 3) (two 19 0) 1 = some 0xFFFFFFFFFFFFFFFF := by decide +kernel
theorem test_remu_zero : gives (.remu 1 2 3) (two 19 0) 1 = some 19 := by decide +kernel
theorem test_div_overflow : gives (.div 1 2 3) (two 0x8000000000000000 (-1)) 1 = some 0x8000000000000000 := by decide +kernel
theorem test_rol : gives (.rol 1 2 3) (two 0x123456789ABCDEF0 4) 1 = some 0x23456789ABCDEF01 := by decide +kernel
theorem test_bfx : gives (.bfx 1 2 12 11) (two 0xABC000 0) 1 = some 0xFFFFFFFFFFFFFABC := by decide +kernel
theorem test_bfxu : gives (.bfxu 1 2 12 11) (two 0xABC000 0) 1 = some 0xABC := by decide +kernel
theorem test_bfi_full : gives (.bfi 2 3 0 63) (two 5 9) 2 = some 9 := by decide +kernel
theorem test_add_wraps : gives (.add 2 2 3) (two (-1) 2) 2 = some 1 := by decide +kernel
theorem test_add_x0 : gives (.add 0 2 3) (two 1 2) 0 = some 0 := by decide +kernel
theorem test_sra_masks_amount : gives (.sra 1 2 3) (two (-8) 65) 1 = some (-4) := by decide +kernel
theorem test_clz_zero : gives (.clz 1 2) (two 0 0) 1 = some 64 := by decide +kernel
theorem test_lea : gives (.lea 1 2 3 3) (two 0x100 3) 1 = some 0x118 := by decide +kernel
theorem test_sel : gives (.sel 1 2 3 0) (two 7 8) 1 = some 7 := by decide +kernel
theorem test_sltiu_minus_one : gives (.sltiu 1 2 (-1)) (two (-2) 0) 1 = some 1 := by decide +kernel
theorem test_addhi : gives (.addhi 2 (-1)) (two 0x100000 0) 2 = some 0 := by decide +kernel
theorem test_pcadd : gives (.pcadd 1 1) id 1 = some 0x2000 := by decide +kernel
theorem test_cmpi_geu : givesP (.cmpi 5 1 2 (-1)) (two (-1) 0) 1 = some true := by decide +kernel
theorem test_pxor_clears : givesP (.pxor 1 1 1) (fun c => c.setP 1 true) 1 = some false := by decide +kernel
theorem test_p0 : givesP (.pand 0 1 2) id 0 = some true := by decide +kernel
theorem test_jalr_through_link : goesTo (.jalr 1 1 0) (fun c => c.setX 1 0x3000) = some 0x3000 := by decide +kernel
theorem test_jalr_link : gives (.jalr 1 1 0) (fun c => c.setX 1 0x3000) 1 = some 0x1004 := by decide +kernel
theorem test_jalr_misaligned : trapsWith (.jalr 1 2 2) (task (two 0x3000 0)) = some (0x0F, 0x3002) := by decide +kernel
theorem test_brc_p0_never : goesTo (.brc 0 1 16) id = some 0x1004 := by decide +kernel
theorem test_bnz : goesTo (.bnz 2 4) (two 1 0) = some 0x1010 := by decide +kernel
/-- The last pass of R152's inner loop, taken with both loops ending at the next address: the inner one ends, the outer steps. -/
def looping (c : Ctx) : Ctx := { c with l0 := { ls := 0x0F00, le := 0x1004, lc := 2 }, l1 := { ls := 0x0F80, le := 0x1004, lc := 1 } }
theorem test_loops_end_together : goesTo (.addi 0 0 0) looping = some 0x0F00 := by decide +kernel
theorem test_jump_out_ends_loop : (next (.j 16) (task looping)).map (fun t => (t.cx.l0.lc, t.cx.l1.lc)) = some (0, 0) := by decide +kernel
theorem test_loop_zero_trip : goesTo (.loop 1 0 4) id = some 0x1014 := by decide +kernel
theorem test_lbrk_inactive : goesTo (.lbrk 1) id = some 0x1004 := by decide +kernel
theorem test_loop_in_handler : trapsWith (.lbrk 1) (handler id) = some (0x10, 0x5A100000) := by decide +kernel

/-! The hypotheses of the statements on scalar instructions. -/

theorem met_BitOperations : (2 : BitVec 2) ≠ 3 ∧ (∃ n ≤ 64, n = 64) ∧ (63 : BitVec 6).toNat + ((0 : BitVec 6).toNat + 1) ≤ 64 ∧
    (0 : BitVec 6).toNat + ((63 : BitVec 6).toNat + 1) ≤ 64 := by decide +kernel
theorem met_Predicates : (5 : BitVec 3).toNat ≤ 5 := by decide
theorem met_BranchesAndLoops : (BitVec.ofInt 64 (((task (two 0x3000 0)).X 2).toInt + (4 : BitVec 14).toInt)).toNat % 4 = 0 ∧
    (BitVec.ofInt 64 (((task (two 0x3000 0)).X 2).toInt + (3 : BitVec 14).toInt)).toNat % 4 ≠ 0 := by decide +kernel
theorem met_loopOrder : (looping Ctx.fresh).depth = 0 ∧ (looping Ctx.fresh).l0.ls.toNat ≤ (looping Ctx.fresh).l1.ls.toNat ∧
    ({ looping Ctx.fresh with l0 := { ls := 0x1000, le := 0x1004, lc := 0 } }).l1.ls.toNat < 0x1000 ∧ (handler id).cx.depth ≠ 0 := by
  decide +kernel
theorem met_LoopInstructions : (task id).cx.depth = 0 ∧ (handler id).cx.depth ≠ 0 ∧ encode (.lbrk 1) = some 0x5A100000 ∧
    encode (.loopi 0 3 7) = some 0x590000C7 ∧ encode (.loop 1 5 4) = some 0x58114004 := by decide +kernel

/-! Control and status registers, traps (R27–R35, R57, R153–R161, R386–R391). -/

/-- The crew's SPLITCTL, with its buffer empty, and with HEAD one behind TAIL. -/
def logging (c : Word) (s : State) : State := s.updCrew 0 fun k => { k with splitctl := c }
def full : Word := 0x0000000100000005
theorem met_CsrReadsTask : (task id).cur.n < 32 ∧ (task id).cx.grant ≤ 64 ∧ (task id).cx.req ≤ 64 ∧ (task id).cx.vq.length ≤ 16 ∧
    splitsCsrs ((task id).crewAt 0).splitctl = false ∧ (task id).cx.depth = 0 ∧
    splitsCsrs ((logging 5 (task id)).crewAt 0).splitctl = true ∧ splitsFull? ((logging 5 (task id)).crewAt 0).splitctl = false ∧
    splitsCsrs ((logging full (task id)).crewAt 0).splitctl = true ∧ splitsFull? ((logging full (task id)).crewAt 0).splitctl = true ∧
    (handler id).cx.depth ≠ 0 := by decide +kernel
theorem met_CsrReadsTask_ends : (task fun c => { c with grant := 64, req := 64, vq := List.replicate 16 { flags := 0, isLoad := false } }).cx.grant ≤ 64 ∧
    ({ task id with cur := { crew := 1023, n := 31 } }).cur.n < 32 := by decide +kernel
theorem test_csrr_seatid : ((next (.csrr 7 0x22) { task id with cur := { crew := 0, n := 13 } }).map fun t => t.X 7) = some 0xB := by decide +kernel
theorem test_csrr_system_in_task : trapsWith (.csrr 7 0x800) (task id) = some (0x07, 0x60700800) := by decide +kernel
theorem test_csrr_unassigned : trapsWith (.csrr 7 0x7FF) (task id) = some (0x08, 0x607007FF) := by decide +kernel
theorem test_csrw_readonly : trapsWith (.csrw 5 0x12) (task id) = some (0x09, 0x60015012) := by decide +kernel
theorem test_csrw_fpctl_reserved : trapsWith (.csrw 5 1) (task fun c => c.setX 5 6) = some (0x0A, 6) := by decide +kernel
theorem test_csrw_fpctl_fields : (next (.csrw 5 1) (task fun c => c.setX 5 0xFFFFFFFFFFFFFFFC)).map (fun t => t.cx.fp.fpctl) = some 0x1FFF04 := by
  decide +kernel
theorem test_csrc_fpflags : (next (.csrc 5 2) (task fun c => { c.setX 5 1 with fp := { c.fp with fpflags := 3 } })).map (fun t => t.cx.fp.fpflags) = some 2 := by
  decide +kernel
theorem met_CsrReadsSystem : (task id).cx.depth = 0 ∧ 0x800 ≤ (0x800 : BitVec 12).toNat ∧ 0x800 ≤ (0xFFF : BitVec 12).toNat ∧
    (0x7FF : BitVec 12).toNat < 0x800 ∧ csrOf 0x7FF = none ∧ csrOf 0x000 = none ∧ csrOf 0xFFF = none ∧ (handler id).cx.depth ≠ 0 ∧
    csrOf 0x012 = some .cycle ∧ Csr.readOnly .cycle = true ∧ encode (.csrw 5 0x12) = some 0x60015012 ∧
    encode (.csrr 7 0x800) = some 0x60700800 := by decide +kernel
theorem met_CsrWrites : ((task fun c => c.setX 5 4).X 5).toNat % 8 ≤ 4 ∧ 5 ≤ ((task fun c => c.setX 5 5).X 5).toNat % 8 ∧
    (handler id).cx.depth ≠ 0 := by decide +kernel

/-- A trap from task mode and one from depth 1; at depth 2 the context is freed. -/
theorem test_ecall_entry : (next .ecall ((task id).updCrew 0 fun k => { k with thvec := 0x40000 })).map
    (fun t => (t.pc, t.cx.depth, t.cx.trap.tcause, t.cx.trap.tepc)) = some (0x40000, 1, 0x0D, 0x1000) := by decide +kernel
theorem test_ecall_depth : (next .ecall (handler id)).map (fun t => t.cx.depth) = some 2 := by decide +kernel
def deep (c : Ctx) : Ctx := { c with st := .handler, trap := { c.trap with tstatus := 2, tepc := 0x5000 } }
theorem test_trap_at_depth_2 : (next .ecall (task deep)).map (fun t => (t.cx.st, t.cx.record)) = some (.free, 0) := by decide +kernel
theorem met_TrapEntry : ((task id).ctxAt ctx0).boot = false ∧ ((task id).ctxAt ctx0).depth ≤ 1 ∧ ((handler id).ctxAt ctx0).depth ≤ 1 ∧
    ((task id).crewAt 0).sysbank.wf = true ∧ ((task deep).ctxAt ctx0).depth = 2 ∧
    ((task fun _ => Ctx.booting).ctxAt ctx0).boot = true ∧ (task id).pkg.fields.booted = false := by decide +kernel
def returning (st : Word) (c : Ctx) : Ctx := { c with st := .handler, trap := { c.trap with tstatus := st, tepc := 0x5000 } }
theorem test_tret_task : trapsWith .tret (task id) = some (0x0B, 0) := by decide +kernel
theorem test_tret_reserved : trapsWith .tret (task (returning 0x401)) = some (0x0C, 0x401) := by decide +kernel
theorem test_tret_blocks : (next .tret (task (returning 5))).map (fun t => (t.cx.st, t.pc, t.cx.depth)) = some (.blocked, 0x5000, 0) := by
  decide +kernel
theorem met_TrapReturn : (task (returning 1)).cx.depth = 1 ∧ (task (returning 2)).cx.depth = 2 ∧
    (task (returning 1)).cx.trap.tepc.toNat % 4 = 0 ∧ (task (returning 1)).cx.record ≠ 0 ∧ (task (returning 1)).cx.cancelled = false ∧
    (task (returning 1)).cx.req = 0 ∧ (∃ j < 64, 10 ≤ j ∧ ¬(16 ≤ j ∧ j ≤ 18) ∧ (0x400 : Word).getLsbD j = true) ∧
    (∃ j < 64, 10 ≤ j ∧ ¬(16 ≤ j ∧ j ≤ 18) ∧ (0x8000000000000000 : Word).getLsbD j = true) ∧
    ¬(∃ j < 64, 10 ≤ j ∧ ¬(16 ≤ j ∧ j ≤ 18) ∧ (0x703FD : Word).getLsbD j = true) := by decide +kernel
theorem met_TrapReturn_misaligned : (task fun c => { returning 1 c with trap := { c.trap with tstatus := 1, tepc := 2 } }).cx.trap.tepc.toNat % 4 ≠ 0 := by
  decide +kernel
theorem met_Halt : (handler id).cx.depth ≠ 0 ∧ (handler id).cx.cnt.stores ≤ (handler id).cx.hostWrites ∧ (task id).cx.depth = 0 := by decide +kernel
theorem test_halt : (next .halt (handler id)).map (fun t => (t.cx.halted, t.pc)) = some (true, 0x1004) := by decide +kernel
theorem test_halt_task : trapsWith .halt (task id) = some (0x06, 0x5C000003) := by decide +kernel
/-- The handler of crew 0's context, asking for HASHCTL values. -/
theorem met_HashctlRead : ((handler id).dieAt (crewDie 0)).domains = [] ++ (0, { members := BitVec.allOnes 32, mode := true, squads := BitVec.allOnes 16 }) :: [] ∧
    (0 : Nat) < 8 ∧ (BitVec.allOnes 16).getLsbD (crewSquad 0) = true := by decide +kernel
/-- The slices 16 to 31 and the squads 8 to 15 of a die go to domain 1, in XOR-fold mode. -/
def split2 : Word := 0x000FF002FFFF0000 ||| 0x100000000
theorem met_HashctlWrite :
    let then' := domainsAfter ((handler id).dieAt 0).domains
    let empty := fun (v : Word) => ∃ p ∈ then' v, p.2.squads ≠ 0 ∧ p.2.members = 0
    (handler id).cx.answer = none ∧ (handler fun c => { c with answer := some 1 }).cx.answer ≠ none ∧
    split2.toNat / 2 ^ 53 = 0 ∧ ¬empty split2 ∧ (split2.toNat % 2 ^ 32 = 0 ∨ split2.toNat / 2 ^ 36 % 2 ^ 16 ≠ 0) ∧
    (∀ q < 16, ¬∀ p ∈ then' split2, p.2.squads.getLsbD q = false) ∧ (0x20000000000000 : Word).toNat / 2 ^ 53 ≠ 0 ∧
    empty 0xFF000000000 ∧ ((0x200000001 : Word).toNat % 2 ^ 32 ≠ 0 ∧ (0x200000001 : Word).toNat / 2 ^ 36 % 2 ^ 16 = 0) ∧
    (∃ q < 16, ∀ p ∈ then' 0, p.2.squads.getLsbD q = false) := by decide +kernel
theorem test_hashctl_reset : (next (.csrr 7 0x811) (handler id)).map (fun t => t.X 7) = some 0xFFFF1FFFFFFFF := by decide +kernel
/-- A handler whose interrupted task held 16 lanes. -/
def reclaims (st : Word) : State := task fun c => { returning st c with req := 16 }
theorem met_TrapReturn_lanes : (reclaims 9).cx.req ≠ 0 ∧ (9 : Word).getLsbD 3 = true ∧ splitsGrants ((reclaims 9).crewAt 0).splitctl = false ∧
    splitsGrants ((logging 0x0000000100000003 (reclaims 9)).crewAt 0).splitctl = true ∧
    splitsFull? ((logging 0x0000000100000003 (reclaims 9)).crewAt 0).splitctl = true ∧ (1 : Word).getLsbD 3 = false := by decide +kernel
theorem test_tret_claims_again : (next .tret (reclaims 9)).map (fun t => t.cx.grant) = some 16 := by decide +kernel
theorem met_TrapReturn_cancelled : (task fun c => { returning 1 c with cancelled := true }).cx.cancelled = true ∧
    splitsOn ((task id).crewAt 0).splitctl = false ∧ (task fun c => { returning 1 c with cancelled := true }).cx.drained = true ∧
    (task fun c => { returning 1 c with cancelled := true, cnt := { c.cnt with stores := 1 } }).cx.drained = false := by decide +kernel

/-! Vector instructions (R162–R191). -/

/-- A register of 64 elements. -/
def filled (f : Nat → BitVec 32) : VReg := vofList ((List.range 64).map f)
/-- A context that holds lanes, with v4 and v5 as given. -/
def lanes (a b : VReg) (c : Ctx) : Ctx := { (c.setV 4 a).setV 5 b with grant := 64, req := 64 }
/-- An element of v6 after an instruction. -/
def elem (i : Instr) (a b : VReg) (j : Nat) : Option (BitVec 32) := (next i (task (lanes a b))).map fun t => velem (t.V 6) 32 j
/-- The flags of the command that an instruction queues. -/
def raises (i : Instr) (a b : VReg) : Option (List Flags) := (next i (task (lanes a b))).map fun t => t.cx.vq.map VCmd.flags
def one (x : BitVec 32) : VReg := filled fun j => if j = 0 then x else 0

theorem met_LanesReady : (task (lanes 0 0)).LanesReady (task (lanes 0 0)) := ⟨by decide +kernel, by decide +kernel⟩
theorem met_LanesReady_full : (task fun c => { lanes 0 0 c with vq := List.replicate 15 { flags := 0, isLoad := false } }).cx.vq.length < 16 := by
  decide +kernel
theorem met_VectorInteger : (5 : BitVec 3).toNat < 6 := by decide
theorem met_VectorMoves : (2 : BitVec 2).toNat < 3 ∧ (5 : BitVec 3).toNat ≤ 5 ∧ (7 : BitVec 3) ≠ 0 ∧ (2 : BitVec 2).toNat ≤ 2 ∧
    (63 : BitVec 6).toNat + 64 * (3 : BitVec 2).toNat < 2048 / (32 / 2 ^ (2 : BitVec 2).toNat) ∧
    (63 : BitVec 6).toNat + 64 * (0 : BitVec 2).toNat < 2048 / (32 / 2 ^ (0 : BitVec 2).toNat) := by decide +kernel
theorem test_vadd_i8_wraps : elem (.vadd 6 4 5 0 2) (one 0x7FFF80FF) (one 0x01018001) 0 = some 0x80000000 := by decide +kernel
theorem test_vmulh_ui16 : elem (.vmulh 6 4 5 0 4) (one 0xFFFF8000) (one 0xFFFF0002) 0 = some 0xFFFE0001 := by decide +kernel
theorem test_vsra_masks_amount : elem (.vsra 6 4 5 0 0) (one 0x80000000) (one 33) 0 = some 0xC0000000 := by decide +kernel
theorem test_vsat_ui8 : elem (.vsat 6 4 0 5) (one 300) 0 0 = some 255 := by decide +kernel
theorem test_vcmp_i32 : elem (.vcmp 6 4 5 0 2 0) (filled fun j => BitVec.ofNat 32 j - 32) 0 0 = some 0xFFFFFFFF := by decide +kernel
theorem test_vperm_outside : elem (.vperm 6 4 5 0) (filled fun _ => 7) (one 64) 0 = some 0 := by decide +kernel
theorem test_vslideUp : elem (.vslideUp 6 4 1 0) (one 9) 0 1 = some 9 := by decide +kernel
theorem test_vslideDn_end : elem (.vslideDn 6 4 1 0) (filled fun _ => 9) 0 63 = some 0 := by decide +kernel
theorem test_vext_x : (next (.vext 6 4 1 0 2) (task (lanes (one 0x8000) 0))).map (fun t => t.X 6) = some 0x80 := by decide +kernel
theorem test_mask_keeps : (next (.vmov 6 4 5) (task (lanes (filled fun _ => 7) (one 2)))).map (fun t => (velem (t.V 6) 32 0, velem (t.V 6) 32 1)) =
    some (0, 7) := by decide +kernel

/-- 1.0 + 2⁻²⁴ rounds to even with NX; a signalling NaN gives the quiet one with NV; maximum orders −0 below +0 (R72, R79, R179). -/
theorem test_vadd_inexact : elem (.vadd 6 4 5 0 6) (one 0x3F800000) (one 0x33800000) 0 = some 0x3F800000 ∧
    raises (.vadd 6 4 5 0 6) (one 0x3F800000) (one 0x33800000) = some [flagNX] := by decide +kernel
theorem test_vmul_snan : elem (.vmul 6 4 5 0 6) (one 0x7F800001) (one 0x3F800000) 0 = some 0x7FC00000 ∧
    raises (.vmul 6 4 5 0 6) (one 0x7F800001) (one 0x3F800000) = some [flagNV] := by decide +kernel
theorem test_vmax_zeros : elem (.vmax 6 4 5 0 6) (one 0x80000000) (one 0) 0 = some 0 := by decide +kernel
theorem test_vfma_zero_inf : elem (.vfma 6 4 5 5 0) (one 0) (one 0x7F800000) 0 = some 0x7FC00000 := by decide +kernel
theorem test_vrcp_two : elem (.vrcp 6 4 0) (one 0x40000000) 0 0 = some 0x3F000000 := by decide +kernel
theorem test_enabled_flag_traps : trapsWith (.vadd 6 4 5 0 6) (task fun c =>
    { lanes (one 0x7F800001) 0 c with fp := { c.fp with fpctl := 0x10000 } }) = some (0x40, 0x10000) := by decide +kernel
theorem met_RunsLanes_traps : ∃ f : Nat → Flags, (∃ j < 64, f j &&& trapEnables 0x10000 ≠ 0) ∧ (f 0 &&& trapEnables 0x10000).getLsbD 0 = true ∧
    (∀ j < 64, f j &&& trapEnables 0 = 0) := ⟨fun _ => flagNV, by decide +kernel, by decide +kernel, by decide +kernel⟩
theorem met_VectorCompare : (3 : BitVec 3).toNat ≤ 3 := by decide
theorem test_vcmp_f32_nan : elem (.vcmp 6 4 5 0 0 3) (filled fun _ => 0x7FC00000) (filled fun _ => 0x7FC00000) 0 = some 0 ∧
    raises (.vcmp 6 4 5 0 0 3) (filled fun _ => 0x7FC00000) (filled fun _ => 0x7FC00000) = some [0] := by decide +kernel

/-- The nodes that the statement on reductions speaks of, and the rows of the one on scans. -/
def node (s : State) (a : BitVec 5) (m : BitVec 3) (op : BitVec 32 → BitVec 32 → BitVec 32 × Flags) (id : Option (BitVec 32)) : Nat → Nat → RNode
  | 0, i => (if s.active m i then some (velem (s.V a) 32 i) else id, 0)
  | l + 1, i => combine op (node s a m op id l (2 * i)) (node s a m op id l (2 * i + 1))
theorem met_Reductions (s : State) (a : BitVec 5) (m : BitVec 3) (op : BitVec 32 → BitVec 32 → BitVec 32 × Flags) (id : Option (BitVec 32)) :
    ∃ n : Nat → Nat → RNode, (∀ i < 64, n 0 i = (if s.active m i then some (velem (s.V a) 32 i) else id, 0)) ∧
      ∀ l < 6, ∀ i < 64 / 2 ^ (l + 1), n (l + 1) i = combine op (n l (2 * i)) (n l (2 * i + 1)) :=
  ⟨node s a m op id, fun _ _ => rfl, fun _ _ _ _ => rfl⟩
def rows (s : State) (a : BitVec 5) (m : BitVec 3) (op : BitVec 32 → BitVec 32 → BitVec 32 × Flags) (id : Option (BitVec 32)) :
    Nat → Nat → Option (BitVec 32) × Flags
  | 0, i => (if s.active m i then some (velem (s.V a) 32 i) else id, 0)
  | l + 1, i =>
    if 2 ^ l ≤ i then
      let r := combine op ((rows s a m op id l (i - 2 ^ l)).1, 0) ((rows s a m op id l i).1, 0)
      (r.1, (rows s a m op id l i).2 ||| r.2)
    else rows s a m op id l i
theorem met_Scans (s : State) (a : BitVec 5) (m : BitVec 3) (op : BitVec 32 → BitVec 32 → BitVec 32 × Flags) (id : Option (BitVec 32)) :
    ∃ (n : Nat → Nat → Option (BitVec 32)) (g : Nat → Nat → Flags),
      (∀ i < 64, n 0 i = (if s.active m i then some (velem (s.V a) 32 i) else id) ∧ g 0 i = 0) ∧
      ∀ l < 6, ∀ i < 64,
        if 2 ^ l ≤ i then
          let r := combine op (n l (i - 2 ^ l), 0) (n l i, 0)
          n (l + 1) i = r.1 ∧ g (l + 1) i = g l i ||| r.2
        else n (l + 1) i = n l i ∧ g (l + 1) i = g l i := by
  refine ⟨fun l i => (rows s a m op id l i).1, fun l i => (rows s a m op id l i).2, fun _ _ => ⟨rfl, rfl⟩, ?_⟩
  intro l _ i _
  by_cases h : 2 ^ l ≤ i <;> simp [rows, h]
theorem test_vredsum_i32 : elem (.vredsum 6 4 0 0) (filled fun j => BitVec.ofNat 32 j) 0 0 = some 2016 := by decide +kernel
theorem test_vredsum_none : elem (.vredsum 6 4 5 2) (filled fun _ => 1) 0 0 = some 0x80000000 := by decide +kernel
theorem test_vscan_last : elem (.vscanAdd 6 4 0 0) (filled fun j => BitVec.ofNat 32 j) 0 63 = some 2016 := by decide +kernel

/-- The example after R191. -/
def sample : VReg := filled fun j => if j = 5 then 0x40400000 else if j < 32 then 0x3FA66666 else 0x7FC00000
theorem test_vqnt_scales : (next (.vqnt 10 4 11 0 1 8) (task (lanes sample 0))).map (fun t => velem (t.V 11) 32 0) = some 0xFF7E := by decide +kernel
theorem test_vqnt_codes : (next (.vqnt 10 4 11 0 1 8) (task (lanes sample 0))).map
    (fun t => [0, 5, 32].map fun j => (velem (t.V 10) 4 j).toNat) = some [5, 7, 0] := by decide +kernel
theorem met_VectorFormats : (let q := laneQnt 1 8 0 0 0 0 0 0 sample 0; (∀ e ∈ q.1.2, e.2 &&& trapEnables 0 = 0)) := by decide +kernel
theorem met_QuantisedBlocks : (∃ j < 64, j / 32 = 0 ∧ ((0 : BitVec 3) = 0 ∨ (0 : VReg).getLsbD j = true)) ∧
    (∀ j < 64, j / 32 = 1 → (f32 (velem sample 32 j)).isNaN = true) ∧
    (∀ j < 64, j / 32 = 1 → ¬((1 : BitVec 3) = 0 ∨ (0 : VReg).getLsbD j = true)) := by decide +kernel
theorem met_LaneClaims : splitsGrants ((task id).crewAt 0).splitctl = false ∧ splitsGrants ((logging 3 (task id)).crewAt 0).splitctl = true ∧
    splitsFull? ((logging 3 (task id)).crewAt 0).splitctl = false ∧
    splitsGrants ((logging 0x0000000100000003 (task id)).crewAt 0).splitctl = true ∧
    splitsFull? ((logging 0x0000000100000003 (task id)).crewAt 0).splitctl = true ∧ (task id).cx.grant = 0 ∧ (task (lanes 0 0)).cx.grant ≠ 0 ∧
    (task id).cx.vq = [] ∧ (task id).cx.cancelled = false ∧
    16 ≤ (task fun c => { c with vq := List.replicate 16 { flags := 0, isLoad := false } }).cx.vq.length := by decide +kernel
theorem test_lclaim : gives (.lclaim 9 7) id 9 = some 64 := by decide +kernel
theorem test_lclaim_shared : (next (.lclaim 9 7) ((task id).updCtx { crew := 0, n := 9 } fun c => { c with grant := 32 })).map (fun t => t.X 9) = some 32 := by
  decide +kernel
/-- The values of FP32 words against the exact ones: 1.0 and −1.0, a signalling NaN, 127.0 and 2⁻¹⁴⁹. -/
theorem met_VectorFloat_exact : (∀ dv, Mode.rne ≠ .sr dv) ∧ (0x3F800000 : BitVec 32).toNat % 2 ^ 31 < 0x7F800000 ∧
    fltUnits 23 0x3F800000 = 2 ^ 149 ∧ 0x7F800000 < (0x7F800001 : BitVec 32).toNat % 2 ^ 31 ∧
    fltUnits 23 0x42FE0000 = 127 * 2 ^ 149 ∧ fltUnits 23 1 = 1 ∧ (0 : Nat) < fltUnits 23 1 := by
  refine ⟨fun dv h => (by cases h), by decide +kernel, by decide +kernel, by decide +kernel, by decide +kernel, by decide +kernel, by decide +kernel⟩
theorem met_VectorFormats_greatest :
    let mag := fun j => (velem sample 32 j).toNat % 2 ^ 31
    (∃ j < 64, j / 32 = 0 ∧ mag j = 0x40400000) ∧ (∀ j < 64, j / 32 = 0 → mag j ≤ 0x7F800000 → mag j ≤ 0x40400000) ∧
    (∀ j < 64, (velem sample 32 j).toNat % 2 ^ 31 ≤ 0x7F800000 → mag j ≤ 0x40400000) ∧
    (∀ j < 64, 0x7F800000 < (velem (filled fun _ => 0x7FC00000) 32 j).toNat % 2 ^ 31) ∧
    (velem (filled fun j => if j = 1 then 0x3F800000 else 0) 32 1).toNat % 2 ^ 31 = 0x3F800000 := by decide +kernel
theorem met_VectorFormats_roundTo : kindOf 8 = .flt 4 1 0 0x7 none 0 ∧ kindOf 1 = .flt 24 15 (-126) 0x7F7FFF (some 0x7F8000) 8 ∧ (3 : Nat) ≠ 0 ∧
    (255 : Nat) < 256 := by decide +kernel

/-! Memory instructions (R192–R234). -/

/-- An ordinary page at a physical address, as the leaf cache holds it. -/
def page : Leaf := { pa := 0x20000, span := 65536, kind := 0, rd := true, wr := true, ex := false, hb := false, log := false, sbank := false }
def withPage (s : State) (va : Word) (l : Leaf) : State := { s with leaves := mput s.leaves (leafKey (s.sliceFor 0 va) va) l }
/-- Memory from an address on. -/
def holding (a : Nat) (b : List Byte) (s : State) : State := { s with mem := ((List.range b.length).map fun k => a + k).zip b }
def bytes : List Byte := [0x88, 0x77, 0x66, 0x55, 0x44, 0x33, 0x22, 0x91]
/-- x10 holds an address of the page, x8 and x9 data. -/
def reader (l : Leaf) (f : Ctx → Ctx) : State :=
  holding 0x20008 bytes (withPage (task fun c => f (((c.setX 10 0x10008).setX 8 0x1122334455667788).setX 9 0xF0)) 0x10008 l)
def calm : State := reader page id

theorem test_lds : (next (.lds 8 10 0 2) calm).map (fun t => t.X 8) = some 0x0000000055667788 := by decide +kernel
theorem test_lds_negative : (next (.lds 8 10 7 0) calm).map (fun t => t.X 8) = some 0xFFFFFFFFFFFFFF91 := by decide +kernel
theorem test_ld_half : (next (.ld 8 10 3 1) calm).map (fun t => t.X 8) = some 0x9122 := by decide +kernel
theorem test_ldp_discards : (next (.ldp 0 10 0) (calm.upd fun c => c.setX 10 0x10000)).map (fun t => (t.X 0, t.X 1)) =
    some (0, 0x9122334455667788) := by decide +kernel
theorem test_st : (next (.st 8 10 1 2) calm).map (fun t => (t.byteAt 0x2000B, t.byteAt 0x2000C, t.byteAt 0x20010)) = some (0x55, 0x88, 0) := by
  decide +kernel
theorem test_stn_nibbles : (next (.stnNib 9 10 8) calm).map (fun t => (t.byteAt 0x2000A, t.byteAt 0x2000B, t.byteAt 0x20008)) =
    some (0x66, 0x55, 0x88) := by decide +kernel
theorem met_Loads : calm.Reaches calm (.ld 8 10 0 3) .load 0x10008 page 0x20008 ∧ calm.Reaches calm (.lds 8 10 0 2) .load 0x10008 page 0x20008 ∧
    (calm.upd fun c => c.setX 10 0x10000).Reaches (calm.upd fun c => c.setX 10 0x10000) (.ldp 8 10 0) .load 0x10000 page 0x20000 :=
  ⟨⟨eq_of_okIs (by decide +kernel), rfl, by decide +kernel, by decide +kernel⟩,
   ⟨eq_of_okIs (by decide +kernel), rfl, by decide +kernel, by decide +kernel⟩,
   ⟨eq_of_okIs (by decide +kernel), rfl, by decide +kernel, by decide +kernel⟩⟩
theorem met_Loads_aligned : (3 : BitVec 3).toNat < 4 ∧ (2 : BitVec 3).toNat < 3 ∧ (calm.X 10).toNat % 8 = 0 ∧ (8 : BitVec 6).toNat % 2 = 0 ∧
    ((0 : BitVec 6).toNat % 2 = 0) := by decide +kernel
/-- Lattice lines and frozen pages: an exact read of a filled FILL1 line, and of a growing line. -/
def latPage : Leaf := { page with kind := 2 }
def coldPage : Leaf := { page with kind := 3, wr := false }
def lineAs (m : LineMeta) (s : State) : State := s.setMeta 0x400 m
def maxu32 : LineMeta := { LineMeta.fresh with type := 0, width := 2 }
def fill1 : LineMeta := { LineMeta.fresh with type := 6, width := 2, filled := true }
theorem met_Loads_exact : (reader latPage id).Reaches (reader latPage id) (.xread 8 10 0 3) .exact 0x10008 latPage 0x20008 ∧
    (reader coldPage id).Reaches (reader coldPage id) (.xread 8 10 0 3) .exact 0x10008 coldPage 0x20008 :=
  ⟨⟨eq_of_okIs (by decide +kernel), rfl, by decide +kernel, by decide +kernel⟩,
   ⟨eq_of_okIs (by decide +kernel), rfl, by decide +kernel, by decide +kernel⟩⟩
theorem met_Loads_growing : lineOf 0x20008 = 0x400 ∧ ((lineAs fill1 (reader latPage id)).metaOf 0x400).filled = true ∧
    ((lineAs maxu32 (reader latPage id)).metaOf 0x400).type ≠ 6 ∧ ((lineAs maxu32 (reader latPage id)).metaOf 0x400).frozen = false := by
  decide +kernel
theorem test_xread_growing : trapsWith (.xread 8 10 0 3) (lineAs maxu32 (reader latPage id)) = some (0xC1, 0x10008) := by decide +kernel
theorem test_xread_fill1 : (next (.xread 8 10 0 3) (lineAs fill1 (reader latPage id))).map (fun t => t.X 8) = some 0x9122334455667788 := by
  decide +kernel

theorem met_ScalarStores : calm.Reaches calm (.st 8 10 0 3) .store 0x10008 page 0x20008 ∧ calm.Writable 0x10008 page 0x20008 8 (2 ^ 64 - 1) ∧
    calm.Writable 0x10008 page 0x20008 8 (calm.X 8).toNat ∧
    calm.Reaches calm (.stnBit 8 10 9) .store 0x10008 page 0x20008 ∧ calm.Reaches calm (.stnNib 8 10 9) .store 0x10008 page 0x20008 :=
  ⟨⟨eq_of_okIs (by decide +kernel), rfl, by decide +kernel, by decide +kernel⟩, ⟨(by decide +kernel : Memory.wf _ = true), by decide, by decide +kernel, by decide +kernel, by decide +kernel, .inl rfl, ⟨by decide +kernel, by decide +kernel⟩⟩,
   ⟨(by decide +kernel : Memory.wf _ = true), by decide, by decide +kernel, by decide +kernel, by decide +kernel, .inl rfl, ⟨by decide +kernel, by decide +kernel⟩⟩,
   ⟨eq_of_okIs (by decide +kernel), rfl, by decide +kernel, by decide +kernel⟩,
   ⟨eq_of_okIs (by decide +kernel), rfl, by decide +kernel, by decide +kernel⟩⟩
theorem met_ScalarStores_pair : let s := reader page fun c => c.setX 10 0x10070
    (withPage s 0x10070 page).Reaches (withPage s 0x10070 page) (.stp 8 10 0) .store 0x10070 page 0x20070 ∧
    (withPage s 0x10070 page).Writable 0x10070 page 0x20070 16 (2 ^ 128 - 1) :=
  ⟨⟨eq_of_okIs (by decide +kernel), rfl, by decide +kernel, by decide +kernel⟩,
   ⟨(by decide +kernel : Memory.wf _ = true), by decide, by decide +kernel, by decide +kernel, by decide +kernel, .inl rfl, ⟨by decide +kernel, by decide +kernel⟩⟩⟩
theorem met_ScalarStores_mask : ∃ m : Word, ∀ k < 64, m.getLsbD k = (calm.X 9).getLsbD (k / 4) := ⟨0xFFFF0000, by decide +kernel⟩

/-- System mode on a page of system memory. -/
def sysPage : Leaf := { page with kind := 1 }
def atomics : State := reader sysPage fun c => { c with st := .handler, trap := { c.trap with tstatus := 1 } }
theorem met_SystemAtomics : atomics.cx.depth ≠ 0 ∧ (atomics.X 10).toNat % 8 = 0 ∧ atomics.cx.cnt.stores = 0 ∧
    atomics.Reaches atomics (.amoswap 8 10 9 1) .atomic (atomics.X 10) sysPage 0x20008 ∧
    atomics.Reaches atomics (.amocas 8 10 9 1) .atomic (atomics.X 10) sysPage 0x20008 ∧
    atomics.Reaches atomics (.amoadd 8 10 9 0) .atomic (atomics.X 10) sysPage 0x20008 ∧ atomics.MemWf ∧ atomics.undoRegion = none ∧
    atomics.slotGuarded (lineOf 0x20008) = false ∧ 0x20008 % 128 + 8 ≤ 128 ∧ atomics.ArrivalRoom :=
  ⟨by decide +kernel, by decide +kernel, by decide +kernel, ⟨eq_of_okIs (by decide +kernel), rfl, by decide +kernel, by decide +kernel⟩,
   ⟨eq_of_okIs (by decide +kernel), rfl, by decide +kernel, by decide +kernel⟩,
   ⟨eq_of_okIs (by decide +kernel), rfl, by decide +kernel, by decide +kernel⟩, (by decide +kernel : Memory.wf _ = true), by decide +kernel,
   by decide +kernel, by decide, ⟨by decide +kernel, by decide +kernel⟩⟩
theorem met_SystemAtomics_equal : (atomics.upd fun c => c.setX 8 0x9122334455667788).readPa 0x20008 8 = 0x9122334455667788 ∧
    atomics.readPa 0x20008 8 ≠ (atomics.X 8).toNat ∧ calm.cx.depth = 0 ∧ encode (.amoadd 8 10 9 0) ≠ none := by decide +kernel
/-- The line of the page is poison. -/
def spoilt (s : State) : State := s.setMeta 0x400 { s.metaOf 0x400 with poison := true }
theorem met_poison : (spoilt calm).MeetsPoison (spoilt calm) (.ld 8 10 0 3) .load 0x10008 page 0x20008 ∧
    (spoilt calm).MeetsPoison (spoilt calm) (.lds 8 10 0 2) .load 0x10008 page 0x20008 ∧
    ((spoilt calm).upd fun c => c.setX 10 0x10000).MeetsPoison ((spoilt calm).upd fun c => c.setX 10 0x10000) (.ldp 8 10 0) .load 0x10000 page 0x20000 ∧
    (spoilt calm).MeetsPoison (spoilt calm) (.st 8 10 0 3) .store 0x10008 page 0x20008 ∧
    ((spoilt calm).upd fun c => c.setX 10 0x10000).MeetsPoison ((spoilt calm).upd fun c => c.setX 10 0x10000) (.stp 8 10 0) .store 0x10000 page 0x20000 ∧
    (spoilt (reader coldPage id)).MeetsPoison (spoilt (reader coldPage id)) (.xread 8 10 0 3) .exact 0x10008 coldPage 0x20008 ∧
    (∀ i ∈ [Instr.amoswap 8 10 9 1, .amocas 8 10 9 1, .amoadd 8 10 9 1], (spoilt atomics).MeetsPoison (spoilt atomics) i .atomic 0x10008 sysPage 0x20008) ∧
    (spoilt calm).rollbackFor (spoilt calm).cx.launchId = none ∧ (spoilt (reader coldPage id)).lineBusy 0x400 = false := by
  have m : ∀ (s s1 : State) (i : Instr) (u : Use) (va : Word) (l : Leaf) (p : Nat), okIs (s.translate i u va) (l, s1) = true → l.sbank = false →
      s.place (l.addr va) = .device p → (s.metaOf (lineOf p)).poison = true → s.replies = [] → s.MeetsPoison s1 i u va l p :=
    fun s _ _ _ _ _ _ a b c d e => ⟨eq_of_okIs a, b, c, d, by rw [e]; exact fun _ h => nomatch h⟩
  have k : ∀ i : Instr, okIs ((spoilt atomics).translate i .atomic 0x10008) (sysPage, spoilt atomics) = true →
      (spoilt atomics).MeetsPoison (spoilt atomics) i .atomic 0x10008 sysPage 0x20008 :=
    fun i a => m _ _ i _ _ _ _ a rfl (by decide +kernel) (by decide +kernel) rfl
  refine ⟨m _ _ _ _ _ _ _ (by decide +kernel) rfl (by decide +kernel) (by decide +kernel) rfl,
    m _ _ _ _ _ _ _ (by decide +kernel) rfl (by decide +kernel) (by decide +kernel) rfl,
    m _ _ _ _ _ _ _ (by decide +kernel) rfl (by decide +kernel) (by decide +kernel) rfl,
    m _ _ _ _ _ _ _ (by decide +kernel) rfl (by decide +kernel) (by decide +kernel) rfl,
    m _ _ _ _ _ _ _ (by decide +kernel) rfl (by decide +kernel) (by decide +kernel) rfl,
    m _ _ _ _ _ _ _ (by decide +kernel) rfl (by decide +kernel) (by decide +kernel) rfl, ?_, by decide +kernel, by decide +kernel⟩
  intro i h
  simp only [List.mem_cons, List.not_mem_nil, or_false] at h
  rcases h with rfl | rfl | rfl <;> exact k _ (by decide +kernel)
theorem test_amoadd : (next (.amoadd 8 10 9 0) atomics).map (fun t => (t.X 8, t.byteAt 0x20008)) = some (0x55667788, 0x78) := by decide +kernel
theorem test_amocas_fails : (next (.amocas 8 10 9 1) atomics).map (fun t => (t.X 8, t.byteAt 0x20008)) = some (0x9122334455667788, 0x88) := by
  decide +kernel
theorem test_amo_in_task : trapsWith (.amoswap 8 10 9 1) calm = (encode (.amoswap 8 10 9 1)).map fun w => (0x06, w.setWidth 64) := by
  decide +kernel

theorem test_ld_misaligned : trapsWith (.ld 8 10 1 3) (calm.upd fun c => c.setX 10 0x10001) = some (0x95, 0x10009) := by decide +kernel
theorem met_AccessTraps : 0x10009 % 8 ≠ 0 ∧ (∃ c t, calm.translate (.ld 8 10 0 3) .load 0x80000 = .error (c, t)) ∧
    calm.cx.vq.length < 16 ∧ calm.active 0 0 = true ∧ (calm.upd fun c => c.setV 1 (1 <<< 63)).active 1 63 = true ∧
    (∀ k < 63, (calm.upd fun c => c.setV 1 (1 <<< 63)).active 1 k = false) :=
  ⟨by decide, ⟨0x91, 0x80000, eq_of_errIs (by decide +kernel)⟩, by decide +kernel, by decide +kernel, by decide +kernel, by decide +kernel⟩
theorem met_AccessTraps_lines : (∀ x ∈ calm.serving, x.2 ≠ calm.cur) ∧ calm.cx.answer = none ∧ (calm.cx.l0.lc = 0 ∧ calm.cx.l1.lc = 0) ∧
    calm.cx.freezeAt = none ∧ triggerFault .maxu 2 (elemIndex .maxu 2 (calm.X 10)) [5] = none ∧
    (∀ x ∈ [(Instr.join 10 8 0 2 0, Use.join), (.tread 8 10 11 0 2 0, .thresh), (.twait 8 10 11 0 2 0, .thresh), (.ltype 10 2 0, .ltype),
        (.freeze 10 8 0, .freeze)],
      errIs (calm.translate x.1 x.2 0x10000) (0x80 + 16 * x.2.kind + 4, 0x10000) = true) ∧
    0x80 + 16 * Use.thresh.kind + 4 ≠ heldCause ∧ atomics.cx.depth ≠ 0 ∧ errIs (atomics.translate (.lquery 8 10) .query 0x80000) (0x91, 0x80000) = true ∧
    (0x10040 : Word).toNat % 128 ≠ 0 ∧ (0x10080 : Word).toNat % 128 = 0 := by decide +kernel
theorem met_AccessTraps_vectors : (∃ s1, calm.LanesReady s1) ∧ (calm.upd fun c => c.setV 1 (1 <<< 63)).active 1 63 = true ∧
    (∀ k < 63, (calm.upd fun c => c.setV 1 (1 <<< 63)).active 1 k = false) ∧ (∃ k < 32, (calm.upd fun c => c.setV 1 (1 <<< 63)).active 1 (32 * 1 + k) = true) ∧
    (∀ k < 32, (calm.upd fun c => c.setV 1 (1 <<< 63)).active 1 k = false) ∧ (0x10002 : Word).toNat % 4 ≠ 0 ∧ (0x10040 : Word).toNat % 128 ≠ 0 :=
  ⟨⟨(calm.implicitClaim).getD calm, by decide +kernel, by decide +kernel⟩, by decide +kernel, by decide +kernel, ⟨31, by decide, by decide +kernel⟩,
   by decide +kernel, by decide, by decide⟩
/-- Crew 0's squad is affected by a domain change of its die. -/
def changing (s : State) : State := s.updDie 0 fun d => { d with busy := true, change := some split2 }
theorem met_AccessChecks_held : (changing calm).requestsHeld 0 = true ∧ calm.requestsHeld 0 = false ∧
    errIs ((changing calm).translate (.ld 8 10 0 3) .load 0x10008) (heldCause, 0x10008) = true ∧
    (changing calm).l1Leaf 0 0x10008 needRd = none := by decide +kernel
/-- The root table lies at an address that names nothing. -/
def rootless : State := { calm with pkg := { calm.pkg with root := BitVec.ofNat 64 (0x7FFD * 2 ^ 41) } }
/-- The slice holds the line with its page's bits, and no L1 does. -/
def sliced : State := { calm with
  copies := [(2 ^ 49 * calm.sliceFor 0 0x10008 + 0x400, { freshCopy .s 0 with vline := 0x200, dom := calm.domainTag 0, page := some { kind := 0, rd := true, wr := false, ex := false } })] }
theorem met_AccessChecks_slice : sliced.l1Leaf 0 0x10008 (Use.need .load) = none ∧ (sliced.sliceLeaf 0 0x10008 (Use.need .load)).isSome = true ∧
    sliced.sliceLeaf 0 0x10008 (Use.need .store) = none ∧ (errIs (atomics.leafFor (atomics.sliceFor 0 0x80000) 0x80000 needRdWr) 1 = true) ∧
    errIs (rootless.leafFor (rootless.sliceFor 0 0x80000) 0x80000 needWr) 8 = true ∧ Use.store.kind = 2 := by
  decide +kernel
theorem met_AccessChecks : 2 ^ 55 ≤ (0x80000000000000 : Word).toNat ∧
    okIs (calm.leafFor (calm.sliceFor calm.cur.crew 0x10008) 0x10008 (Use.need .load)) (page, calm) = true ∧
    errIs (calm.leafFor (calm.sliceFor calm.cur.crew 0x80000) 0x80000 (Use.need .load)) 1 = true ∧
    okIs (atomics.leafFor (atomics.sliceFor atomics.cur.crew 0x10008) 0x10008 (Use.need .atomic)) (sysPage, atomics) = true ∧
    okIs ((reader latPage id).leafFor (calm.sliceFor 0 0x10008) 0x10008 (Use.need .join)) (latPage, reader latPage id) = true ∧
    okIs ((reader coldPage id).leafFor (calm.sliceFor 0 0x10008) 0x10008 (Use.need .load)) (coldPage, reader coldPage id) = true ∧
    (reader sysPage id).cx.depth = 0 ∧ calm.l1Leaf calm.cur.crew 0x10008 (Use.need .load) = none ∧
    (next (.ld 8 10 0 3) calm).any (fun t => ((t.l1Leaf t.cur.crew 0x10008 (Use.need .load)).any fun l => l.pa == 0x20000)) = true := by decide +kernel
theorem test_task_on_system_page : (trapsWith (.ld 8 10 0 3) (reader sysPage id)).map Prod.fst = some 0x06 := by decide +kernel
theorem test_load_of_lattice : trapsWith (.ld 8 10 0 3) (reader latPage id) = some (0x94, 0x10008) := by decide +kernel
theorem test_store_to_frozen : trapsWith (.st 8 10 0 3) (reader { coldPage with wr := true } id) = some (0xA6, 0x10008) := by decide +kernel

/-- A leaf entry of level 1 for the page at 10000H: one level, read and write. -/
def entry (e : Nat) : State := holding 0x30008 ((List.range 8).map fun k => BitVec.ofNat 8 (e / 256 ^ k)) (task id)
theorem met_PageWalk : (entry 0x20063).place (0x30000 + 8 * (0x10000 / 2 ^ 16 % 8192)) = .device 0x30008 ∧
    ((entry 0x20063).metaOf (lineOf 0x30008)).poison = false ∧
    (((entry 0x20063).setMeta (lineOf 0x30008) { LineMeta.fresh with poison := true }).metaOf (lineOf 0x30008)).poison = true ∧
    (entry 0x20063).readPa 0x30008 8 = 0x20063 := by decide +kernel
def walk (e k : Nat) := (entry e).walkFrom none 0x10000 (Use.need .load) (k + 1) 0x30000 true true true
theorem met_PageWalk_nowhere : (entry 0).place (0x7FFD * 2 ^ 41 + 8 * (0x10000 / 2 ^ 16 % 8192)) = .nowhere := by decide +kernel
theorem test_walk_leaf : okIs (walk 0x20063 0) { page with ex := false } = true := by decide +kernel
theorem test_walk_reserved : errIs (walk 0x20863 0) 1 = true ∧ errIs (walk 0x20061 0) 1 = true := by decide +kernel
theorem test_walk_kind : errIs (walk 0x20073 0) 2 = true := by decide +kernel
theorem test_walk_refused : errIs (walk 0x20043 0) 3 = true := by decide +kernel

/-! Lattice lines (R55–R61, R209–R228). -/

theorem met_LatticeJoin : (3 : Nat) < 4 ∧ ((LatType.maxkv = .maxf → 3 = 2) ∧ (LatType.maxkv = .maxkv ∨ LatType.maxkv = .span → 3 = 3)) ∧
    (127 : Nat) < 1024 / (8 * 2 ^ 0) ∧ 15 < 1024 / (8 * 2 ^ 3) := by decide
def latLine0 (d : BitVec 1024) : LatLine := { data := d, filled := false, top := false }
theorem test_join_maxf : (latJoin .maxf 2 (latLine0 0xFF800000) 0x3F800000).data.toNat % 2 ^ 32 = 0x3F800000 := by decide +kernel
theorem test_join_minu_element : (latJoin .minu 1 (latLine0 (-1)) (liftElem .minu 1 3 0xFFFF1234)).data = ~~~((0xEDCB : BitVec 1024) <<< 48) := by decide +kernel
theorem test_join_cnt_saturates : (latJoin .cnt 0 (latLine0 0xF0F0) 0x20).data = 0xF0FF := by decide +kernel
theorem test_join_span : (latJoin .span 3 (latLine0 0xFFFFFFFF00000005) 0x00000003FFFFFFFE).data.toNat % 2 ^ 64 = 0x00000003FFFFFFFE := by
  decide +kernel
theorem test_join_fill1_conflict : (latJoin .fill1 2 { data := 5, filled := true, top := false } 6).top = true := by decide +kernel
theorem test_join_maxkv : (latJoin .maxkv 3 (latLine0 0x0000000200000001) 0x0000000100000009).data = 0x0000000200000001 := by decide +kernel

/-- x10 names an element of a line of a lattice page, x11 an operand, x12 the triggers. -/
def growing (m : LineMeta) (f : Ctx → Ctx) : State :=
  lineAs m (reader latPage fun c => f ((c.setX 11 0xFFFFFFFF).setX 12 0x66000000))
/-- The slice holds the line as a delta. -/
def withDelta (s : State) : State := s.putCopy (s.sliceFor 0 0x10008) 0x400 { st := .d, vline := 0x200, dom := 0, l1 := [], data := 0, filled := false, top := false, last := none }
theorem met_Joins : (growing maxu32 id).X 10 = 0x10008 ∧ 0x10008 % 2 ^ 2 = 0 ∧
    (growing maxu32 id).Reaches (growing maxu32 id) (.join 10 11 0 2 0) .join 0x10008 latPage 0x20008 ∧
    ((growing maxu32 id).metaOf 0x400).type = 0 ∧ ((growing maxu32 id).metaOf 0x400).width = 2 ∧
    (growing maxu32 id).copyAt? ((growing maxu32 id).sliceFor 0 0x10008) 0x400 = none ∧ (growing maxu32 id).MemWf ∧
    (growing maxu32 id).undoRegion = none ∧ (growing maxu32 id).watches = [] ∧
    splitsJoins ((growing maxu32 id).crewAt (loggingCrew (homeOf 0x400))).splitctl = false :=
  ⟨by decide +kernel, by decide, ⟨eq_of_okIs (by decide +kernel), rfl, by decide +kernel, by decide +kernel⟩, by decide +kernel,
   by decide +kernel, by decide +kernel, (by decide +kernel : Memory.wf _ = true), by decide +kernel, by decide +kernel, by decide +kernel⟩
theorem met_Joins_delta : (withDelta (growing maxu32 id)).Reaches (withDelta (growing maxu32 id)) (.join 10 11 0 2 0) .join 0x10008 latPage 0x20008 ∧
    ((withDelta (growing maxu32 id)).copyAt? ((growing maxu32 id).sliceFor 0 0x10008) 0x400).map Copy.st = some .d ∧
    (withDelta (growing maxu32 id)).undoRegion = none :=
  ⟨⟨eq_of_okIs (by decide +kernel), rfl, by decide +kernel, by decide +kernel⟩, by decide +kernel, by decide +kernel⟩
theorem met_Joins_traps : (maxu32.type ≠ (3 : BitVec 3).setWidth 4) ∧ maxu32.width ≠ 3 ∧
    ((growing { maxu32 with frozen := true } id).metaOf 0x400).frozen = true := by decide +kernel
theorem test_join : (next (.join 10 11 0 2 0) (growing maxu32 id)).map (fun t => (t.memLine 0x400).toNat / 2 ^ 64 % 2 ^ 64) =
    some 0x91223344FFFFFFFF := by decide +kernel
theorem test_join_type : trapsWith (.join 10 11 0 2 3) (growing maxu32 id) = some (0xC3, 0x10008) := by decide +kernel
theorem test_join_frozen : trapsWith (.join 10 11 0 2 0) (growing { maxu32 with frozen := true } id) = some (0xC0, 0x10008) := by decide +kernel

theorem met_ThresholdAnswers : (latLine0 0).top = false ∧ (latJoin .maxu 2 (latLine0 0) 5).top = false ∧ passed .maxu 2 (latLine0 5) 5 = true ∧
    passed .maxu 2 (latLine0 5) (liftElem .maxu 2 0 6) = false ∧ topElem .maxu 32 ≠ some (lineElem .maxu 2 0 5) := by decide +kernel
/-- Two triggers of OR that together make TOP, and two that do not. -/
theorem test_triggers_or : triggerFault .or 0 0 [0xF0, 0x0F] = none ∧ triggerFault .or 0 0 [0xF0, 0xFF, 0x0E] = some 0x200 := by decide +kernel
def idleTask : State := growing maxu32 id
theorem met_ThresholdReads : idleTask.cx.answer = none ∧ triggerFault .maxu 2 2 [idleTask.X 12] = none ∧
    idleTask.Reaches idleTask (.tread 8 10 12 0 2 0) .thresh 0x10008 latPage 0x20008 ∧
    idleTask.Reaches idleTask (.twait 8 10 12 0 2 0) .thresh 0x10008 latPage 0x20008 ∧
    elemIndex .maxu 2 0x10008 = 2 ∧ Machine.answer .maxu 2 2 [0x55667788] (idleTask.latLine 0x400) false = some 0 ∧
    Machine.answer .maxu 2 2 [0x66000000] (idleTask.latLine 0x400) false = none ∧ (idleTask.cx.l0.lc = 0 ∧ idleTask.cx.l1.lc = 0) ∧
    idleTask.cx.cancelled = false ∧ idleTask.copiesOf 0x400 = [] ∧ idleTask.watches = [] :=
  ⟨by decide +kernel, by decide +kernel, ⟨eq_of_okIs (by decide +kernel), rfl, by decide +kernel, by decide +kernel⟩,
   ⟨eq_of_okIs (by decide +kernel), rfl, by decide +kernel, by decide +kernel⟩, by decide +kernel, by decide +kernel, by decide +kernel,
   by decide +kernel, by decide +kernel, by decide +kernel, by decide +kernel⟩
theorem met_ThresholdReads_answered : (growing maxu32 fun c => { c with answer := some 3 }).cx.answer = some 3 ∧
    ¬((task looping).cx.depth ≠ 0 ∨ ((task looping).cx.l0.lc = 0 ∧ (task looping).cx.l1.lc = 0)) ∧ encode (.twait 8 10 12 0 2 0) ≠ none := by
  decide +kernel
theorem test_tread_decided : (next (.tread 8 10 12 0 2 0) (growing maxu32 fun c => c.setX 12 0x55667788)).map (fun t => (t.X 8, t.pc)) =
    some (0, 0x1004) := by decide +kernel
theorem test_tread_waits : (next (.tread 8 10 12 0 2 0) idleTask).map (fun t => (t.cx.st, t.pc, t.watches.length)) = some (.stalled, 0x1000, 1) := by
  decide +kernel

def bottomed : LineMeta := { LineMeta.fresh with type := 1, width := 3 }
def lined (m : LineMeta) (u : Word) : State := withPage (lineAs m (task fun c => (c.setX 10 0x10000).setX 11 u)) 0x10000 latPage
def owning (own : Bool) : State :=
  { lined LineMeta.fresh 0 with slots := [(3, { Slot.fresh with state := 2, launch := 1, image := 7 * 256 ^ 0x18, arenas := [(0x10000, 64, own)] })] }
theorem met_LineInstructions : ((lined LineMeta.fresh 128).X 10).toNat % 128 = 0 ∧
    okIs ((lined LineMeta.fresh 128).translate (.ltype 10 2 5) .ltype 0x10000) (latPage, lined LineMeta.fresh 128) = true ∧
    okIs ((lined LineMeta.fresh 128).translate (.freeze 10 11 0) .freeze 0x10000) (latPage, lined LineMeta.fresh 128) = true ∧
    (lined LineMeta.fresh 128).place (latPage.addr 0x10000) = .device 0x20000 ∧ (lined LineMeta.fresh 128).copiesOf 0x400 = [] ∧
    ((lined LineMeta.fresh 128).metaOf 0x400).type = 0xF ∧ (lined LineMeta.fresh 128).X 11 = 128 ∧ (lined LineMeta.fresh 0).X 11 = 0 ∧
    (lined LineMeta.fresh 128).cx.freezeAt = none ∧ (lined LineMeta.fresh 128).undoRegion = none ∧ (lined LineMeta.fresh 128).watches = [] ∧
    ((lined { LineMeta.fresh with type := 0, width := 2, filled := false } 0).memLine 0x400 = bottomLine .maxu 2) ∧
    (lined bottomed 0).memLine 0x400 ≠ bottomLine .minu 3 := by decide +kernel
theorem met_LineInstructions_mem : (lined LineMeta.fresh 128).MemWf := (by decide +kernel : Memory.wf _ = true)
theorem met_LineInstructions_arena : (owning true).slotOf 1 = some 3 ∧
    ((owning true).slotAt 3).arenas.find? (fun e => e.1 == ((owning true).X 10).toNat) = some (0x10000, 64, true) ∧
    ((owning false).slotAt 3).arenas.find? (fun e => e.1 == ((owning true).X 10).toNat) = some (0x10000, 64, false) ∧
    (∀ e ∈ ((owning true).slotAt 3).arenas, e.1 ≠ 0x10080) := by decide +kernel
theorem met_LineInstructions_query : let s := withPage (handler fun c => c.setX 10 0x10000) 0x10000 latPage
    s.cx.depth ≠ 0 ∧ okIs (s.translate (.lquery 8 10) .query 0x10000) (latPage, s) = true ∧ s.bytesAt (latPage.addr 0x10000) = some 0x20000 ∧
    (task id).cx.depth = 0 ∧ encode (.lquery 8 10) ≠ none := by decide +kernel
theorem test_ltype : (next (.ltype 10 2 1) (lined LineMeta.fresh 0)).map (fun t => ((t.metaOf 0x400).type, t.memLine 0x400)) = some (1, -1) := by
  decide +kernel
theorem test_ltype_not_bottom : trapsWith (.ltype 10 2 1) (lined bottomed 0) = some (0xC2, 0x10000) := by decide +kernel
theorem test_freeze : (next (.freeze 10 11 0) (lined bottomed 128)).map (fun t => (t.metaOf 0x400).frozen) = some true := by decide +kernel
theorem test_lreset_shared : trapsWith (.lreset 10) (owning false) = some (0xC6, 0x10000) := by decide +kernel
theorem test_lquery : (next (.lquery 8 10) (withPage (handler fun c => c.setX 10 0x10000) 0x10000 latPage)).map (fun t => t.X 8) = some 0xF00000 := by
  decide +kernel

def answered (f : Failures) : State := task fun c => { c with answer := some 0, fails := f }
theorem met_FenceAndWait : (answered Failures.none).cx.answer ≠ none ∧ (answered Failures.none).cx.hostWrites = 0 ∧ (task id).cx.answer = none ∧
    (task id).cx.cancelled = false ∧ (task fun c => { c with cnt := { c.cnt with loads := 3 } }).cx.cnt.loads ≤ (3 : BitVec 4).toNat ∧
    ¬((task fun c => { c with cnt := { c.cnt with loads := 16 } }).cx.cnt.loads ≤ (14 : BitVec 4).toNat) := by decide +kernel
theorem test_fence_status : (next (.fence 8 4) (answered { lost := 2, refused := 0, poisoned := 300, timedout := 0 })).map (fun t => (t.X 8, t.cx.fails.total)) =
    some (0xFF000205, 0) := by decide +kernel
theorem test_waitc_limit : (next (.waitc 0 0 0 14) (task fun c => { c with cnt := { c.cnt with loads := 15 } })).map (fun t => t.cx.st) = some .stalled ∧
    (next (.waitc 0 0 0 15) (task fun c => { c with cnt := { c.cnt with loads := 16 } })).map (fun t => t.cx.st) = some .active := by decide +kernel
theorem met_Joins_room : (growing maxu32 id).ArrivalRoom ∧ (withDelta (growing maxu32 id)).ArrivalRoom ∧
    splitsJoins ((withDelta (growing maxu32 id)).crewAt (loggingCrew ((growing maxu32 id).sliceFor 0 0x10008))).splitctl = false :=
  ⟨⟨by decide +kernel, by decide +kernel⟩, ⟨by decide +kernel, by decide +kernel⟩, by decide +kernel⟩
/-- Two triggers of SPAN whose halves cover the number range between them, and a pair that does not. -/
theorem test_triggers_span : triggerFault .span 3 0 [0x7FFFFFFF00000000, 0x0000000080000000] = none ∧
    triggerFault .span 3 1 [0x7FFFFFFF00000000, 0x0000000080000001] = some 0x100 ∧ 1 < 1024 / latWidth .span 3 := by decide +kernel
theorem met_ThresholdReads_poison : (spoilt idleTask).MeetsPoison (spoilt idleTask) (.tread 8 10 12 0 2 0) .thresh 0x10008 latPage 0x20008 ∧
    (spoilt idleTask).MeetsPoison (spoilt idleTask) (.twait 8 10 12 0 2 0) .thresh 0x10008 latPage 0x20008 ∧ ((spoilt idleTask).metaOf 0x400).type = 0 ∧
    ((spoilt idleTask).metaOf 0x400).width = 2 ∧ (spoilt idleTask).lineBusy 0x400 = false ∧
    (spoilt idleTask).rollbackFor (spoilt idleTask).cx.launchId = none :=
  ⟨⟨eq_of_okIs (by decide +kernel), rfl, by decide +kernel, by decide +kernel, fun _ h => nomatch h⟩,
   ⟨eq_of_okIs (by decide +kernel), rfl, by decide +kernel, by decide +kernel, fun _ h => nomatch h⟩, by decide +kernel, by decide +kernel,
   by decide +kernel, by decide +kernel⟩
theorem met_ThresholdReads_idle : idleTask.cx.drained = true ∧ idleTask.writesOut idleTask.cx.record = false ∧ idleTask.cx.depth = 0 ∧
    splitsOn (idleTask.crewAt 0).splitctl = false ∧ idleTask.holdsTiles ctx0 = false ∧ idleTask.watches.length < 16384 ∧ idleTask.AwaitsNothing ctx0 :=
  ⟨by decide +kernel, by decide +kernel, by decide +kernel, by decide +kernel, by decide +kernel, by decide +kernel,
   ⟨fun _ h => (nomatch h), fun _ h => (nomatch h), fun _ h => (nomatch h)⟩⟩
theorem met_FenceAndWait_unlimited : ((15 : BitVec 4) = 15 ∨ (task id).cx.cnt.copies ≤ (15 : BitVec 4).toNat) := .inl rfl

/-- A context with lanes and 16 pages of one kind behind x10; v1 masks, v4 holds data. -/
def vectors (va : Word) (l : Leaf) (mask : VReg) : State :=
  let s := reader l fun c => { (c.setV 1 mask).setV 4 (filled fun j => BitVec.ofNat 32 (j + 1)) with grant := 64, req := 64, x := c.x.set 10 va }
  [0, 128].foldl (fun s o => withPage s (va + o) l) s
def vmem : State := vectors 0x10000 page 6
theorem met_VectorMemory : vmem.LanesReady vmem ∧ vmem.active 1 1 = true ∧ vmem.active 1 2 = true ∧
    (∀ j < 64, j ≠ 1 → j ≠ 2 → vmem.active 1 j = false) ∧ vmem.MemWf ∧ vmem.undoRegion = none ∧ vmem.actor = noLaunch ∧
    (vmem.crewAt vmem.cur.crew).nodes = [] :=
  ⟨⟨by decide +kernel, by decide +kernel⟩, by decide +kernel, by decide +kernel, by decide +kernel, (by decide +kernel : Memory.wf _ = true),
   by decide +kernel, by decide +kernel, by decide +kernel⟩
theorem vmem_reaches : ∀ j < 64, vmem.active 1 j = true → (0x10000 + BitVec.ofNat 64 (4 * j)).toNat % 4 = 0 ∧ (0x20000 + 4 * j) % 4 = 0 ∧
    (∃ s2, vmem.Reaches s2 (.vld 6 10 1) .load (0x10000 + BitVec.ofNat 64 (4 * j)) page (0x20000 + 4 * j)) ∧
    (∃ s2, vmem.Reaches s2 (.vst 4 10 1) .store (0x10000 + BitVec.ofNat 64 (4 * j)) page (0x20000 + 4 * j)) := by
  have h : ∀ j < 64, vmem.active 1 j = true → j = 1 ∨ j = 2 := by decide +kernel
  intro j hj ha
  rcases h j hj ha with rfl | rfl <;>
    exact ⟨by decide, by decide, ⟨vmem, eq_of_okIs (by decide +kernel), rfl, by decide +kernel, by decide +kernel⟩,
      ⟨vmem, eq_of_okIs (by decide +kernel), rfl, by decide +kernel, by decide +kernel⟩⟩
theorem vmem_apart : ∀ j < 64, ∀ k < 64, vmem.active 1 j = true → vmem.active 1 k = true →
    (j ≠ k → 0x20000 + 4 * j ≠ 0x20000 + 4 * k) ∧ (0x20000 + 4 * j) % 128 = (0x10000 + BitVec.ofNat 64 (4 * j)).toNat % 128 ∧
    ((0x10000 + BitVec.ofNat 64 (4 * j)).toNat / 128 = (0x10000 + BitVec.ofNat 64 (4 * k)).toNat / 128 →
      (0x20000 + 4 * j) / 128 = (0x20000 + 4 * k) / 128) := by
  have h : ∀ j < 64, vmem.active 1 j = true → j = 1 ∨ j = 2 := by decide +kernel
  intro j hj k hk ha hb
  rcases h j hj ha with rfl | rfl <;> rcases h k hk hb with rfl | rfl <;> decide
theorem test_vld : (next (.vld 6 10 1) vmem).map (fun t => (velem (t.V 6) 32 1, velem (t.V 6) 32 2, t.cx.cnt.loads)) = some (0, 0x55667788, 1) := by
  decide +kernel
theorem test_vst : (next (.vst 4 10 1) vmem).map (fun t => (t.byteAt 0x20004, t.byteAt 0x20008, t.byteAt 0x2000C, t.cx.cnt.stores)) =
    some (2, 3, 0x44, 1) := by decide +kernel
theorem test_vldx_unsigned : trapsWith (.vldx 6 10 4 1) (vmem.upd fun c => c.setV 4 (filled fun _ => 0xFFFFFFFC)) = some (0x91, 0x10000FFFC) := by
  decide +kernel
theorem test_vst_misaligned : trapsWith (.vst 4 10 1) (vmem.upd fun c => c.setX 10 0x10002) = some (0xA5, 0x10006) := by decide +kernel

def vlat : State := lineAs maxu32 (vectors 0x10000 latPage 6)
theorem met_VectorLines : vlat.LanesReady vlat ∧ (vlat.X 10).toNat % 128 = 0 ∧ ((∃ j < 32, vlat.active 1 j = true) ∧
      ∀ j < 64, 32 ≤ j → vlat.active 1 j = false) ∧ vlat.Reaches vlat (.joinv 4 10 0 1 2 0) .join 0x10000 latPage 0x20000 ∧
    (vlat.metaOf 0x400).type = 0 ∧ (vlat.metaOf 0x400).width = 2 ∧ vlat.copyAt? (vlat.sliceFor 0 0x10000) 0x400 = none ∧ vlat.MemWf ∧
    vlat.undoRegion = none ∧ vlat.watches = [] ∧ splitsJoins (vlat.crewAt (loggingCrew (homeOf 0x400))).splitctl = false :=
  ⟨⟨by decide +kernel, by decide +kernel⟩, by decide +kernel, ⟨⟨1, by decide, by decide +kernel⟩, by decide +kernel⟩,
   ⟨eq_of_okIs (by decide +kernel), rfl, by decide +kernel, by decide +kernel⟩, by decide +kernel, by decide +kernel, by decide +kernel,
   (by decide +kernel : Memory.wf _ = true), by decide +kernel, by decide +kernel, by decide +kernel⟩
theorem met_VectorLines_none : ∀ j < 64, (vectors 0x10000 latPage 0).active 1 j = false := by decide +kernel
def vcold : State := vectors 0x10000 coldPage 6
theorem met_VectorLines_read : vcold.LanesReady vcold ∧ vcold.Reaches vcold (.xreadv 6 10 1) .exact 0x10000 coldPage 0x20000 ∧
    (∀ j < 32, vcold.place (coldPage.addr (0x10000 + BitVec.ofNat 64 (4 * j))) = .device (0x20000 + 4 * j)) :=
  ⟨⟨by decide +kernel, by decide +kernel⟩, ⟨eq_of_okIs (by decide +kernel), rfl, by decide +kernel, by decide +kernel⟩, by decide +kernel⟩
theorem test_joinv : (next (.joinv 4 10 0 1 2 0) vlat).map (fun t => ((t.memLine 0x400).toNat / 2 ^ 32 % 2 ^ 64, t.cx.cnt.stores)) =
    some (0x5566778800000002, 1) := by decide +kernel
theorem test_xreadv : (next (.xreadv 6 10 1) vcold).map (fun t => velem (t.V 6) 32 2) = some 0x55667788 := by decide +kernel
theorem met_VectorMemory_poison : ((spoilt vmem).metaOf (lineOf 0x20004)).poison = true ∧ ((spoilt vmem).metaOf (lineOf 0x20080)).poison = false ∧
    (spoilt vmem).rollbackFor (spoilt vmem).cx.launchId = none := by decide +kernel
theorem met_VectorMemory_stores : vmem.ArrivalRoom ∧ vmem.Unshadowed page 0x20004 ∧
    { vmem with actor := 5, shadows := [{ launch := 5, line := 0x400, data := 0, region := none, index := 0 }] }.Unshadowed { page with ex := true } 0x20004 ∧
    vlat.ArrivalRoom :=
  ⟨⟨by decide +kernel, by decide +kernel⟩, .inr (.inl rfl), .inr (.inr (.inr ⟨_, List.mem_singleton.mpr rfl, rfl, rfl⟩)),
   ⟨by decide +kernel, by decide +kernel⟩⟩
theorem test_vld_poison : (next (.vld 6 10 1) (spoilt vmem)).map (fun t => (velem (t.V 6) 32 1, t.cx.vpoison)) = some (0, some 0x10004) := by
  decide +kernel

/-! Tile instructions (R235–R265). -/

/-- Slots of crew 0: 0 READY in bank 0, 1 EMPTY, 2 READY in bank 1 of INT8, 3 of another task, 4 FILLING. t1 to t5 name them in order,
t6 a slot of another crew, t7 a released one; t0 is null. -/
def slot (st : TState) (owner : Word) (bank off : Nat) : Tile := { Tile.fresh with alloc := true, st := st, owner := owner, bank := bank, off := off }
def tiles : Map Tile := [(0, slot .ready 0x2000 0 0), (1, slot .empty 0x2000 0 16), (2, slot .ready 0x2000 1 0), (3, slot .empty 0x3000 0 32),
  (4, slot .filling 0x2000 0 48)]
def tiled (f : Ctx → Ctx) : State :=
  ((task fun c => f { c with t := #v[0, 0x80000000, 0x80000001, 0x80000002, 0x80000003, 0x80000004, 0x80400000, 0x80000405, 0, 0, 0, 0, 0, 0, 0, 0] }).updCrew 0
    fun k => { k with tiles := tiles, bfmt := [(1, 12)] }).updCrew 1 fun k => { k with tiles := [(0, slot .ready 0x2000 0 0)] }

theorem names (f : Ctx → Ctx) (h : BitVec 32) (a : h.getLsbD 31 = true)
    (b : ((tiled f).slotNamed (tiled f).cur.crew h).alloc = true ∧ ((tiled f).slotNamed (tiled f).cur.crew h).st ≠ .draining)
    (c : ((tiled f).slotNamed (tiled f).cur.crew h).gen = h.extractLsb' 10 12) : (tiled f).Names h := ⟨a, b, c⟩
theorem met_TileRegisters : (tiled id).Names ((tiled id).cx.getT 1) ∧ ((tiled id).cx.getT 0).getLsbD 31 = false ∧
    ((tiled id).cx.getT 7).getLsbD 31 = true ∧ ((tiled id).slotNamed 0 ((tiled id).cx.getT 7)).alloc = false ∧ (tiled id).X 2 = 0 ∧
    programOk 0 = true ∧ programOk 0xFFFF = false ∧ (0x80000000 : Word).toNat / 2 ^ 26 = 32 ∧ (0x83FFFFFF : Word).toNat / 2 ^ 26 = 32 ∧
    (0x84000000 : Word).toNat / 2 ^ 26 ≠ 32 :=
  ⟨names id _ (by decide) (by decide +kernel) (by decide +kernel), by decide +kernel, by decide +kernel, by decide +kernel, by decide +kernel,
   by decide +kernel, by decide +kernel, by decide, by decide, by decide⟩
def gathers (v : Word) : State := tiled fun c => c.setX 2 v
theorem met_TileRegisters_index : (gathers 3).Names ((gathers 3).cx.getT 3) ∧ ((gathers 3).X 2).extractLsb' 0 4 = (3 : BitVec 4) ∧
    (11 ≤ ((gathers 3).bankOf 3).toNat % 16 ∧ ((gathers 3).bankOf 3).toNat / 16 % 4 = 0) ∧ ¬(11 ≤ ((gathers 1).bankOf 1).toNat % 16) ∧
    (gathers 3).X 2 &&& ~~~0x3F1F = 0 :=
  ⟨names _ _ (by decide) (by decide +kernel) (by decide +kernel), by decide +kernel, by decide +kernel, by decide +kernel, by decide +kernel⟩
theorem test_tmap_gather : (next (.tmapGather 8 1 2) (gathers 0x2013)).map (fun t => (t.cx.getT 8, t.cx.mapOf 8)) =
    some (0x80000000, { kind := 5, param := 0x2013, index := 0x80000002 }) := by decide +kernel
theorem test_tmap_param : trapsWith (.tmapBcast 8 1 2) (gathers 0x40) = some (0x109, 0x40) := by decide +kernel
theorem test_tmap_null : trapsWith (.tmapTrans 8 0 2) (gathers 1) = some (0x100, 0) := by decide +kernel

theorem met_TileSlots : (5 : Nat) < 1024 ∧ ((tiled id).tileAt 0 5).alloc = false ∧ (∀ m < 5, ((tiled id).tileAt 0 m).alloc = true) ∧
    ((64 + 16 ≤ 256) ∧ ∀ p ∈ ((tiled id).crewAt 0).tiles, p.2.alloc = true → p.2.bank = 0 → 64 + 16 ≤ p.2.off ∨ p.2.off + 16 ≤ 64) ∧
    (∀ o < 64, ¬(o + 16 ≤ 256 ∧ ∀ p ∈ ((tiled id).crewAt 0).tiles, p.2.alloc = true → p.2.bank = 0 → o + 16 ≤ p.2.off ∨ p.2.off + 16 ≤ o)) ∧
    ((tiled id).bankFmt 0 0).toNat / 16 % 4 < 3 ∧ (tiled id).cx.cancelled = false := by decide +kernel
/-- A bank whose every offset is taken. -/
def packed : State := (tiled id).updCrew 0 fun k => { k with tiles := (List.range 16).map fun n => (n, slot .empty 0x2000 0 (16 * n)) }
theorem met_TileSlots_full : ∀ o, ¬(o + 16 ≤ 256 ∧ ∀ p ∈ (packed.crewAt 0).tiles, p.2.alloc = true → p.2.bank = 0 → o + 16 ≤ p.2.off ∨ p.2.off + 16 ≤ o) := by
  have h : ∀ o < 241, ¬(o + 16 ≤ 256 ∧ ∀ p ∈ (packed.crewAt 0).tiles, p.2.alloc = true → p.2.bank = 0 → o + 16 ≤ p.2.off ∨ p.2.off + 16 ≤ o) := by
    decide +kernel
  intro o ho
  exact h o (by omega) ho
theorem met_TileSlots_release : (tiled id).Names ((tiled id).cx.getT 1) ∧ ((tiled id).slotNamed 0 0x80000000).owner = (tiled id).cx.record ∧
    (tiled id).isRead (ownerCrew 0 0x80000000) 0 = false ∧ ((tiled id).slotNamed 0 0x80000003).owner ≠ (tiled id).cx.record ∧
    ((tiled id).slotNamed 0 0x80000003).owner ≠ 0 ∧ ownerCrew 0 ((tiled id).cx.getT 6) = 1 ∧
    (tiled id).writerOf 1 0 = none ∧ ((tiled id).slotNamed 0 0x80000000).bank < 16 ∧ ((tiled id).slotNamed 0 0x80000000).off < 256 :=
  ⟨names id _ (by decide) (by decide +kernel) (by decide +kernel), by decide +kernel, by decide +kernel, by decide +kernel, by decide +kernel,
   by decide +kernel, by decide +kernel, by decide +kernel, by decide +kernel⟩
/-- A node that reads one slot. -/
def aNode (h out : BitVec 32) : Node where
  word := 0
  cpc := 0x900
  cno := 0
  ctx := ctx0
  record := 0x2000
  serial := 0
  launch := 1
  out := out
  outReg := 2
  ins := [(0, { handle := h, reg := 1, map := TMap.ident })]
  xa := 0
  tsh := Vector.replicate 8 0
  k4 := 0
  fpctl := 0
  mprog := 0
  mask := 0
  st := .live
  sub := 0
  step := 0
  group := 0
  flags := 0
  cause := 0
  range := none
  stage := []
  staged := false
  demand := none
  evaluators := []
  owed := none
  told := false
  aborted := false
/-- A node of a third crew of the squad reads it. -/
def readAfar : State := (tiled id).updCrew 2 fun k => { k with nodes := [(0, aNode 0x80400000 0x80000001)] }
theorem met_TileSlots_draining : readAfar.Names (readAfar.cx.getT 6) ∧ readAfar.readersOf 0 1 0 = [] ∧ readAfar.isRead 1 0 = true ∧ ownerCrew 0 (readAfar.cx.getT 6) ≠ 0 ∧ readAfar.writerOf 1 0 = none ∧
    (∀ p ∈ (readAfar.crewAt 0).nodes, ∀ f, (readAfar.cur, f) ∉ p.2.evaluators) :=
  ⟨⟨by decide +kernel, by decide +kernel, by decide +kernel⟩, by decide +kernel, by decide +kernel, by decide +kernel, by decide +kernel, fun _ h => (nomatch h)⟩
theorem met_TileSlots_bankfmt : ((handler id).cx.depth ≠ 0 ∨ (15 : BitVec 4) ≠ 15) ∧ ((task id).cx.depth = 0 ∧ (15 : BitVec 4) = 15) ∧
    ((0x800400 : Word) &&& 0xFFFFFFFFFF00F8C0 = 0 ∧ (0x800400 : Word).toNat / 256 % 8 ≤ 4) ∧ (1 : Word).toNat % 16 ≠ 9 ∧
    ¬((0x500 : Word).toNat / 256 % 8 ≤ 4) ∧ (∃ p ∈ ((tiled id).crewAt 0).tiles, p.2.alloc = true ∧ p.2.bank = 1) ∧
    ¬(∃ p ∈ ((tiled id).crewAt 0).tiles, p.2.alloc = true ∧ p.2.bank = 2) ∧ encode (.bankfmt 2 1) ≠ none := by decide +kernel
theorem test_talloc : (next (.talloc 8 0) (tiled id)).map (fun t => (t.cx.getT 8, (t.tileAt 0 5).off)) = some (0x80000005, 64) := by decide +kernel
theorem test_talloc_waits : (next (.talloc 8 0) packed).map (fun t => t.cx.st) = some .stalled := by decide +kernel
theorem test_trel : (next (.trel 1) (tiled id)).map (fun t => ((t.tileAt 0 0).alloc, (t.tileAt 0 0).gen)) = some (false, 1) := by decide +kernel
theorem test_trel_read : (next (.trel 6) readAfar).map (fun t => (t.tileAt 1 0).st) = some .draining := by decide +kernel
theorem test_trel_stale : trapsWith (.trel 7) (tiled id) = some (0x101, 0x80000405) := by decide +kernel
theorem test_tstat : (next (.tstat 3 9) (tiled id)).map (fun t => t.X 9) = some 0x0010000A80000002 := by decide +kernel
theorem test_bankfmt_busy : trapsWith (.bankfmt 2 1) (tiled id) = some (0x106, 1) := by decide +kernel

theorem output : (tiled id).Output ((tiled id).cx.getT 2) :=
  ⟨names id _ (by decide) (by decide +kernel) (by decide +kernel), by decide +kernel, by decide +kernel, by decide +kernel⟩
theorem room : (tiled id).NodeRoom 0 := ⟨by decide +kernel, by decide +kernel, by decide +kernel, by decide, by decide +kernel, fun i h => by omega⟩
theorem met_NodeRecording : (tiled id).Output ((tiled id).cx.getT 2) ∧ (tiled id).NodeRoom 0 ∧ (tiled id).Names ((tiled id).cx.getT 1) ∧
    (tiled id).Usable ((tiled id).cx.getT 1) ∧ (tiled id).Names ((tiled id).cx.getT 3) ∧ (tiled id).Usable ((tiled id).cx.getT 3) ∧
    (Instr.tmm 2 1 3 0).wellFormed = true ∧ (Instr.tew 2 1 1 4).wellFormed = true ∧ (Instr.tew 2 1 0 5).wellFormed = true ∧
    (Instr.tred 2 1 0 0).wellFormed = true ∧ (Instr.tqnt 2 1 1).wellFormed = true :=
  ⟨output, room, names id _ (by decide) (by decide +kernel) (by decide +kernel), .inl (by decide +kernel),
   names id _ (by decide) (by decide +kernel) (by decide +kernel), .inl (by decide +kernel), by decide +kernel, by decide +kernel, by decide +kernel,
   by decide +kernel, by decide +kernel⟩
theorem met_NodeRecording_checks : (tiled id).checkWindow (tileBase ((tiled id).X 2) (tiled id).cx.tsh) true false = none ∧
    (((tiled id).crewAt 0).nodes.filter fun p => p.2.range.isSome).length < 256 ∧
    ((tiled id).cx.getTsh 3).toNat / 4096 = 0 ∧ ((tiled id).bankOf 1).toNat / 16 % 4 = 0 ∧ ((tiled id).bankOf 3).toNat / 16 % 4 = 0 ∧
    11 ≤ ((tiled id).bankOf 3).toNat % 16 ∧
    (let t3 := ((tiled fun c => c.setTsh 3 0x501).cx.getTsh 3).toNat
     t3 / 4096 = 0 ∧ t3 / 16 % 16 = 0 ∧ 5 ≤ t3 / 256 ∧ t3 / 256 ≤ 8) := by decide +kernel
/-- The output slot in a bank of a BX32 format. -/
def scaledOut : State := (tiled id).updCrew 0 fun k => { k with tiles := mput k.tiles 1 (slot .empty 0x2000 2 0), bfmt := [(1, 12), (2, 0x14)] }
theorem met_NodeRecording_quantise : scaledOut.Output (scaledOut.cx.getT 2) ∧ scaledOut.NodeRoom 0 ∧ scaledOut.Names (scaledOut.cx.getT 1) ∧
    scaledOut.Usable (scaledOut.cx.getT 1) ∧ (scaledOut.bankOf 2).toNat / 16 % 4 = (1 : BitVec 2).toNat :=
  ⟨⟨⟨by decide +kernel, by decide +kernel, by decide +kernel⟩, by decide +kernel, by decide +kernel, by decide +kernel⟩,
   ⟨by decide +kernel, by decide +kernel, by decide +kernel, by decide, by decide +kernel, fun i h => by omega⟩, ⟨by decide +kernel, by decide +kernel, by decide +kernel⟩,
   .inl (by decide +kernel), by decide +kernel⟩
theorem test_tmm_records : (next (.tmm 2 1 3 0) (tiled id)).map
    (fun t => ((t.nodeAt? 0 0).map fun n => (n.out, n.ins.length), (t.tileAt 0 1).st, (t.crewAt 0).cno)) = some (some (0x80000001, 2), .filling, 1) := by
  decide +kernel
theorem test_tmm_owner : trapsWith (.tmm 4 1 3 0) (tiled id) = some (0x103, 0x80000003) := by decide +kernel
theorem test_tmm_other_crew : trapsWith (.tmm 6 1 3 0) (tiled id) = some (0x105, 0x80400000) := by decide +kernel

def shaped (n : Nat) : State := { tiled id with slots := [(3, { Slot.fresh with state := 2, launch := 1, image := n * 256 ^ 0x1D })] }
theorem met_TileDemands : ((tiled id).cx.getT 0).getLsbD 31 = false ∧ ownerCrew 0 ((tiled id).cx.getT 6) ≠ 0 ∧
    ((tiled id).slotNamed 0 ((tiled id).cx.getT 4)).owner ≠ (tiled id).cx.record ∧ ((tiled id).slotNamed 0 ((tiled id).cx.getT 1)).st ≠ .empty ∧
    (tiled id).cx.record ≠ 0 ∧ (shaped 8).slotOf (shaped 8).cx.launchId = some 3 ∧
    ((shaped 8).slotAt 3).image / 256 ^ 0x1D % 256 = 8 ∧ (7 : BitVec 3).toNat < 8 ∧ shapeOf 0 0 = none ∧
    (shapeOf (1 * 256 ^ 0x18 + 1 * 256 ^ 0x1C) 0).isSome = true := by decide +kernel
theorem met_TileDemands_waits : (tiled id).Names ((tiled id).cx.getT 5) ∧ ¬(tiled id).Usable ((tiled id).cx.getT 5) ∧ (tiled id).cx.cancelled = false := by
  refine ⟨names id _ (by decide) (by decide +kernel) (by decide +kernel), ?_, by decide +kernel⟩
  rintro (h | ⟨_, _, j, n, h, _⟩)
  · exact absurd h (by decide +kernel)
  · have e : (tiled id).writerOf (tiled id).cur.crew (hSlot ((tiled id).cx.getT 5)) = none := by decide +kernel
    rw [e] at h; cases h
def forcing (x y : Word) : State := tiled fun c => (c.setX 2 x).setX 3 y
theorem met_TileDemands_force : ((forcing 0 0x101).X 2 &&& ~~~0x3F3F = 0 ∧ (forcing 0 0x101).X 3 &&& ~~~0x7F7F = 0 ∧
      0 < ((forcing 0 0x101).X 3).toNat % 128 ∧ 0 < ((forcing 0 0x101).X 3).toNat / 256) ∧
    (0x3F3F : Word).toNat % 256 + (0x101 : Word).toNat % 256 ≤ 64 ∧ (0 : Word).toNat / 256 + (0x4040 : Word).toNat / 256 ≤ 64 ∧
    ¬((0x3F00 : Word).toNat / 256 + (0x201 : Word).toNat / 256 ≤ 64) ∧ ((forcing 0 0x101).slotNamed 0 0x80000000).st = .ready ∧
    ((forcing 0 0x101).crewAt 0).nodes = [] := by decide +kernel
theorem test_tforce_ready : (next (.tforce 1 2 3) (forcing 0 0x101)).map (fun t => t.pc) = some 0x1004 := by decide +kernel
theorem test_tforce_region : trapsWith (.tforce 1 2 3) (forcing 0x3F00 0x201) = some (0x10A, 0x100) := by decide +kernel
/-- A window of one FP32 element at the page. -/
def storing : State := withPage (tiled fun c => (c.setX 10 0x10000).setTsh 0 4) 0x10000 page
def storePieces : List Piece := match storing.translatePieces (.tstore 1 10) 0 false ((windowOf storing.cx.tsh 0x10000).pieces (storing.view 0 0x80000000 TMap.ident |>.intoWindow (windowOf storing.cx.tsh 0x10000) 0).1) with
  | .ok r => r.1
  | .error _ => []
theorem met_TileDemands_store : storing.checkWindow (tileBase (storing.X 10) storing.cx.tsh) true true = none ∧ (storing.crewAt 0).nodes = [] ∧
    (storing.cx.mapOf 1).kind ≠ 5 ∧
    (storing.view 0 0x80000000 (storing.cx.mapOf 1)).windowPoison (List.range (windowOf storing.cx.tsh 0x10000).rows) (List.range (windowOf storing.cx.tsh 0x10000).cols) = none ∧
    okIs (storing.translatePieces (.tstore 1 10) 0 (storing.cx.depth != 0) ((windowOf storing.cx.tsh 0x10000).pieces
      ((storing.view 0 0x80000000 (storing.cx.mapOf 1)).intoWindow (windowOf storing.cx.tsh 0x10000) storing.cx.k4).1)) (storePieces, storing) = true := by
  decide +kernel
theorem test_tstore : (next (.tstore 1 10) storing).map (fun t => ((t.crewAt 0).writeOuts.length, t.cx.cnt.demands)) = some (1, 1) := by decide +kernel
/-- A node of the task writes the FILLING slot; it has computed the sub-tiles of a mask. -/
def producer (m : BitVec 16) : Node := { aNode 0x80000000 0x80000004 with word := 0xC8800401, mask := m }
def demanding (m : BitVec 16) : State := ((forcing 0x0F 0x102).upd fun c => c.setT 5 0x80000004).updCrew 0 fun k => { k with nodes := [(0, producer m)] }
theorem met_TileDemands_demand : (demanding 0).Names ((demanding 0).cx.getT 5) ∧ (demanding 0).writerOf 0 4 = some (0, producer 0) ∧
    (demanding 0).nodeAt? 0 0 = some (producer 0) ∧ (producer 0).record = (demanding 0).cx.record ∧ ((demanding 0).cx.mapOf 5).kind = 0 ∧
    ((demanding 0).bankFmt 0 ((demanding 0).tileAt 0 4).bank).toNat / 16 % 4 = 0 ∧ ((demanding 0).slotNamed 0 0x80000000).st = .ready ∧
    (∀ p ∈ ((demanding 0).crewAt 0).nodes, ∀ f, ((demanding 0).cur, f) ∉ p.2.evaluators) ∧ (demanding 0).nextServed = (demanding 0).cur.n ∧
    ((demanding 0).X 2).toNat % 64 = 15 ∧ ((demanding 0).X 3).toNat % 128 = 2 ∧ (producer 1).mask.getLsbD 0 = true ∧ (producer 1).mask.getLsbD 4 = false := by
  refine ⟨⟨by decide +kernel, by decide +kernel, by decide +kernel⟩, by decide +kernel, by decide +kernel, by decide +kernel, by decide +kernel,
    by decide +kernel, by decide +kernel, ?_, by decide +kernel, by decide +kernel, by decide +kernel, by decide +kernel, by decide +kernel⟩
  intro p h f
  have e : p = (0, producer 0) := List.mem_singleton.mp h
  rw [e]; exact fun x => nomatch x
theorem test_tforce_demands : (next (.tforce 5 2 3) (demanding 1)).map (fun t => (t.events, (t.nodeAt? 0 0).map Node.sub)) =
    some ([.sweepPass 0 0], some 4) := by decide +kernel
/-- An input whose map names a released tile. -/
theorem met_TileDemands_stale : let s := tiled fun c => c.setMap 1 { kind := 5, param := 3, index := 0x80000405 }
    (s.cx.mapOf 1).kind = 5 ∧ (s.cx.mapOf 1).index.getLsbD 31 = true ∧ ¬s.Names (s.cx.mapOf 1).index := by
  refine ⟨by decide +kernel, by decide +kernel, fun h => absurd h.slot.1 (by decide +kernel)⟩

/-! Tasks, records and queues (R36–R50, R276–R285, R316–R323). -/

/-- Memory with values at addresses, on one leaf at the root that maps 4 TiB to themselves. -/
def stored (xs : List (Nat × Nat × Nat)) (s : State) : State :=
  { s with mem := xs.foldl (fun m x => m.writeN x.1 x.2.1 x.2.2) s.mem }
def identity (xs : List (Nat × Nat × Nat)) (s : State) : State :=
  stored ((0x100000, 1, 0x63) :: xs) { s with pkg := { s.pkg with root := 0x100000 } }
/-- Launch 1 of job 7, phase 2, graph 5, in slot 3, with a pool of eight records at 4000H, of which 0 to 2 are in use. -/
def launch1 : Slot := { Slot.fresh with
  state := 2, launch := 1, taken := [0, 1, 2], crews := [0], serial := 9
  image := 0x1C + 0x4000 * 256 ^ 0x50 + 8 * 256 ^ 0x58 + 7 * 256 ^ 0x18 + 2 * 256 ^ 0x16 + 5 * 256 ^ 0x14 }
/-- The running task has record 0; record 1 has JOIN 1 and has not started, record 2 is ready, of JOIN 0. -/
def recs : List (Nat × Nat × Nat) := [(0x4024, 4, 1), (0x40C0, 8, 0x3000), (0x40E0, 4, 1), (0x40E4, 4, 1), (0x4180, 8, 0x3000), (0x41A4, 4, 1), (0x41B6, 2, 1),
  (0x41BB, 1, 3), (0x41C0, 8, 0x55)]
def running (f : Ctx → Ctx) : State :=
  identity recs { task (fun c => f { (c.setX 10 0x40C0).setX 11 3 with record := 0x4000 }) with slots := [(3, launch1)] }
def runs0 : State := running id

/-! Records on the identity page table. -/

/-- The root table at 100000H maps 4 TiB to themselves. -/
structure Ident (s : State) : Prop where
  root : s.rootTable = 0x100000
  id : s.pkg.pkgid = 0
  clean : (s.metaOf 0x2000).poison = false
  entry : s.readPa 0x100000 8 = 0x63
theorem place_low (s : State) (h : s.pkg.pkgid = 0) (a : Nat) (b : a < 2 ^ 22) : s.place a = .device a := by
  have e1 : a / 2 ^ 41 % 2 ^ 15 = 0 := by omega
  have e2 : a % 2 ^ 39 = a := by omega
  simp only [State.place, e1, e2, h]
  have e3 : a < dieBytes := by simp only [dieBytes]; omega
  simp [e3]
theorem Ident.walk {s : State} (h : Ident s) (va : Word) (d : va.toNat < 2 ^ 22) : s.hwPlace va = .device va.toNat := by
  have w : s.walk va needNone = .ok { pa := 0, span := 2 ^ 42, kind := 0, rd := true, wr := true, ex := false, hb := false, log := false, sbank := false } := by
    have z : va.toNat / 2 ^ 42 % 8192 = 0 := by omega
    have sh : levelShift 3 = 42 := by decide
    have en : s.tableEntry none 3 va.toNat 0x100000 = .ok 0x63 := by
      simp only [State.tableEntry, State.readEntry, sh, z]
      rw [place_low s h.id _ (by decide)]
      have l : lineOf 0x100000 = 0x2000 := by decide
      simp [l, h.clean, h.entry]
    rw [State.walk, h.root, State.walkFrom, en]
    simp only [sh]
    rfl
  have m : va.toNat % 2 ^ 42 = va.toNat := by omega
  simp only [State.hwPlace, w, Leaf.addr, m, Nat.zero_add]
  exact place_low s h.id _ d
theorem Ident.moves {s t : State} (h : Ident s) (qs : List Nat) (e : ∀ q ∈ qs, q + 192 ≤ 0x100000) (p : t.pkg = s.pkg) (b : s.SameBytesOff t qs)
    (m : ∀ l, (t.metaOf l).poison = (s.metaOf l).poison) : Ident t := by
  have off : ∀ k < 8, t.byteAt (0x100000 + k) = s.byteAt (0x100000 + k) := fun k hk =>
    b _ (by omega) fun q hq => by have := e q hq; omega
  refine ⟨by rw [← h.root]; simp only [State.rootTable, p], by rw [p, h.id], by rw [m, h.clean], ?_⟩
  rw [← h.entry]
  have o := fun k hk => off k hk
  simp only [State.readPa]
  rw [show (0x100000 : Nat) = 0x100000 + 0 from rfl, off 0 (by omega)]
  simp only [Nat.reduceAdd]
  rw [off 1 (by omega), off 2 (by omega), off 3 (by omega), off 4 (by omega), off 5 (by omega), off 6 (by omega), off 7 (by omega)]
theorem Ident.steady {s : State} (h : Ident s) (qs : List Nat) (e : ∀ q ∈ qs, q + 192 ≤ 0x100000) (va : Word) (d : va.toNat < 2 ^ 22) :
    s.Steady qs va := fun _ p _ b m => by rw [(h.moves qs e p b m).walk va d, h.walk va d]
theorem Ident.recordsOn {s : State} (h : Ident s) (rs : List (Word × Nat)) (mem : s.MemWf) (unlogged : s.NoUndo)
    (clean : ∀ x ∈ rs, ∀ o < 192, (s.metaOf (lineOf (x.2 + o))).poison = false)
    (at' : ∀ x ∈ rs, x.2 % 64 = 0 ∧ x.1.toNat = x.2 ∧ x.2 + 192 ≤ 0x100000)
    (apart : rs.Pairwise fun x y => x.2 + 192 ≤ y.2 ∨ y.2 + 192 ≤ x.2) : s.RecordsAt rs where
  mem := mem
  aligned := fun x hx => (at' x hx).1
  place := fun x hx o ho => by
    obtain ⟨-, b, c⟩ := at' x hx
    have e : (x.1 + BitVec.ofNat 64 o).toNat = x.2 + o := by rw [BitVec.toNat_add, BitVec.toNat_ofNat]; omega
    refine ⟨?_, h.steady _ ?_ _ (by omega)⟩
    · rw [h.walk _ (by omega), e]
    · intro q hq
      obtain ⟨y, hy, rfl⟩ := List.mem_map.mp hq
      exact (at' y hy).2.2
  clean := clean
  apart := apart
  unlogged := unlogged
theorem Ident.records {s : State} (h : Ident s) (rs : List (Word × Nat)) (mem : s.MemWf) (unlogged : s.NoUndo) (lines : s.lines = [])
    (at' : ∀ x ∈ rs, x.2 % 64 = 0 ∧ x.1.toNat = x.2 ∧ x.2 + 192 ≤ 0x100000)
    (apart : rs.Pairwise fun x y => x.2 + 192 ≤ y.2 ∨ y.2 + 192 ≤ x.2) : s.RecordsAt rs :=
  h.recordsOn rs mem unlogged (fun x _ o _ => by simp only [State.metaOf, lines, mget, mget?, LineMeta.fresh]; rfl) at' apart
theorem noUndo {s : State} {x : Slot} (a : s.slots = [(3, x)]) (b : ({ s with actor := x.launch } : State).undoRegion = none) : s.NoUndo := by
  intro l
  by_cases h : l = x.launch
  · rw [h]; exact b
  · have e : (x.launch == l) = false := by simpa using fun y => h y.symm
    have f : ({ s with actor := l } : State).slotOf l = none := by simp only [State.slotOf, a, List.find?, e, Bool.and_false, Option.map]
    simp only [State.undoRegion, f]
theorem ident_runs : Ident runs0 := ⟨by decide +kernel, by decide +kernel, by decide +kernel, by decide +kernel⟩
theorem runs_noUndo : runs0.NoUndo := noUndo rfl (by decide +kernel)

/-! Tasks. -/

theorem met_records : runs0.cx.hasTask = true ∧ (task fun c => { c with record := 0 }).cx.hasTask = false ∧
    runs0.slotOf runs0.cx.launchId = some 3 ∧ runs0.hwPa (0x40C0 + 0x20) = some 0x40E0 ∧ runs0.hwPa (0x4000 + 0x20) = some 0x4020 ∧
    runs0.recRead 0x40C0 0x20 4 = 1 ∧ runs0.recRead 0x4180 0x20 4 = 0 ∧ runs0.cx.drained = true ∧ runs0.recordFlags 0x40C0 / 4 % 2 = 0 ∧
    risingFrom 0 runs0.slots = true ∧ (runs0.slotAt 3).job = 7 := by decide +kernel
theorem live (r : Word) (h : r.toNat % 64 = 0) (k : Nat) (a : (runs0.slotAt 3).recordIndex r = some k) (b : k ∈ (runs0.slotAt 3).taken)
    (c : runs0.recordFlags r / 32 % 2 = 0) : runs0.LiveRecord 3 r := ⟨h, ⟨k, a, b⟩, c⟩
theorem met_RecordInstructions : runs0.LiveRecord 3 0x40C0 ∧ runs0.LiveRecord 3 0x4180 ∧ ¬runs0.LiveRecord 3 0x4240 ∧
    runs0.Simple 0x40E0 4 ∧ (running fun c => { c with cnt := { c.cnt with stores := 1 } }).cx.drained = false :=
  ⟨live _ (by decide) 1 (by decide +kernel) (by decide +kernel) (by decide +kernel),
   live _ (by decide) 2 (by decide +kernel) (by decide +kernel) (by decide +kernel),
   fun ⟨_, ⟨k, a, b⟩, _⟩ => by
     have e : (runs0.slotAt 3).recordIndex 0x4240 = some 3 := by decide +kernel
     rw [e] at a; cases a; exact absurd b (by decide +kernel),
   ⟨(by decide +kernel : Memory.wf _ = true), by decide, by decide +kernel, runs_noUndo⟩, by decide +kernel⟩
theorem met_RecordInstructions_bounds : 2 ^ 32 ≤ 0xFFFFFFFE + (2 : Word).toNat ∧ 0xFFFFFFFE + (1 : Word).toNat < 2 ^ 32 ∧
    2 ^ 32 ≤ (0x100000000 : Word).toNat ∧ (0xFFFFFFFF : Word).toNat < 2 ^ 32 ∧ 2 ^ 16 ≤ (0x10000 : Word).toNat ∧ (0xFFFF : Word).toNat < 2 ^ 16 ∧
    (8 : Word).toNat ≠ (runs0.slotAt 3).job ∧ (7 : Word).toNat = (runs0.slotAt 3).job := by decide +kernel
theorem test_signal_ready : (next (.signal 10) runs0).map (fun t => (t.recRead 0x40C0 0x20 4, t.events)) =
    some (0, [.recordEnqueue 0 0x40C0 0 32]) := by decide +kernel
theorem test_signal_zero : (next (.signal 10) (runs0.upd fun c => c.setX 10 0x4180)).map (fun t => (t.posts.map Report.kind, t.events)) = some ([0x13], []) := by
  decide +kernel
theorem test_arm : (next (.arm 10 11) runs0).map (fun t => t.recRead 0x40C0 0x20 4) = some 4 := by decide +kernel
theorem test_arm_ready : trapsWith (.arm 10 11) (runs0.upd fun c => c.setX 10 0x4180) = some (0x144, 0x4180) := by decide +kernel
theorem test_cancel_graph : (next (.cancelGraph 10) (runs0.upd fun c => c.setX 10 5)).map (fun t => ((t.slotAt 3).cancelled, t.events.length)) = some (true, 3) := by
  decide +kernel
theorem test_cancel_other_job : trapsWith (.cancelJob 10) (runs0.upd fun c => c.setX 10 8) = some (0x146, 8) := by decide +kernel

/-- A descriptor at 6000H. -/
def desc (code : Nat) (join : Word) : State := stored [(0x6000, 8, code)] (running fun c => (c.setX 10 0x6000).setX 11 join)
def readDesc (s : State) : Option (Nat × State) := match s.readDescriptor (.spawn 9 10 11) 0x6000 [0, 64, 128] with | .ok v t => some (v, t) | _ => none
/-- A state in which the descriptor's leaf is cached already. -/
def cached (code : Nat) (join : Word) : State := ((readDesc (desc code join)).map Prod.snd).getD (desc code join)
theorem met_TaskLife : (desc 0x3000 2).cx.hasTask = true ∧ (desc 0x3000 2).slotOf (desc 0x3000 2).cx.launchId = some 3 ∧ (0x6000 : Word).toNat % 64 = 0 ∧
    (readDesc (desc 0x3000 2)).map Prod.fst = some 0x3000 ∧ (cached 0x3000 2).badDescriptor 0x3000 3 false = false ∧
    (cached 0x3001 2).badDescriptor 0x3001 3 false = true ∧ (cached 0x3000 2).freeRecords 3 = [3, 4, 5, 6, 7] ∧
    ((cached 0x3000 2).takeRecord 3).map Prod.fst = some 0x4240 ∧ (cached 0x3000 2).cx.drained = true ∧
    (cached 0x3000 0).queueFull ((cached 0x3000 0).spawnCrew 0x3000) = false ∧ ((cached 0x3000 2).slotAt 3).cancelled = false ∧
    (0xFFFFFFFF : Word).toNat < 2 ^ 32 ∧ 2 ^ 32 ≤ (0x100000000 : Word).toNat := by decide +kernel
/-- No record is free. -/
def usedUp : State := { desc 0x3000 2 with slots := [(3, { launch1 with taken := [0, 1, 2, 3, 4, 5, 6, 7] })] }
theorem met_TaskLife_ends : usedUp.freeRecords 3 = [] ∧ runs0.cx.l0.lc = 0 ∧ runs0.cx.l1.lc = 0 ∧ (task looping).cx.l0.lc ≠ 0 ∧ runs0.cx.cancelled = false ∧
    splitsOn (runs0.crewAt 0).splitctl = false ∧ runs0.holdsTiles runs0.cur = false ∧ (runs0.upd Ctx.drainVec).enginesBusy = false ∧
    runs0.recordLaunch runs0.cx.record = runs0.cx.launchId ∧ (runs0.slotAt 3).recordIndex runs0.cx.record ≠ none ∧
    encode (.yield 2) ≠ none ∧ (0 : Nat) < 256 ^ 192 := by decide +kernel
def writingOut : State := runs0.updCrew 0 fun k => { k with writeOuts := [{ ctx := ctx0, record := 0x4000, pc := 0, pieces := [], flags := 0 }] }
theorem met_TaskLife_busy : (writingOut.upd Ctx.drainVec).enginesBusy = true := by decide +kernel
theorem test_spawn_waits_for_join : (next (.spawn 9 10 11) (desc 0x3000 2)).map (fun t => (t.X 9, t.events, t.recRead 0x4240 0x20 8)) =
    some (0x4240, [], 0x100000002) := by decide +kernel
theorem test_spawn_ready : (next (.spawn 9 10 11) (desc 0x3000 0)).map (fun t => t.events) = some [.recordEnqueue 0 0x4240 0 0] := by decide +kernel
theorem test_spawn_bad : trapsWith (.spawn 9 10 11) (desc 0x3001 0) = some (0x141, 0x6000) := by decide +kernel
theorem test_done : (next .done runs0).map (fun t => (t.cx.st, t.cx.record, (t.slotAt 3).retired, (t.slotAt 3).taken)) = some (.free, 0, 1, [1, 2]) := by
  decide +kernel
theorem test_done_waits : (next .done writingOut).map (fun t => (t.cx.st, t.pc)) = some (.stalled, 0x1000) := by decide +kernel
theorem test_yield_in_loop : trapsWith (.yield 2) (runs0.upd looping) = some (0x140, ((encode (.yield 2)).getD 0).setWidth 64) := by decide +kernel

/-! Records at crews. -/

/-- Context 1 of crew 0 is free, the ready record 2 is first in the crew's queue. -/
def queued (e : List Entry) : State := runs0.updCrew 0 fun k => { k with queue := { k.queue with entries := e } }
def ready2 : Entry := { record := 0x4180, ecycle := 4, prio := 1, src := 0 }
theorem met_RecordEvents : (runs0.crewAt 0).swapped = false ∧ runs0.recordFlags 0x40C0 / 32 % 2 = 0 ∧ runs0.badRecord 0x40C0 = false ∧
    runs0.queueFor 0x40C0 0 ≠ none ∧ runs0.recordFlags 0x40C0 / 8 % 2 = 0 ∧ (runs0.crewAt 0).queue.entries.length < 64 ∧
    (runs0.crewAt 0).queue.deep = false ∧ (queued [ready2]).freeCtx 0 = some 1 ∧
    (queued [ready2]).runs ((queued [ready2]).recordLaunch 0x4180) = true ∧ ((queued [ready2]).crewAt 0).queue.waiting = [] ∧
    (queued [ready2]).slotOf ((queued [ready2]).recordLaunch 0x4180) = some 3 ∧ (queued [ready2]).badRecord 0x4180 = false ∧
    (queued [ready2]).recordFlags 0x4180 % 4 = 0 ∧ (queued [ready2]).recordFlags 0x4180 / 8 % 2 = 0 ∧
    splitsOn ((queued [ready2]).crewAt 0).splitctl = false ∧ (queued [ready2]).recRead 0x4180 0x3C 2 / 512 % 2 = 0 := by decide +kernel
theorem met_RecordEvents_else : ((runs0.updCrew 0 fun k => { k with swapped := true }).crewAt 0).swapped = true ∧
    (stored [(0x40EE, 2, 32)] runs0).recordFlags 0x40C0 / 32 % 2 = 1 ∧ (stored [(0x40C0, 8, 2)] runs0).badRecord 0x40C0 = true ∧
    (runs0.updCrew 0 fun k => { k with cfault := true }).freeCtx 0 = none ∧ runs0.runner 0x4000 = some ctx0 ∧
    (runs0.updCtx ctx0 fun c => { c with st := .blocked }).runner 0x4000 = some ctx0 ∧ Wait.cancellable .answer = true ∧
    (runs0.ctxAt ctx0).wait ≠ some .pinFull ∧ (runs0.crewAt 0).freePinEntry = some 0 := by decide +kernel
theorem test_enqueue_order : (next (.recordEnqueue 0 0x40C0 2 7) (queued [ready2])).map (fun t => ((t.crewAt 0).queue.entries.map Entry.prio, t.events)) =
    some ([2, 1], [.contextTakesRecord 0]) := by decide +kernel
theorem test_take : (next (.contextTakesRecord 0) (queued [ready2])).map
    (fun t => let c := t.ctxAt { crew := 0, n := 1 }; (c.pc, c.getX 3, c.getX 4, c.getP 1, c.serial)) = some (0x3000, 0x4180, 0x55, true, 9) := by
  decide +kernel
theorem test_cancel_running : (next (.cancelDelivery 0x4000) runs0).map (fun t => (t.cx.cancelled, t.cx.st)) = some (true, .active) := by decide +kernel
theorem test_cancel_blocked : (next (.cancelDelivery 0x4000) (runs0.updCtx ctx0 fun c => { c with st := .blocked })).map (fun t => t.cx.st) = some .free := by
  decide +kernel

/-- Two entries that crew 1 may take: record 2, and record 1 as a range of 5. -/
def victim (range : Bool) : State :=
  let xs := if range then [(0x40EE, 2, 1), (0x40F0, 2, 4)] else []
  { stored xs (queued [ready2, { ready2 with record := 0x40C0 }]) with slots := [(3, { launch1 with crews := [0, 1] })] }
theorem met_Stealing : splitsOn ((victim true).crewAt 0).splitctl = false ∧ ((victim true).crewAt 0).swapped = false ∧
    ((victim true).crewAt 0).queue.entries.filter ((victim true).stealable 1) = [ready2, { ready2 with record := 0x40C0 }] ∧
    (victim true).recordFlags 0x40C0 % 2 = 1 ∧ 2 ≤ ((victim true).boxOf 0x40C0).count ∧ (victim true).recordFlags 0x4180 % 2 = 0 ∧
    (victim false).recordFlags 0x40C0 % 2 = 0 ∧ (victim true).slotOf ((victim true).recordLaunch 0x40C0) = some 3 ∧
    ((victim true).takeRecord 3).map Prod.fst = some 0x4240 ∧ ((victim true).crewAt 0).queue.waiting = [] ∧
    ((victim true).crewAt 0).queue.entries.filter ((victim true).stealable 2) = [] ∧
    { victim true with slots := [(3, { launch1 with crews := [0, 1], taken := [0, 1, 2, 3, 4, 5, 6, 7] })] }.takeRecord 3 = none ∧
    ((victim true).crewAt 1).queue.victims.length ≤ 1 := by decide +kernel
theorem met_Stealing_spill : ((runs0.updCrew 0 fun k => { k with swapped := true, spill := List.replicate 128 (.stealAsk 1) }).crewAt 0).spill.length = 128 ∧
    (∀ j, (Msg.enqueue 0x40C0 0 0) ≠ .stealAsk j) ∧ (1023 : Nat) < 1024 := by
  refine ⟨by decide +kernel, fun j h => (by cases h), by decide⟩
theorem test_steal_half : (next (.stealRequest 1 0) (victim true)).map
    (fun t => (t.events, (t.boxOf 0x40C0).x1, (t.boxOf 0x4240).x0, (t.boxOf 0x4240).x1)) = some ([.stealReply 1 0x4240 1], 2, 3, 4) := by decide +kernel
theorem test_steal_last : (next (.stealRequest 1 0) (victim false)).map (fun t => (t.events, (t.crewAt 0).queue.entries.map Entry.record)) =
    some ([.stealReply 1 0x40C0 1], [0x4180]) := by decide +kernel
theorem no_waits {s : State} (a : s.serving = []) (b : s.busyList = []) (c : s.retry = []) (d : s.replies = []) (i : CtxId) : s.AwaitsNothing i := by
  refine ⟨?_, ?_, ?_⟩ <;> simp [a, b, c, d]
theorem met_TaskLife_yields : runs0.AwaitsNothing runs0.cur ∧ runs0.RecordsAt [(runs0.cx.record, 0x4000)] ∧ runs0.writesOut runs0.cx.record = false ∧
    runs0.readPa 0x4020 4 = 0 ∧ (stored [(0x4020, 4, 2)] runs0).readPa 0x4020 4 ≠ 0 :=
  ⟨no_waits rfl rfl rfl rfl _, ident_runs.records _ (by decide +kernel : Memory.wf _ = true) runs_noUndo rfl (by decide +kernel) (List.pairwise_singleton _ _),
   by decide +kernel, by decide +kernel, by decide +kernel⟩
theorem test_yield_bytes : (next (.yield 11) (runs0.upd fun c => c.setX 4 0x77)).map (fun t =>
    (t.readPa 0x4000 8, t.readPa 0x4036 2, t.readPa 0x4040 8, t.readPa 0x402E 2, t.events.contains (.recordEnqueue 0 0x4000 0 0))) =
    some (0x1004, 3, 0x77, 0, true) := by decide +kernel
/-- The same launch with its graph's counter at 8000H and record 1 as the task's parent. -/
def counted : State := { stored [(0x4010, 8, 0x40C0)] runs0 with slots := [(3, { launch1 with image := launch1.image + 0x8000 * 256 ^ 0x68 })] }
theorem ident_counted : Ident counted := ⟨by decide +kernel, by decide +kernel, by decide +kernel, by decide +kernel⟩
theorem met_TaskLife_done : counted.RecordsAt [(counted.cx.record, 0x4000)] ∧ counted.AwaitsNothing counted.cur ∧
    counted.hwPlace (BitVec.ofNat 64 ((counted.slotAt 3).field 0x68 8)) = .device (128 * 0x100) ∧
    counted.Steady [0x4000] (BitVec.ofNat 64 ((counted.slotAt 3).field 0x68 8)) ∧
    (∀ o < 192, lineOf (0x4000 + o) ≠ 0x100 ∧ lineOf (0x4000 + o) ≠ lineOf (counted.windowBase + 0x1000 + 16 * 3)) ∧ counted.watches = [] ∧
    splitsJoins (counted.crewAt (loggingCrew (homeOf 0x100))).splitctl = false ∧ counted.readPa 0x4010 8 ≠ 0 ∧ counted.readPa 0x4018 8 = 0 := by
  refine ⟨ident_counted.records _ (by decide +kernel : Memory.wf _ = true) (noUndo rfl (by decide +kernel)) rfl (by decide +kernel) (List.pairwise_singleton _ _),
    no_waits rfl rfl rfl rfl _, ?_, ?_, by decide +kernel, rfl, by decide +kernel, by decide +kernel, by decide +kernel⟩
  · have e : (counted.slotAt 3).field 0x68 8 = 0x8000 := by decide +kernel
    rw [e, ident_counted.walk _ (by decide)]; decide
  · have e : (counted.slotAt 3).field 0x68 8 = 0x8000 := by decide +kernel
    rw [e]; exact ident_counted.steady _ (by decide) _ (by decide)
theorem test_done_marks : (next .done counted).map (fun t => (t.readPa 0x402E 2, t.events.contains (.joinCountDecrement 0x40C0 0 32))) = some (0x20, true) := by decide +kernel
/-- The descriptor lies in a system page, in a lattice page. -/
theorem met_TaskLife_page : okIs ((withPage (desc 0x3000 2) 0x6000 sysPage).leafAt 0 .load 0x6000) (sysPage, withPage (desc 0x3000 2) 0x6000 sysPage) = true ∧
    okIs ((withPage (desc 0x3000 2) 0x6000 latPage).leafAt 0 .load 0x6000) (latPage, withPage (desc 0x3000 2) 0x6000 latPage) = true := by decide +kernel
theorem test_spawn_system : trapsWith (.spawn 9 10 11) (withPage (desc 0x3000 2) 0x6000 sysPage) = some (0x141, 0x6000) := by decide +kernel

/-! Ranges, pinned continuations and halves. -/

theorem met_RecordEvents_resume : (queued [ready2]).RecordsAt [(0x4180, 0x4180)] ∧
    (stored [(0x41BC, 2, 0x205)] (queued [ready2])).recRead 0x4180 0x3C 2 / 512 % 2 = 1 ∧
    ((stored [(0x41AE, 2, 6)] (queued [ready2])).recordFlags 0x4180 / 2 % 2 = 1 ∧ (stored [(0x41AE, 2, 6)] (queued [ready2])).recordFlags 0x4180 / 4 % 2 = 1) :=
  ⟨(Ident.mk (by decide +kernel) (by decide +kernel) (by decide +kernel) (by decide +kernel) : Ident (queued [ready2])).records _
    (by decide +kernel : Memory.wf _ = true) (noUndo rfl (by decide +kernel)) rfl (by decide +kernel) (List.pairwise_singleton _ _), by decide +kernel,
   by decide +kernel, by decide +kernel⟩
theorem test_take_wake : (next (.contextTakesRecord 0) (stored [(0x41BC, 2, 0x2C5)] (queued [ready2]))).map (fun t => (t.ctxAt { crew := 0, n := 1 }).getX 5) =
    some 3 := by decide +kernel
/-- Record 2 as a range of two rows of three coordinates, and of one coordinate. -/
def ranged (box : Nat) : State := stored [(0x41AE, 2, 1), (0x41B0, 6, box)] (queued [ready2])
theorem met_RecordEvents_range : (ranged 0x10002).recordFlags 0x4180 % 8 = 1 ∧ (let b := (ranged 0x10002).boxOf 0x4180; b.x0 < b.x1 ∧ b.y0 < b.y1) ∧
    (let b := (ranged 0).boxOf 0x4180; b.x0 = b.x1) ∧ ((ranged 0x10002).freeRecords 3).length = 5 ∧ ((ranged 0x10002).crewAt 0).queue.deep = false ∧
    (ranged 0x10002).RecordsAt [(0x4180, 0x4180), (0x4240, 0x4240), (0x4300, 0x4300)] ∧ (ranged 0).RecordsAt [(0x4180, 0x4180), (0x4240, 0x4240)] ∧
    ((ranged 0x10002).slotAt 3).pool + 192 * ((ranged 0x10002).freeRecords 3).getD 0 0 = 0x4240 :=
  ⟨by decide +kernel, by decide +kernel, by decide +kernel, by decide +kernel, by decide +kernel,
   (Ident.mk (by decide +kernel) (by decide +kernel) (by decide +kernel) (by decide +kernel) : Ident (ranged 0x10002)).records _
    (by decide +kernel : Memory.wf _ = true) (noUndo rfl (by decide +kernel)) rfl (by decide +kernel) (by simp),
   (Ident.mk (by decide +kernel) (by decide +kernel) (by decide +kernel) (by decide +kernel) : Ident (ranged 0)).records _
    (by decide +kernel : Memory.wf _ = true) (noUndo rfl (by decide +kernel)) rfl (by decide +kernel) (by simp), by decide +kernel⟩
theorem test_take_range : (next (.contextTakesRecord 0) (ranged 0x10002)).map (fun t =>
    (((t.ctxAt { crew := 0, n := 1 }).record, (t.ctxAt { crew := 0, n := 1 }).coord), (t.crewAt 0).queue.entries.map Entry.record)) =
    some ((0x4300, 0), [0x4180, 0x4240]) := by decide +kernel
theorem test_take_last_coordinate : (next (.contextTakesRecord 0) (ranged 0)).map (fun t =>
    ((t.ctxAt { crew := 0, n := 1 }).record, (t.crewAt 0).queue.entries, (t.slotAt 3).taken)) = some (0x4240, [], [0, 1, 3]) := by decide +kernel
theorem met_Stealing_halves : (victim true).RecordsAt [(0x40C0, 0x40C0), (0x4240, 0x4240)] ∧
    (let b : Box := { x0 := 0, x1 := 4, y0 := 0, y1 := 0, z0 := 0, z1 := 1 }; b.z0 < b.z1) ∧
    (let b : Box := { x0 := 0, x1 := 4, y0 := 0, y1 := 2, z0 := 3, z1 := 3 }; b.z1 ≤ b.z0 ∧ b.y0 < b.y1) ∧ ((victim true).boxOf 0x40C0).y1 ≤ ((victim true).boxOf 0x40C0).y0 :=
  ⟨(Ident.mk (by decide +kernel) (by decide +kernel) (by decide +kernel) (by decide +kernel) : Ident (victim true)).records _
    (by decide +kernel : Memory.wf _ = true) (noUndo rfl (by decide +kernel)) rfl (by decide +kernel) (by simp), by decide, by decide, by decide +kernel⟩

/-! Interrupts, crews, counts and the host. -/

def pendingCtx (f : Ctx → Ctx) : State := (task f).updCrew 0 fun k => { k with thvec := 0x40000 }
theorem met_Interrupts : (let c := ((pendingCtx fun c => { c with pendDbg := true, pendPre := true }).ctxAt ctx0)
      c.stopped = false ∧ c.boot = false ∧ c.vpoison = none ∧ c.depth = 0 ∧ c.st = .active ∧ c.pendDbg = true) ∧
    ((pendingCtx id).crewAt 0).swapped = false ∧ ((pendingCtx id).crewAt 0).gated = false ∧
    (∀ j < 4, ((pendingCtx id).queueAt ctx0 j).halted = false) ∧ ((pendingCtx id).crewAt 0).nodes = [] ∧
    ((pendingCtx id).ctxAt ctx0).pending = false ∧ ((pendingCtx id).ctxAt { crew := 0, n := 9 }).st = .free ∧
    ((handler fun c => { c with pendPre := true }).ctxAt ctx0).depth ≠ 0 := by decide +kernel
def haltedQueue : CopyQueue := { CopyQueue.fresh with halted := true, reason := 3, va := 0x8000 }
theorem met_Interrupts_faults : ((pendingCtx fun c => { c with vpoison := some 0x9000 }).ctxAt ctx0).vpoison = some 0x9000 ∧
    ((pendingCtx fun c => { c with queues := c.queues.set 2 haltedQueue }).queueAt ctx0 2).halted = true ∧
    ((pendingCtx fun c => { c with queues := c.queues.set 2 haltedQueue }).queueAt ctx0 2).told = false ∧
    (∀ j < 2, ((pendingCtx fun c => { c with queues := c.queues.set 2 haltedQueue }).queueAt ctx0 j).halted = false) ∧
    ((pendingCtx fun c => { c with blockUntil := some 0 }).ctxAt ctx0).blockUntil = some 0 ∧ (pendingCtx id).clock = 0 ∧
    (∀ e, ((pendingCtx id).ctxAt ctx0).blockUntil ≠ some e) ∧ (∃ c, decode 0xFFFFFFFF = .error c) ∧
    (∃ x, decode 0x5C000003 = .ok x) ∧ (pendingCtx id).rollbackFor (pendingCtx id).cx.launchId = none := by
  refine ⟨by decide +kernel, by decide +kernel, by decide +kernel, by decide +kernel, by decide +kernel, by decide +kernel, ?_,
    ⟨0, eq_of_errIs (by decide +kernel)⟩, ⟨.halt, eq_of_okIs (by decide +kernel)⟩, by decide +kernel⟩
  · intro e h
    have : ((pendingCtx id).ctxAt ctx0).blockUntil = none := by decide +kernel
    rw [this] at h; cases h
theorem test_interrupt_order : (next (.interruptEntry ctx0) (pendingCtx fun c => { c with pendDbg := true, pendPre := true })).map
    (fun t => (t.cx.trap.tcause, t.cx.trap.tstatus, t.cx.pendPre)) = some (0x162, 9, true) := by decide +kernel
theorem test_async_poison : (next (.asyncFaultDelivery ctx0) (pendingCtx fun c => { c with vpoison := some 0x9000 })).map
    (fun t => (t.cx.trap.tcause, t.cx.trap.tval, t.cx.pc)) = some (0x97, 0x9000, 0x40000) := by decide +kernel
/-- The boot context with a queue that a privileged access halted; and a context that is swapped out, FREE, with a debug interrupt. -/
def bootHalted : State := pendingCtx fun c => { c with boot := true, queues := c.queues.set 1 { haltedQueue with reason := reasonPrivileged } }
def awayFree : State := (pendingCtx fun c => { c with st := .free, pendDbg := true }).updCrew 0 fun k => { k with swapped := true }
def leavingFault : State := (pendingCtx fun c => { c with vpoison := some 0x9000 }).updCrew 0 fun k => { k with leaving := true }
theorem met_Interrupts_boot : (bootHalted.ctxAt ctx0).boot = true ∧ (bootHalted.ctxAt ctx0).stopped = false ∧
    (bootHalted.ctxAt ctx0).halted = false ∧ (bootHalted.crewAt 0).away = false ∧ (bootHalted.ctxAt ctx0).st = .active ∧
    (bootHalted.ctxAt ctx0).wait = none ∧ (bootHalted.ctxAt ctx0).vpoison = none ∧ (bootHalted.queueAt ctx0 1).halted = true ∧
    (bootHalted.queueAt ctx0 1).told = false ∧ (bootHalted.queueAt ctx0 1).reason = reasonPrivileged ∧ bootHalted.pkg.fields.booted = false ∧
    (∀ j < 1, (bootHalted.queueAt ctx0 j).halted = false) := by decide +kernel
theorem met_Interrupts_away : (awayFree.crewAt 0).swapped = true ∧ (awayFree.ctxAt ctx0).st = .free ∧ (awayFree.ctxAt ctx0).pendDbg = true ∧
    (awayFree.ctxAt ctx0).vpoison = none ∧ (awayFree.ctxAt ctx0).depth = 0 ∧ (awayFree.crewAt 0).gated = false ∧
    (awayFree.crewAt 0).nodes = [] ∧ (leavingFault.crewAt 0).away = true := by decide +kernel
theorem met_Interrupts_awaits : (pendingCtx id).AwaitsNothing ctx0 :=
  ⟨(by decide +kernel : ∀ x ∈ (pendingCtx id).serving, x.2 ≠ ctx0), by decide +kernel, by decide +kernel⟩
theorem test_boot_queue : (next (.asyncFaultDelivery ctx0) bootHalted).map (fun t => ((t.ctxAt ctx0).trap.tcause, (t.ctxAt ctx0).stopped,
    t.pkg.fields.bootfail)) = some (6, true, true) := by decide +kernel
/-- Launch 1 of a phase that keeps an undo log at 6000H, not overflowed and not yet rolled back. -/
def undone : State := { running id with slots := [(3, { launch1 with image := launch1.image + 0x6000 * 256 ^ 0xA8 + 0x100000 * 256 ^ 0xB0 })] }
theorem met_Interrupts_rollback : undone.rollbackFor undone.cx.launchId = some 7 := by decide +kernel
theorem test_preempt : (next (.preemptWrite 0 1) (task id)).map (fun t => (t.cx.pendPre, t.events)) = some (true, [.interruptEntry ctx0]) := by
  decide +kernel
theorem test_no_crew : exec (.debugWrite 1024 1) (task id) = .fault .noSuchUnit := rfl

def errorOf (o : Host.Outcome State Fault Refusal) : Option Fault := match o with | .fault e => some e | _ => none
def line9 (st : CopyState) : State := (task id).putCopy 5 9 { st := st, vline := 0, dom := 0, l1 := [], data := 7, filled := false, top := false, last := none }
theorem met_CrewControl : (((task id).crewAt 1).engineWork = false ∧ ∀ p ∈ ((task id).crewAt 1).ctxs, p.2.st = .free) ∧
    ¬(∀ p ∈ ((task id).crewAt 0).ctxs, p.2.st = .free) ∧ ((task id).ctxAt ctx0).hasTask = true ∧ (task id).pkg.transl.busy = false ∧
    splitsFull? ((task id).crewAt 0).splitctl = false ∧ splitsFull? ((logging full (task id)).crewAt 0).splitctl = true ∧
    ((task id).crewAt 0).splitsHeld = [] ∧ (task id).heldJoins = [] ∧ ((task id).crewAt 0).queue.deep = false ∧
    ((task id).crewAt 0).queue.entries.length ≤ 64 ∧ (task id).rollbackFor ((task id).ctxAt ctx0).launchId = none ∧
    splitsOn ((task id).crewAt 0).splitctl = false ∧ undone.rollbackFor (undone.ctxAt ctx0).launchId = some 7 ∧
    ((line9 .e).copyAt? 5 9).map Copy.st = some .e ∧ ((line9 .m).copyAt? 5 9).map Copy.st = some .m := by decide +kernel
theorem met_CrewControl_splits : ∀ p ∈ ((logging full (task id)).crewAt 0).ctxs,
    ¬(p.2.pendSplits = true ∨ (p.2.depth ≠ 0 ∧ p.2.trap.tcause = 0x161)) := by decide +kernel
/-- A frozen crew whose group is at a load of a line that a shoot-down takes. -/
def frozenNode : Node := { aNode 0 0x80000001 with word := (encode (.tload 2 10)).getD 0, ins := [], st := .eval, xa := 0x10000, tsh := #v[0x3F3F0000000100, 0, 0, 0, 0, 0, 0, 0], range := some (0x10000, 0x20000) }
def shooting : State :=
  let s := (tiled id).updCrew 0 fun k => { k with frozen := true, nodes := [(0, frozenNode)] }
  { s with pkg := { s.pkg with transl := { s.pkg.transl with busy := true, range := (0x10000, 0x20000) } } }
theorem met_CrewControl_abort : shooting.pkg.transl.busy = true ∧ (shooting.crewAt 0).frozen = true ∧ (shooting.crewAt 0).cfault = false ∧
    (shooting.crewAt 0).writeOuts = [] ∧ frozenNode.hits (0x10000, 0x20000) = true := by decide +kernel
theorem test_abort : (next (.frozenAbortTimeout 0) shooting).map (fun t => (t.nodeAt? 0 0).map fun n => (n.st, n.cause)) = some (some (.faulted, 0xBB)) := by
  decide +kernel
theorem test_creset : (next (.creset 0) (task id)).map (fun t => (t.cx.record, t.posts.map fun r => (r.kind, r.code))) = some (0, [(0x11, 0x169)]) := by
  decide +kernel
theorem test_dirty_line : (next (.uncorrectableError .dirtyLine 5 9) (line9 .m)).map (fun t => (t.metaOf 9).poison) = some true := by decide +kernel
theorem test_splits_interrupt : (next (.splitsFull 0) (logging full (task id))).map (fun t => (t.cx.pendSplits, t.events)) =
    some (true, [.interruptEntry ctx0]) := by decide +kernel

def counting : State := task fun c => { c with
  cnt := { loads := 2, stores := 5, copies := 0, demands := 0 }, arrived := 3, vq := [{ flags := flagNX, isLoad := true }], hostWrites := 1, tag := 1
  tags := [(0, { sent := 4, arrived := 3 }), (1, { sent := 1, arrived := 0 })], wait := some .fence, st := .stalled }
/-- Two homes that have counted for it: the first's last write is 8 c old, the second's 7 c. -/
def batched : State := { counting with
  clock := 8
  arrivals := [{ home := 5, ctx := ctx0, tag := 0, count := 2, pending := 2, fails := { Failures.none with lost := 1 }, since := 0, spill := none },
    { home := 6, ctx := ctx0, tag := 0, count := 1, pending := 1, fails := .none, since := 1, spill := none }] }
/-- A store that was not counted and a read that was not answered within the store timeout, 1750 c. -/
def lateStore : Owed := { id := 4, ctx := ctx0, record := some 0x2000, maker := .store 1, parts := 1, host := 0, tagged := true, fails := .none, since := 0, home := 5 }
def lateHost : Owed := { lateStore with id := 5, maker := .store 2, parts := 0, host := 1, tagged := false }
def overdue : State := { counting with
  clock := 1750
  owed := [lateStore, lateHost]
  replies := [{ id := 9, reader := 0, line := 9, answer := .pending, since := 0 }]
  pkg := { counting.pkg with fields := { counting.pkg.fields with sto := 1 } } }
theorem met_CountEvents_late : overdue.creditor lateStore = some ctx0 ∧ overdue.creditor lateHost = some ctx0 ∧ overdue.busyList = [] ∧
    lateStore.since + 1750 * overdue.pkg.fields.sto ≤ overdue.clock ∧ overdue.rollbackFor overdue.cx.launchId = none ∧
    (counting.owed = [] ∧ lateHost.host = 1 ∧ lateHost.parts = 0 ∧ lateStore.host = 0) := by decide +kernel
theorem met_CountEvents : counting.cx.vq = [{ flags := flagNX, isLoad := true }] ∧ counting.cx.wait = some .fence ∧ (task id).cx.vq = [] ∧
    (task id).cx.wait ≠ some .fence ∧ (∀ p ∈ (task id).cx.tags, p.1 = (task id).cx.tag ∨ p.2.sent = p.2.arrived) ∧
    ¬(∀ p ∈ counting.cx.tags, p.1 = counting.cx.tag ∨ p.2.sent = p.2.arrived) ∧
    (mget { sent := 0, arrived := 0 } counting.cx.tags 0).arrived < (mget { sent := 0, arrived := 0 } counting.cx.tags 0).sent ∧
    counting.rollbackFor counting.cx.launchId = none ∧
    (mget { sent := 0, arrived := 0 } counting.cx.tags 3).sent ≤ (mget { sent := 0, arrived := 0 } counting.cx.tags 3).arrived := by decide +kernel
theorem test_vector_complete : (next (.vectorCommandComplete ctx0) counting).map (fun t => (t.cx.fp.fpflags, t.cx.cnt.loads)) =
    some (flagNX.setWidth 64, 1) := by decide +kernel
theorem test_store_late : (next (.storeTimeout ctx0 1) overdue).map (fun t => (t.owed.map Owed.id, t.cx.arrived, t.cx.arrFails.timedout)) =
    some ([5], 4, 1) := by decide +kernel
theorem test_read_late : (next (.storeTimeout ctx0 40) overdue).map (fun t => t.replies.map Reply.answer) = some [.failed 9] := by decide +kernel
theorem test_batch : (next (.arrivalBatch ctx0) batched).map (fun t => (t.cx.cnt.stores, t.cx.arrived, t.cx.fails.lost, t.arrivals.map Arrival.pending)) =
    some (3, 1, 1, [0, 1]) := by decide +kernel

/-- The host's link is up, HBASE is 2 TiB. -/
def hosted (m : LineMeta) : State :=
  let s := holding 0x20000 [1, 2, 3, 4] ((task id).setMeta 0x400 m)
  { s with pkg := { s.pkg with fields := { s.pkg.fields with cxlup := true, hbase := 2 ^ 41 } } }
theorem met_HostAccess : (hosted LineMeta.fresh).pkg.fields.cxlup = true ∧ (task id).pkg.fields.cxlup = false ∧
    (hosted LineMeta.fresh).hdm 0x20000 = some 0x20000 ∧ 0x20000 % 128 + 64 ≤ 128 ∧ (∀ k < 64, (hosted LineMeta.fresh).hostMayWrite (0x20000 + k) = true) ∧
    (0x20000 + 64 ≤ (hosted LineMeta.fresh).windowBase ∨ (hosted LineMeta.fresh).windowBase + 0x1180 ≤ 0x20000) ∧
    ((hosted maxu32).metaOf 0x400).type.toNat = latCode (latOfCode 0) ∧ inLine 0x20000 ((hosted maxu32).hostMask 0x20000 64 (2 ^ 64 - 1)) ≠ 0 ∧
    (hosted maxu32).watches = [] ∧ (hosted maxu32).pkg.fields.hbase ≤ 64 * 2 ^ 35 ∧ 64 * 2 ^ 35 < (hosted maxu32).pkg.fields.hbase + 2 ^ 41 ∧
    64 * (2 ^ 35 - 1) < (hosted maxu32).pkg.fields.hbase ∧ risingFrom 0 (hosted maxu32).copies = true ∧ 4 * dieBytes - 1 < 4 * dieBytes := by
  decide +kernel
theorem met_HostAccess_mem : (hosted LineMeta.fresh).MemWf ∧ (hosted maxu32).MemWf :=
  ⟨(by decide +kernel : Memory.wf _ = true), (by decide +kernel : Memory.wf _ = true)⟩
theorem test_host_write : (next (.hostWrite 0x20000 4 0xAABBCCDD 5) (hosted LineMeta.fresh)).map (fun t => t.readPa 0x20000 4) = some 0x04BB02DD := by
  decide +kernel
theorem test_host_join : (next (.hostJoin 0x20000 4 0xAABBCCDD 15) (hosted maxu32)).map (fun t => t.readPa 0x20000 4) = some 0xAABBCCDD := by
  decide +kernel
/-- The line of host byte 2 TiB, dirty in agent 5's slice; and an address in the stakeboat's doorbell page. -/
def hostLine : Nat := 0x7FFF * 2 ^ 41 / 128
def snooped : State :=
  let s := hosted LineMeta.fresh
  (s.setMeta hostLine { LineMeta.fresh with hstate := hsM, holder := 5 }).putCopy 5 hostLine
    { st := .m, vline := 0, dom := 0, l1 := [], data := 7, filled := false, top := false, last := none }
def doorbell : Nat := (hosted LineMeta.fresh).windowBase + 65536
theorem met_HostAccess_snoop : (snooped.metaOf hostLine).hstate = hsM ∧ (snooped.metaOf hostLine).holder.toNat = 5 ∧
    (snooped.copyAt? 5 hostLine).map Copy.data = some 7 ∧ risingFrom 0 snooped.copies = true ∧ snooped.pkg.fields.hbase ≤ 64 * 2 ^ 35 ∧
    (0x7FFF * 2 ^ 41 + (64 * 2 ^ 35 - snooped.pkg.fields.hbase)) / 128 = hostLine := by decide +kernel
theorem met_HostAccess_lattice : (hosted LineMeta.fresh).latticePage doorbell = true ∧
    ((hosted LineMeta.fresh).metaOf (lineOf doorbell)).type = 0xF ∧ doorbell % 128 + 64 ≤ 128 ∧
    (hosted LineMeta.fresh).windowBase + 0x1180 ≤ doorbell ∧ Nat.testBit 5 1 = false ∧ Nat.testBit 5 2 = true := by decide +kernel
theorem met_HostAccess_quiet : (hosted maxu32).lineBusy 0x400 = false ∧
    splitsJoins ((hosted maxu32).crewAt (loggingCrew (homeOf 0x400))).splitctl = false ∧ (hosted LineMeta.fresh).latticePage 0x20000 = false := by decide +kernel
theorem test_snoop : (next (.hostSnoop (2 ^ 35)) snooped).map (fun t => (t.memLine hostLine, t.copiesOf hostLine)) = some (7, []) := by
  decide +kernel

/-! Homes, launches, recovery. -/

/-- A line of 7s at 20000H with a given state, and a slice's copy of it. -/
def copyOf (st : CopyState) : Copy := { st := st, vline := 0x200, dom := 0, l1 := [], data := 9, filled := false, top := false, last := none }
def homed (m : LineMeta) (c : List (Nat × Copy)) : State :=
  c.foldl (fun s p => s.putCopy p.1 0x400 p.2) (holding 0x20000 [7] ((task id).setMeta 0x400 m))
def owned5 : LineMeta := { LineMeta.fresh with hstate := hsM, holder := 5 }
theorem met_HomeRequests : isAgent 5 = true ∧ isAgent 127 = true ∧ isAgent 128 = false ∧ (0x400 < 2 ^ 49) ∧
    ((homed LineMeta.fresh []).metaOf 0x400).poison = false ∧ ((homed LineMeta.fresh []).metaOf 0x400).type = 0xF ∧
    ((homed LineMeta.fresh []).metaOf 0x400).frozen = false ∧ ((homed LineMeta.fresh []).metaOf 0x400).hstate.toNat ≤ 4 ∧
    (homed LineMeta.fresh []).undoRunning = false ∧ (homed LineMeta.fresh []).undoRegion = none ∧
    (homed owned5 [(5, copyOf .m)]).copyAt? 5 0x400 = some (copyOf .m) ∧ (homed owned5 [(5, copyOf .m)]).copyAt? 6 0x400 = none ∧
    ((homed owned5 [(5, copyOf .m)]).metaOf 0x400).holder = BitVec.ofNat 15 5 ∧ (homed LineMeta.fresh [(5, copyOf .s)]).copyAt? 5 0x400 = some (copyOf .s) ∧
    lineOf 0x2007F = 0x400 ∧ (31 : Nat) < 32 ∧ (homed { LineMeta.fresh with poison := true } []).metaOf 0x400 ≠ LineMeta.fresh ∧
    ((2 : BitVec 3).toNat ≤ 2) := by decide +kernel
theorem met_HomeRequests_mem : (homed owned5 [(5, copyOf .m)]).MemWf ∧ (homed LineMeta.fresh []).Simple 0x20000 8 :=
  ⟨(by decide +kernel : Memory.wf _ = true), (by decide +kernel : Memory.wf _ = true), by decide, by decide +kernel, fun _ => rfl⟩
theorem met_HomeRequests_walk : (identity [] (task id)).walk 0x4000 needNone =
      .ok { pa := 0, span := 2 ^ 42, kind := 0, rd := true, wr := true, ex := false, hb := false, log := false, sbank := false } ∧
    mget? (identity [] (task id)).leaves (leafKey 5 0x4000) = none ∧ errIs ((task id).walk 0x4000 needNone) 1 = true :=
  ⟨eq_of_okIs (by decide +kernel), by decide +kernel, by decide +kernel⟩
theorem test_read_after_owner : (next (.homeRead 6 0x400) (homed owned5 [(5, copyOf .m)])).map
    (fun t => ((t.metaOf 0x400).hstate, (t.copyAt? 5 0x400).map Copy.st, (t.copyAt? 6 0x400).map fun c => (c.st, c.data))) =
      some (hsO, some .o, some (.s, 9)) := by decide +kernel
theorem test_own : (next (.homeWriteOwn 6 0x400) (homed owned5 [(5, copyOf .m)])).map (fun t => (t.copyAt? 5 0x400, (t.copyAt? 6 0x400).map fun c => (c.st, c.data))) =
    some (none, some (.m, 9)) := by decide +kernel
theorem test_uncached : (next (.homeUncachedWrite 0x20001 2 0xBBAA 0xFF00) (homed LineMeta.fresh [])).map (fun t => (t.readPa 0x20000 4, t.events)) =
    some (0xBB0007, []) := by decide +kernel
theorem test_atomic_add : (next (.systemAtomicAtHome 0x20000 2 false 0 0xFFFFFFFF) (homed LineMeta.fresh [])).map (fun t => t.readPa 0x20000 8) = some 6 := by
  decide +kernel

def joinMsg (ty : LatType) (d : BitVec 1024) : JoinMsg := {
  ltype := ty, width := 2, data := d, elem := 0, countOnly := false, src := .slice, launch := 1, serial := 2, pc := 0x1000, va := 0x10000 }
def watcher (trig : Word) (w : Waiter) : Watch := { line := 0x400, elem := 0, ltype := .maxu, width := 2, trigs := [trig], waiter := w, hostWait := false }
theorem met_LatticeHomes : ((homed maxu32 []).metaOf 0x400).type.toNat = latCode (joinMsg .maxu 5).ltype ∧
    ((homed maxu32 []).metaOf 0x400).width.toNat = (joinMsg .maxu 5).width ∧ ((homed maxu32 []).metaOf 0x400).type.toNat ≠ latCode (joinMsg .or 5).ltype ∧
    (homed maxu32 []).watches = [] ∧ splitsJoins ((homed maxu32 []).crewAt (loggingCrew (homeOf 0x400))).splitctl = false ∧
    (homed maxu32 []).undoRegion = none ∧ (homed maxu32 []).undoRunning = false ∧ ((homed maxu32 []).metaOf 0x400).hstate = hsI ∧
    (homed maxu32 []).copyAt? 5 0x400 = none ∧ (homed maxu32 [(5, { copyOf .d with last := some (joinMsg .maxu 9) })]).copyAt? 5 0x400 =
      some { copyOf .d with last := some (joinMsg .maxu 9) } ∧ (homed maxu32 []).copies = [] ∧
    answer .maxu 2 0 [8] ((homed maxu32 []).latLine 0x400) false = none ∧
    answer .maxu 2 0 [7] ((homed maxu32 []).latLine 0x400) false = some 0 := by decide +kernel
theorem met_LatticeHomes_mem : (homed maxu32 []).MemWf ∧ (homed maxu32 [(5, { copyOf .d with last := some (joinMsg .maxu 9) })]).MemWf ∧
    (homed maxu32 []).NoUndo ∧ (homed maxu32 [(5, { copyOf .d with last := some (joinMsg .maxu 9) })]).NoUndo :=
  ⟨(by decide +kernel : Memory.wf _ = true), (by decide +kernel : Memory.wf _ = true), fun _ => rfl, fun _ => rfl⟩
theorem test_join_home : (next (.joinAtHome 0x400 (joinMsg .maxu 0x500000006)) (homed maxu32 [])).map (fun t => t.memLine 0x400) = some 0x500000007 := by
  decide +kernel
theorem test_join_home_frozen : (next (.joinAtHome 0x400 (joinMsg .maxu 8)) (homed { maxu32 with frozen := true } [])).map
    (fun t => (t.memLine 0x400, t.posts.map fun r => (r.kind, r.addr, r.aux))) = some (7, [(3, 0x20000, 0x10000)]) := by decide +kernel
theorem test_drain : (next (.deltaDrain 5 0x400) (homed maxu32 [(5, { copyOf .d with last := some (joinMsg .maxu 9) })])).map (fun t => t.memLine 0x400) = some 9 := by
  decide +kernel
theorem test_watch_fires : (next (.watchRegistration (watcher 7 (.context ctx0))) (homed maxu32 [])).map (fun t => (t.cx.answer, t.watches)) = some (some 0, []) := by
  decide +kernel
/-- Agent 5 has asked for the line and has yet to take reply 3; one probe waits for it. -/
def awaiting (ps : List ProbeKind) : Copy := { copyOf .m with landed := false, tag := 3, probes := ps }
def unlanded (ps : List ProbeKind) : State := homed owned5 [(5, awaiting ps)]
theorem met_HomeRequests_reply : (unlanded [.share]).copyAt? 5 0x400 = some (awaiting [.share]) ∧ (unlanded []).copyAt? 5 0x400 = some (awaiting []) ∧
    (awaiting [.share]).landed = false ∧ (awaiting [.share]).tag = 3 ∧ (awaiting [.share]).tag ≠ 4 ∧ (copyOf .m).landed = true ∧
    (unlanded []).lineBusy 0x400 = false := by decide +kernel
theorem test_probe_held : (next (.probe 5 0x400 3 .invalidate) (unlanded [.share])).map (fun t => (t.copyAt? 5 0x400).map Copy.probes) =
    some (some [.share, .invalidate]) := by decide +kernel
theorem test_reply_serves : (next (.fillReply 5 0x400 3) (unlanded [.share])).map (fun t => (t.copyAt? 5 0x400).map fun c => (c.st, c.landed)) =
    some (some (.o, true)) := by decide +kernel

/-- The crew whose buffer takes the joins of line 400H records them, and the line's page asks for it; the join is the host's. -/
def joinLog (c : Word) : State := withPage ((homed maxu32 []).updCrew (loggingCrew (homeOf 0x400)) fun k => { k with splitctl := c }) 0x10000
  { page with log := true, pa := 0x20000 }
def hostJoin' (ty : LatType) : JoinMsg := { joinMsg ty 5 with src := .host }
theorem met_LatticeHomes_logged : splitsJoins ((joinLog 9).crewAt (loggingCrew (homeOf 0x400))).splitctl = true ∧ (joinLog 9).logsJoins 0x400 (hostJoin' .or) = true ∧
    splitsFull? ((joinLog 9).crewAt (loggingCrew (homeOf 0x400))).splitctl = false ∧ splitsJoins ((joinLog 0x100000009).crewAt (loggingCrew (homeOf 0x400))).splitctl = true ∧
    splitsFull? ((joinLog 0x100000009).crewAt (loggingCrew (homeOf 0x400))).splitctl = true ∧ ((joinLog 9).metaOf 0x400).type.toNat ≠ latCode (hostJoin' .or).ltype ∧
    (hostJoin' .or).countOnly = false ∧ (joinLog 9).lineBusy 0x400 = false := by decide +kernel
theorem test_refused_join_logged : (next (.joinAtHome 0x400 (hostJoin' .or)) (joinLog 9)).map (fun t =>
    splitsHead (t.crewAt (loggingCrew (homeOf 0x400))).splitctl) = some 1 := by decide +kernel
/-- A slice that holds 16,384 watches of line 0, whose home is slice 0; the next, of line 1, goes to the region at 40000H. -/
def crowd : State := { homed maxu32 [] with
  watches := List.replicate 16384 { watcher 8 (.context ctx0) with line := 0 }
  pkg := { (homed maxu32 []).pkg with boot := { (homed maxu32 []).pkg.boot with overflow := [(0, (0x40000, 0))] } } }
def over1 : Watch := { watcher 8 (.context ctx0) with line := 1 }
theorem met_LatticeHomes_spill : crowd.lineBusy 1 = false ∧ (∀ q ∈ crowd.copies, q.2.st ≠ .d) ∧
    answer over1.ltype over1.width over1.elem over1.trigs (crowd.latLine 1) (crowd.metaOf 1).frozen = none ∧
    (∀ v ∈ crowd.watches, v.line ≠ over1.line) ∧ 16384 ≤ (crowd.watches.countP fun v => homeOf v.line = homeOf over1.line ∧ v.spill = none) ∧
    ¬(∃ v ∈ crowd.watches, homeOf v.line = homeOf over1.line ∧ v.spill = some 0) ∧
    (mget (0, 0) crowd.pkg.boot.overflow (homeOf over1.line)).1 + Config.overflowLen * 0 = 0x40000 ∧ crowd.bytesAt 0x40000 = some 0x40000 ∧
    128 * over1.line + 128 ≤ 0x40000 := by
  have m : ∀ v ∈ crowd.watches, v = { watcher 8 (.context ctx0) with line := 0 } := fun v hv => List.eq_of_mem_replicate hv
  refine ⟨by decide +kernel, by decide +kernel, by decide +kernel, fun v hv => by rw [m v hv]; decide, ?_, ?_, by rw [Nat.mul_zero]; decide +kernel,
    by decide +kernel, by decide⟩
  · exact Nat.le_of_eq (by rw [show crowd.watches = List.replicate 16384 { watcher 8 (.context ctx0) with line := 0 } from rfl, List.countP_replicate,
      if_pos (by decide +kernel)])
  · rintro ⟨v, hv, -, h⟩
    rw [m v hv] at h
    cases h
theorem met_LatticeHomes_few : ((homed maxu32 []).watches.countP fun v => homeOf v.line = homeOf over1.line ∧ v.spill = none) < 16384 := by decide +kernel

/-! Launches. -/

def held1 : Slot := { launch1 with state := 1, taken := [], dep0 := true, dep1 := true, crews := [0, 1] }
def phase (x : Nat × Nat) (len : Nat) (d : Bool) : Phase :=
  { ngraph := 1, undo := 0x6000, undolen := len, launches := [x], cancelled := false, done := d }
def withSlot (x : Slot) (s : State) : State := { s with slots := [(3, x)], pkg := { s.pkg with jobs := [(7, {
  phase := 2, nphase := 3, phases := [(2, phase (3, x.image) 0 false)], graphs := [], gcancels := [], cancelled := false, resets := [] })], fields := { s.pkg.fields with cxlup := true, booted := true } } }
def launching (x : Slot) : State := withSlot x (identity [] (task id))
theorem met_LaunchEvents : (launching held1).pkg.fields.cxlup = true ∧ ((launching held1).slotAt 3).live? = true ∧ ((launching Slot.fresh).slotAt 3).live? = false ∧
    ((launching held1).slotAt 3).state = 1 ∧ ((launching held1).slotAt 3).reason ≠ 10 ∧
    ((launching held1).jobAt ((launching held1).slotAt 3).job).phase = ((launching held1).slotAt 3).phase ∧
    ((launching held1).slotAt 3).parts.length ≤ ((launching held1).freeRecords 3).length ∧ (launching held1).pkg.fields.booted = true ∧ ((launching held1).crewAt 0).swapped = false ∧
    ((launching held1).crewAt 1).swapped = false ∧ (launching held1).slotOf 1 = some 3 ∧ risingFrom 0 (launching held1).slots = true ∧
    (∀ o ∈ [0x70, 0x78, 0x80], (launching { launch1 with taken := [] }).counterBusy (((launching { launch1 with taken := [] }).slotAt 3).field o 8) = false) ∧
    ((launching launch1).slotAt 3).deadline ≤ (launching launch1).clock ∧ ((launching launch1).slotAt 3).job ∉ (launching launch1).pkg.recovery.out ∧
    ((launching launch1).jobAt 7).phases.length = 1 ∧ (launching held1).nextPhase 8 = none := by decide +kernel
/-- Nothing of the launch is left on a context. -/
def dead : State := (launching launch1).updCrew 0 fun k => { k with ctxs := [] }
theorem met_LaunchEvents_dead : dead.isDead (dead.slotAt 3) = true ∧ (launching launch1).isDead ((launching launch1).slotAt 3) = false := by decide +kernel
theorem met_LaunchEvents_mem : (launching launch1).MemWf ∧ ((launching launch1).metaOf (lineOf ((launching launch1).windowBase + 0x1100 + 24))).poison = false :=
  ⟨(by decide +kernel : Memory.wf _ = true), by decide +kernel⟩
theorem met_LaunchEvents_phase : (let s := { launching held1 with pkg := { (launching held1).pkg with jobs := [(7, {
      phase := 1, nphase := 2, phases := [(1, phase (3, 0) 0 true)], graphs := [], gcancels := [], cancelled := false, resets := [] })] } }
    ((s.jobAt 7).phaseAt 1).done = true ∧ s.nextPhase 7 = some 2) := by decide +kernel
theorem test_release : (next (.launchRelease 3) (launching held1)).map (fun t => ((t.slotAt 3).state, t.timers)) =
    some (2, [(2 ^ 30, .umpireWindowExpiry 3)]) := by decide +kernel
theorem test_pool_too_small : (next (.launchRelease 3) (launching { held1 with image := held1.image - 8 * 256 ^ 0x58 })).map
    (fun t => ((t.slotAt 3).state, (t.slotAt 3).reason)) = some (4, 3) := by decide +kernel
theorem test_complete : (next (.launchComplete 3) (launching { launch1 with taken := [] })).map (fun t => ((t.slotAt 3).state, mget 0 t.pkg.msi 3)) = some (3, 1) := by
  decide +kernel
theorem test_umpire : (next (.umpireWindowExpiry 3) dead).map (fun t => ((t.slotAt 3).state, t.posts.map Report.kind)) = some (5, [0x15]) := by decide +kernel
theorem test_live_reason : (next (.seqChunkWrite 3 (4 <<< 504)) (launching held1)).map (fun t => ((t.slotAt 3).seq, (t.slotAt 3).reason)) = some (4, 9) := by
  decide +kernel

/-- A record that passes every check but for those that `f` spoils, in slot 3's place: code, bitmap and its crew in ordinary pages, a
pool and a ring in system pages from 2^43, counters of one lattice line from 2^42. Crew 0 is logical 0. -/
def goodRecord : Nat := 1 * 256 ^ 0x10 + 0x3000 * 256 ^ 0x40 + 2 ^ 43 * 256 ^ 0x50 + 8 * 256 ^ 0x58 + 16 * 256 ^ 0x5C + (2 ^ 43 + 0x8000) * 256 ^ 0x60 +
  (2 ^ 42 + 0x20000) * (256 ^ 0x68 + 256 ^ 0x70 + 256 ^ 0x78 + 256 ^ 0x80) + 256 ^ 0x88 + 256 ^ 0x8C + 256 ^ 0x8E
def offered (v : Nat) : State :=
  let s := (stored [(0x100000, 1, 0x63), (0x100008, 1, 0x6B), (0x100010, 1, 0x67), (0x3000, 1, 1), ((task id).windowBase + 0x300, 192, v % 256 ^ 192)]
    (task id)).updCrew 0 fun k => { k with logical := some 0 }
  let t := s.setMeta 0x400 { LineMeta.fresh with type := 4, width := 2 }
  { t with pkg := { t.pkg with root := 0x100000, fields := { t.pkg.fields with cxlup := true, booted := true }, boot := { t.pkg.boot with nlog := 1 } } }
theorem test_accepted : (offered goodRecord).launchReasons goodRecord = [] := by decide +kernel
theorem test_refused : ((offered goodRecord).launchReasons (goodRecord + 2)).min? = some 1 ∧
    ((offered goodRecord).launchReasons (goodRecord + 4 * 256 ^ 0x1C)).min? = some 3 := by decide +kernel
theorem met_LaunchEvents_record : ((offered goodRecord).slotAt 3).live? = false ∧ (4 <<< 504 : BitVec 512).toNat / 256 ^ 63 ≠ ((offered goodRecord).slotAt 3).seq ∧
    (offered goodRecord).readPa ((offered goodRecord).windowBase + 0x300) 192 = goodRecord % 256 ^ 192 ∧
    ((offered goodRecord).metaOf (lineOf ((offered goodRecord).windowBase + 0x300 + 0xC0))).poison = false ∧
    ((launching { held1 with cancelled := true }).slotAt 3).cancelled = true := by decide +kernel
theorem met_LaunchEvents_record_mem : (offered goodRecord).MemWf := (by decide +kernel : Memory.wf _ = true)

/-- A job whose last phase is done and has two lines at 20000H to reset. -/
def resetting : State :=
  let s := identity [(0x20000, 4, 5), (0x20080, 4, 6)] (((task id).setMeta 0x400 maxu32).setMeta 0x401 maxu32)
  { s with pkg := { s.pkg with jobs := [(7, {
      phase := 2, nphase := 3, phases := [(2, phase (3, 0) 0 true)], graphs := [], gcancels := [], cancelled := false, resets := [(0x20000, 2)] })] } }
theorem ident_resetting : Ident resetting := ⟨by decide +kernel, by decide +kernel, by decide +kernel, by decide +kernel⟩
theorem Ident.pa {s : State} (h : Ident s) (va : Word) (d : va.toNat < 2 ^ 22) : s.hwPa va = some va.toNat := by
  have w := h.walk va d
  unfold State.hwPlace at w
  unfold State.hwPa
  cases e : s.walk va needNone with
  | error r => rw [e] at w; cases w
  | ok l => rw [e] at w; simp only [State.bytesAt, w]
theorem Ident.keeps {s u : State} (h : Ident s) (p : u.pkg = s.pkg) (b : ∀ k < 8, u.byteAt (0x100000 + k) = s.byteAt (0x100000 + k))
    (m : ∀ l, (u.metaOf l).poison = (s.metaOf l).poison) : Ident u := by
  refine ⟨by rw [← h.root]; simp only [State.rootTable, p], by rw [p, h.id], by rw [m, h.clean], ?_⟩
  rw [← h.entry]
  simp only [State.readPa]
  rw [show (0x100000 : Nat) = 0x100000 + 0 from rfl, b 0 (by omega)]
  simp only [Nat.reduceAdd]
  rw [b 1 (by omega), b 2 (by omega), b 3 (by omega), b 4 (by omega), b 5 (by omega), b 6 (by omega), b 7 (by omega)]
/-- The lines of the arena. -/
def arenaLine (s : State) (l : Nat) : Prop :=
  ∃ a ∈ (s.jobAt 7).resets, ∃ n < a.2, (s.hwPa (BitVec.ofNat 64 (a.1 + 128 * n))).map lineOf = some l
theorem resetting_arena (l : Nat) (h : arenaLine resetting l) : l = 0x400 ∨ l = 0x401 := by
  obtain ⟨a, ha, n, hn, e⟩ := h
  have r : (resetting.jobAt 7).resets = [(0x20000, 2)] := by decide +kernel
  rw [r, List.mem_singleton] at ha
  subst ha
  have hn' : n = 0 ∨ n = 1 := by simp only at hn; omega
  rcases hn' with rfl | rfl
  · rw [ident_resetting.pa _ (by decide)] at e; left; simpa [lineOf] using e.symm
  · rw [ident_resetting.pa _ (by decide)] at e; right; simpa [lineOf] using e.symm
theorem met_LaunchEvents_reset : ((resetting.jobAt 7).phaseAt (resetting.jobAt 7).phase).done = true ∧ resetting.nextPhase 7 = none ∧
    resetting.MemWf ∧ arenaLine resetting 0x400 ∧ arenaLine resetting 0x401 ∧ (resetting.metaOf 0x400).type ≠ 0xF ∧ (resetting.jobAt 7).resets.Nodup ∧
    (∀ a ∈ (resetting.jobAt 7).resets, ∀ n < a.2, ∀ u : State, u.pkg = resetting.pkg → u.flying = resetting.flying →
      (∀ pa < 2 ^ 56, ¬arenaLine resetting (lineOf pa) → u.byteAt pa = resetting.byteAt pa) →
      (∀ l, (u.metaOf l).poison = (resetting.metaOf l).poison) →
      u.hwPa (BitVec.ofNat 64 (a.1 + 128 * n)) = resetting.hwPa (BitVec.ofNat 64 (a.1 + 128 * n))) ∧
    (∀ l, arenaLine resetting l → resetting.joinsToward l = [] ∧ ∀ w ∈ resetting.watches, w.line ≠ l) := by
  have r : (resetting.jobAt 7).resets = [(0x20000, 2)] := by decide +kernel
  refine ⟨by decide +kernel, by decide +kernel, (by decide +kernel : Memory.wf _ = true), ?_, ?_, by decide +kernel, by rw [r]; decide, ?_, ?_⟩
  · exact ⟨(0x20000, 2), by rw [r]; decide, 0, by decide, by rw [ident_resetting.pa _ (by decide)]; rfl⟩
  · exact ⟨(0x20000, 2), by rw [r]; decide, 1, by decide, by rw [ident_resetting.pa _ (by decide)]; rfl⟩
  · intro a ha n hn u p _ b m
    have off : ∀ k < 8, u.byteAt (0x100000 + k) = resetting.byteAt (0x100000 + k) := fun k hk => by
      refine b _ (by omega) fun h => ?_
      have := resetting_arena _ h
      simp only [lineOf] at this
      omega
    rw [r, List.mem_singleton] at ha
    subst ha
    simp only at hn
    have d : (BitVec.ofNat 64 (0x20000 + 128 * n)).toNat < 2 ^ 22 := by rw [BitVec.toNat_ofNat]; omega
    rw [(ident_resetting.keeps p off m).pa _ d, ident_resetting.pa _ d]
  · intro l h
    rcases resetting_arena l h with rfl | rfl <;> exact ⟨by decide +kernel, fun w hw => by cases hw⟩
theorem test_reset_arena : (next (.phaseBoundary 7) resetting).map (fun t => (t.memLine 0x400, t.memLine 0x401, (t.metaOf 0x401).gen, (t.jobAt 7).resets)) =
    some (0, 0, (resetting.metaOf 0x401).gen + 1, []) := by decide +kernel

/-! Recovery. -/

def recovering (busy : Bool) (out : List Nat) : State :=
  let s := launching launch1
  { s with pkg := { s.pkg with recovery := { s.pkg.recovery with job := 7, busy := busy, active := 7, out := out } } }
theorem met_Recovery : (recovering false []).pkg.recovery.busy = false ∧ (∃ q ∈ (recovering false []).slots, q.2.running = true ∧ q.2.job = 7) ∧
    7 ∉ (recovering false []).pkg.recovery.out ∧ (recovering false []).crewsWhere (fun x => x.job != 7) = [] ∧
    (recovering true []).partition 7 = [0] ∧ (recovering true []).swapWaits 0 = false ∧ 7 ∈ (recovering false [7]).pkg.recovery.out ∧
    ((recovering true []).updCrew 0 fun k => { k with writeOuts := [{ ctx := ctx0, record := 0, pc := 0, pieces := [], flags := 0 }] }).swapWaits 0 = true ∧
    mget? (recovering false []).pkg.jobs 8 = none := by decide +kernel
/-- The job's phase keeps an undo log. -/
def rolling : State :=
  let s := launching { launch1 with image := launch1.image + 0x6000 * 256 ^ 0xA8 + 0x100000 * 256 ^ 0xB0 }
  { s with pkg := { s.pkg with jobs := [(7, {
      phase := 2, nphase := 3, phases := [(2, phase (3, (s.slotAt 3).image) 0x100000 false)], graphs := [], gcancels := [], cancelled := false, resets := [] })] } }
theorem met_Recovery_rolls : ((rolling.jobAt 7).phaseAt (rolling.jobAt 7).phase).undolen ≠ 0 ∧ ((rolling.jobAt 7).phaseAt 2).done = false ∧
    mget? rolling.pkg.jobs 7 ≠ none ∧ (rolling.ctxAt ctx0).hasTask = true ∧
    (∃ q ∈ rolling.slots, q.2.live? = true ∧ q.2.job = 7 ∧ q.2.launch = (rolling.ctxAt ctx0).launch.toNat) ∧
    (3, (rolling.slotAt 3).image) ∈ ((rolling.jobAt 7).phaseAt 2).launches ∧ (rolling.slotAt 3).state = 2 := by decide +kernel
theorem test_swap_out : ((task id).swapContext ctx0).cx.stopped = true := by decide +kernel
theorem test_swap_complete : (next .swapOutComplete (recovering true [])).map (fun t => (t.pkg.recovery.busy, t.pkg.recovery.out, mget 0 t.pkg.msi 16)) =
    some (false, [7], 1) := by decide +kernel
theorem test_swap_in_error : (next .swapIn (recovering false [])).map (fun t => t.pkg.recovery.err) = some true := by decide +kernel
theorem test_rollback : (next (.rollbackRestart 7) rolling).map (fun t => (t.pkg.recovery.rollbacks, t.cx.hasTask, (t.slotAt 3).state)) = some (1, false, 2) := by
  decide +kernel
/-- The same job with an undo log of one entry, of line 400H with content 9. -/
def logged : State :=
  { stored [(0xE000, 8, 1), (0xE040, 8, 0x20000), (0xE060, 8, 9)] rolling with pkg := rolling.pkg }
theorem ident_logged : Ident logged := ⟨by decide +kernel, by decide +kernel, by decide +kernel, by decide +kernel⟩
theorem met_Recovery_log : logged.MemWf ∧ logged.heldJoins = [] ∧ ((logged.jobAt 7).phaseAt (logged.jobAt 7).phase).undo = 0x6000 ∧
    ((logged.jobAt 7).phaseAt (logged.jobAt 7).phase).undolen / 64 = 0x4000 ∧ logged.hwPa (BitVec.ofNat 64 (0x6000 + 0x4000 + 0x4000)) = some 0xE000 ∧
    min (logged.readPa 0xE000 8) (undoCap 0x100000) = 1 ∧
    (∀ o < 5, ∃ q, logged.hwPa (BitVec.ofNat 64 (0x6000 + 0x4000 + (0x4040 + 160 * 0 + 32 * o))) = some q ∧ q % 32 = 0 ∧ lineOf q ≠ 0x400) := by
  refine ⟨(by decide +kernel : Memory.wf _ = true), by decide +kernel, by decide +kernel, by decide +kernel,
    by rw [ident_logged.pa _ (by decide)]; rfl, by decide +kernel, fun o h => ?_⟩
  refine ⟨0xE040 + 32 * o, ?_, by omega, by simp only [lineOf]; omega⟩
  rw [ident_logged.pa _ (by rw [BitVec.toNat_ofNat]; omega), BitVec.toNat_ofNat]
  congr 1
  omega
theorem met_Recovery_leaving : ((recovering true []).updCrew 0 fun k => { k with leaving := true }).pkg.recovery.busy = true ∧
    ((recovering true []).crews.filter fun p => p.2.leaving) = [] ∧ (recovering false []).cx.boot = false ∧ (recovering false []).cx.st ≠ .free ∧
    (recovering false []).cx.wait ≠ some .domain ∧ 1 ∉ (recovering false []).partition 7 ∧ 0 ∈ (recovering false []).partition 7 := by decide +kernel
theorem met_Recovery_awaits (n : Nat) : (recovering false []).AwaitsNothing { crew := 0, n := n } :=
  ⟨fun x h => (by cases h), fun q h => (by cases h), fun x h => (by cases h)⟩
theorem test_replay : (next (.rollbackRestart 7) logged).map (fun t => (t.memLine 0x400, (t.slotAt 3).state)) = some (9, 2) := by decide +kernel

/-! Copies and the engines (R266–R275, R335–R344). -/

/-- A copy of 64 bytes from 20040H to 10008H's page is asked for; t2 is an output tile, t3 a READY one. -/
def copying (a b len : Word) : State := withPage (withPage (tiled fun c => ((c.setX 10 a).setX 11 b).setTsh 5 len) 0x10000 page) 0x10100 page
def onTile (a : Word) : State := (copying a 0x10100 0).upd fun c => c.setTsh 0 4
def haltedAt (f : CopyQueue → CopyQueue) (a : Word) : State :=
  (copying a 0x10100 64).upd fun c => { c with cnt := { c.cnt with copies := 1 }, queues := c.queues.set 1 (f { haltedQueue with entries := [{
    fence := none, mm := false, dst := .global 0x10000, src := .global 0x10100, total := 64, done := 0, pc := 0x900, tsh := c.tsh, fpctl := 0, k4 := 0, flags := 0
    out := [], stage := [], result := none, poison := [], pass := 0, staged := false, fout := 0, freg := 0, facc := 0, sys := false }] }) }
theorem met_Copies : (0x10000 : Word).toNat < 2 ^ 55 ∧ (let s := copying 0x10000 0x10100 64
      (s.X 10).toNat < 2 ^ 55 ∧ (s.X 11).toNat < 2 ^ 55 ∧ (s.cx.getTsh 5).toNat < 2 ^ 56 ∧ 0 < (s.cx.getTsh 5).toNat ∧
      ¬((s.X 10).toNat < (s.X 11).toNat + 64 ∧ (s.X 11).toNat < (s.X 10).toNat + 64) ∧ (s.queueAt s.cur 1).entries.length < 32 ∧ s.seatCopies s.cur < 128 ∧
      s.overlapping 0 [(0x10000, 0x10040)] = []) ∧
    ((0x10000 : Word).toNat < (0x1003F : Word).toNat + 64 ∧ (0x1003F : Word).toNat < (0x10000 : Word).toNat + 64) ∧
    ¬((0x10000 : Word).toNat < (0x10040 : Word).toNat + 64 ∧ (0x10040 : Word).toNat < (0x10000 : Word).toNat + 64) ∧
    ¬((0x80000000000000 : Word).toNat < 2 ^ 55) ∧ (0x80000000000000 : Word).toNat / 2 ^ 62 = 0 ∧ (0x4000000000000001 : Word).toNat / 2 ^ 62 = 1 ∧
    (0x4000000000000002 : Word).toNat % 2 ^ 62 = 2 ∧ (0x100000000000040 : Word) &&& 0xFF00000000000000#64 ≠ 0 := by decide +kernel
theorem met_Copies_tile : (onTile 0xC000000000000002).X 10 = BitVec.ofNat 64 (3 * 2 ^ 62 + (2 : BitVec 4).toNat) ∧
    (onTile 0xC000000000000002).Output ((onTile 0xC000000000000002).cx.getT 2) ∧
    (onTile 0xC000000000000002).checkWindow 0x10100 false false = none :=
  ⟨by decide +kernel, ⟨⟨by decide +kernel, by decide +kernel, by decide +kernel⟩, by decide +kernel, by decide +kernel, by decide +kernel⟩, by decide +kernel⟩
/-- FOUT in t8, a second EMPTY slot of the task. -/
def onTileMm : State := ((onTile 0xC000000000000002).updTile 0 5 fun _ => slot .empty 0x2000 0 64).upd fun c => (c.setT 8 0x80000005).setTsh 7 0x801
theorem met_Copies_mm : (onTileMm.cx.getTsh 7).toNat < 2 ^ 12 ∧ (onTileMm.cx.getTsh 7).toNat / 32 % 8 = 0 ∧
    onTileMm.Output (onTileMm.cx.getT ((onTileMm.cx.getTsh 7).extractLsb' 8 4)) ∧ onTileMm.Names (onTileMm.cx.getT ((onTileMm.cx.getTsh 7).extractLsb' 0 4)) ∧
    (onTileMm.slotNamed 0 (onTileMm.cx.getT ((onTileMm.cx.getTsh 7).extractLsb' 0 4))).st = .ready :=
  ⟨by decide +kernel, by decide +kernel, ⟨⟨by decide +kernel, by decide +kernel, by decide +kernel⟩, by decide +kernel, by decide +kernel, by decide +kernel⟩,
   ⟨by decide +kernel, by decide +kernel, by decide +kernel⟩, by decide +kernel⟩
theorem met_Copies_queues : (∀ j < 4, (copying 0 0 0).queueAt ctx0 j = CopyQueue.fresh) ∧ ((haltedAt id 0x4000000000000000).queueAt ctx0 1).halted = true ∧
    ((haltedAt (fun q => { q with halted := false, entries := List.replicate 32 (q.entries.getD 0 {
      fence := none, mm := false, dst := .global 0, src := .global 0, total := 0, done := 0, pc := 0, tsh := Vector.replicate 8 0, fpctl := 0, k4 := 0, flags := 0
      out := [], stage := [], result := none, poison := [], pass := 0, staged := false, fout := 0, freg := 0, facc := 0, sys := false }) }) 0).queueAt ctx0 1).entries.length = 32 := by
  decide +kernel
theorem test_cpy : (next (.cpy 1 10 11) (copying 0x10000 0x10100 64)).map (fun t => ((t.queueAt ctx0 1).entries.map CopyEntry.total, t.cx.cnt.copies, t.events)) =
    some ([64], 1, [.copyBeat ctx0 1]) := by decide +kernel
theorem test_cpy_overlap : trapsWith (.cpy 1 10 11) (copying 0x10000 0x1003F 64) = some (0x10C, 64) := by decide +kernel
theorem test_cpy_control_idle : trapsWith (.cpy 1 10 11) (copying 0x4000000000000000 0x10100 64) = some (0x10C, 0x4000000000000000) := by decide +kernel
theorem test_cpy_abandon : (next (.cpy 1 10 11) (haltedAt id 0x4000000000000001)).map (fun t => ((t.queueAt ctx0 1).entries.length, t.cx.cnt.copies)) =
    some (0, 0) := by decide +kernel
theorem test_cstat_halted : (next (.cstat 1 9) (haltedAt id 0)).map (fun t => t.X 9) = some 0x0500000000000000 := by decide +kernel

/-- A task of a launch that takes part, with 256 bytes at 10000H and a destination at 10100H. -/
def collecting (f : Ctx → Ctx) : State :=
  let s := task fun c => f ((c.setX 10 0x10000).setX 11 0x10100)
  { [0x10000, 0x10080, 0x10100, 0x10180].foldl (fun s va => withPage s va page) (holding 0x20000 [5] s) with slots := [(3, launch1)] }
def coll1 : Instr := .coll 2 10 11 0 0
def lines (u : Use) (va : Word) : List Leaf := match (collecting id).translateLines coll1 u (linesOf va 256) with | .ok l _ => l | _ => []
theorem met_Copies_coll : (collecting id).takesPart 1 0 = true ∧ (collecting id).checkShapes [6] = none ∧ ((collecting id).X 10).toNat % 256 = 0 ∧
    (lines .load 0x10000).length = 2 ∧ (lines .store 0x10100).length = 2 ∧ mget? ((collecting id).crewAt 0).colls 2 = none ∧
    (collecting id).overlapping 0 [(0x10100, 0x10200)] = [] ∧
    (match (collecting id).readLines ((linesOf 0x10000 256).zip (lines .load 0x10000)) with | .ok v _ => v | _ => 0) = 5 ∧
    (task id).takesPart 1 0 = false := by decide +kernel
def waitingColl (busy bad : Bool) : State := (collecting id).updCrew 0 fun k => { k with
  colls := [(2, { launch := 1, round := 0, busy := busy, bad := bad, failed := [], bc := false, ctx := ctx0, record := 0x2000, dst := 0x10100, pc := 0x900 })] }
theorem met_Copies_collw : (mget? ((waitingColl true false).crewAt 0).colls 2).map CollSlot.busy = some true ∧ (waitingColl true false).cx.record = 0x2000 ∧
    (mget? ((waitingColl false true).crewAt 0).colls 2).map CollSlot.bad = some true ∧ (waitingColl true false).cx.cancelled = false := by decide +kernel
theorem test_coll : (next coll1 (collecting id)).map (fun t => ((mget? (t.crewAt 0).colls 2).map CollSlot.busy, t.events.length)) = some (some true, 1) := by
  decide +kernel
theorem test_coll_alignment : trapsWith coll1 ((collecting id).upd fun c => c.setX 10 0x10080) = some (0x95, 0x10080) := by decide +kernel
theorem test_collw_waits : (next (.collw 2) (waitingColl true false)).map (fun t => t.cx.st) = some .stalled := by decide +kernel
theorem test_collw_bad : trapsWith (.collw 2) (waitingColl false true) = some (0x10E, 2) := by decide +kernel

/-! The engines. -/

def isOk {ε α : Type} (r : Except ε α) : Bool := match r with | .ok _ => true | .error _ => false
/-- A load of a window of one FP32 row of 64 elements at 10000H, at its first line. -/
def loading (w : BitVec 32) (n : Node → Node) (st : TState) : State :=
  let node : Node := n { aNode 0x80000000 0x80000001 with
    word := w, ins := if w = (encode (.tload 2 10)).getD 0 then [] else (aNode 0x80000000 0).ins, xa := 0x10000
    tsh := #v[0x003F000000000100, 0, 0, 0, 0, 0, 0, 0] }
  withPage (withPage ((holding 0x20000 [0, 0, 0x80, 0x3F] (tiled id)).updCrew 0 fun k =>
    { k with tiles := mput k.tiles 1 (slot st 0x2000 0 16), nodes := [(0, node)] }) 0x10000 page) 0x10080 page
def tload1 : BitVec 32 := (encode (.tload 2 10)).getD 0
def nodeOf (s : State) : Node := (s.nodeAt? 0 0).getD (aNode 0 0)
def nowOf (s : State) : Option Step := ((nodeOf s).stepsOf (nodeOf s).group (nodeOf s).sub)[(nodeOf s).step]?
theorem met_EngineSteps_load : ((loading tload1 id .filling).crewAt 0).enginesStopped = false ∧ ((loading tload1 id .filling).nodeAt? 0 0).isSome = true ∧
    (∃ l, nowOf (loading tload1 id .filling) = some (.beat l)) ∧
    isOk ((loading tload1 id .filling).doStep 0 (nodeOf (loading tload1 id .filling)) (.beat 0x200)) = true ∧
    isOk ((task id).doStep 0 (nodeOf (loading tload1 id .filling)) (.beat 0x200)) = false ∧
    (nodeOf (loading tload1 id .filling)).demand = none ∧ risingFrom 0 ((loading tload1 id .filling).crewAt 0).nodes = true :=
  ⟨by decide +kernel, by decide +kernel, ⟨0x200, by decide +kernel⟩, by decide +kernel, by decide +kernel, by decide +kernel, by decide +kernel⟩
theorem test_load_beat : (next (.tloadBeat 0 0) (loading tload1 id .filling)).map (fun t => (nodeOf t).mask) = some (groupMask 0 0) := by decide +kernel
theorem test_load_other_event : (next (.sweepPass 0 0) (loading tload1 id .filling)).map (fun t => (nodeOf t).step) = some 0 := by decide +kernel
/-- A matrix product, a lane operation and a quantisation, each at its first or last step. -/
def tmm1 : BitVec 32 := (encode (.tmm 2 1 1 0)).getD 0
def tabs1 : BitVec 32 := (encode (.ttrans 2 1)).getD 0
def tqnt1 : BitVec 32 := (encode (.tqnt 2 1 1)).getD 0
def matrix : State := loading tmm1 (fun n => { n with ins := [(0, { handle := 0x80000000, reg := 1, map := TMap.ident }), (1, { handle := 0x80000000, reg := 1, map := TMap.ident })] }) .filling
def laned : State := loading tabs1 id .filling
theorem clean_read (s : State) (k : Nat) (n : Node) (outs : List (Nat × Nat)) (h : ∀ p, (s.inView k n p).tile.bad = [] ∧ (s.inView k n p).index.bad = []) :
    s.poisonedRead k n outs = none := by
  unfold State.poisonedRead
  rw [List.findSome?_eq_none_iff]
  intro q _
  have e : (s.inView k n q.1).poisoned q.2.1 q.2.2 = none := by
    have t : ∀ (x : Tile) (bf : Word) (r c : Nat), x.bad = [] → x.poisoned bf r c = false := fun x bf r c hx => by
      simp [Tile.poisoned, hx]
    unfold View.poisoned
    cases (s.inView k n q.1).indexPos q.2.1 q.2.2 <;> cases (s.inView k n q.1).pos q.2.1 q.2.2 <;>
      simp [t _ _ _ _ (h q.1).1, t _ _ _ _ (h q.1).2]
  rw [e]
theorem sweep_ok (s : State) (k : Nat) (n : Node) (l : Nat) (h : ∀ p, (s.inView k n p).tile.bad = [] ∧ (s.inView k n p).index.bad = []) : isOk (s.doStep k n (.sweep l)) = true := by
  simp only [State.doStep, clean_read _ _ _ _ h]
  rfl
theorem matrix_sweeps : isOk (matrix.doStep 0 (nodeOf matrix) (.sweep 0)) = true := by
  refine sweep_ok _ _ _ _ fun p => ?_
  rcases p with _ | _ | p
  · decide +kernel
  · decide +kernel
  · have e : mget? (nodeOf matrix).ins (p + 2) = none := rfl
    unfold State.inView
    rw [e]
    decide +kernel
theorem met_EngineSteps_work : (∃ l, nowOf matrix = some (.sweep l)) ∧
    (∃ l, nowOf laned = some (.lanes l)) ∧ (nodeOf laned).step + 1 < ((nodeOf laned).stepsOf 0 0).length ∧
    (∀ l, nowOf laned ≠ some (.sweep l)) ∧ nowOf laned ≠ some .convert :=
  ⟨⟨0, by decide +kernel⟩, by
    have h : ∃ x, nowOf laned = some x ∧ (match x with | .lanes _ => true | _ => false) = true :=
      ⟨.lanes ((subElems 0).filter fun e => e.1 % 16 / 4 == 0), by decide +kernel, rfl⟩
    obtain ⟨x, h, hx⟩ := h
    cases x with
    | lanes l => exact ⟨l, h⟩
    | _ => exact absurd hx nofun,
   by decide +kernel, fun l h => by
    have e : nowOf laned = some (.lanes ((subElems 0).filter fun e => e.1 % 16 / 4 == 0)) := by decide +kernel
    rw [e] at h; exact absurd h nofun, by decide +kernel⟩
/-- The last step of the last sub-tile. -/
def lastMask : BitVec 16 := BitVec.allOnes 16 &&& ~~~groupMask 0 15
theorem met_EngineSteps_last : lastMask ||| groupMask 0 15 = BitVec.allOnes 16 ∧ (0 : BitVec 16) ||| groupMask 0 0 ≠ BitVec.allOnes 16 ∧
    ((loading tload1 id .filling).tileAt 0 1).st = .filling := by decide +kernel

def copyQueued (dst : Endpoint) (mm : Bool) (total done : Nat) : State :=
  let s := tiled fun c => { c with cnt := { c.cnt with copies := 1 }, queues := c.queues.set 1 { CopyQueue.fresh with entries := [{
    fence := none, mm := mm, dst := dst, src := .global 0x10100, total := total, done := done, pc := 0x900, tsh := #v[4, 0, 0, 0, 0, 0, 0, 0x100], fpctl := 0
    k4 := 0, flags := 0, out := [], stage := [], result := none, poison := [], pass := 0, staged := false, fout := 0x80000004, freg := 0x80000000, facc := 0, sys := false }] } }
  withPage (withPage (holding 0x20100 [0xAB] s) 0x10000 page) 0x10100 page
def head (s : State) : CopyEntry := ((s.queueAt ctx0 1).entries.head?).getD { fence := none, mm := false, dst := .global 0, src := .global 0, total := 0, done := 0, pc := 0, tsh := Vector.replicate 8 0, fpctl := 0, k4 := 0, flags := 0, out := [], stage := [], result := none, poison := [], pass := 0, staged := false, fout := 0, freg := 0, facc := 0, sys := false }
def beat1 (s : State) : Option (Nat × Nat) := match ({ s with actor := s.ownerLaunch ctx0 } : State).beat ctx0 1 (head s) with | .ok r => some (r.2.done, r.2.total) | .error _ => none
theorem met_EngineSteps_copy : (let s := copyQueued (.global 0x10000) false 64 0
      (s.queueAt ctx0 1).halted = false ∧ (s.crewAt 0).enginesStopped = false ∧ (s.queueAt ctx0 1).entries = [head s] ∧ (head s).fence = none ∧
      (head s).poison = [] ∧ beat1 s = some (64, 64)) ∧ beat1 (copyQueued (.global 0x10000) false 512 0) = some (128, 512) ∧
    beat1 (copyQueued (.global 0x900000) false 64 0) = none ∧ ((haltedAt id 0).queueAt ctx0 1).halted = true := by decide +kernel
theorem test_copy_last : (next (.copyBeat ctx0 1) (copyQueued (.global 0x10000) false 64 0)).map
    (fun t => ((t.queueAt ctx0 1).entries.length, t.cx.cnt.copies, t.byteAt 0x20000)) = some (0, 0, 0xAB) := by decide +kernel
theorem test_copy_fault : (next (.copyBeat ctx0 1) (copyQueued (.global 0x900000) false 64 0)).map
    (fun t => ((t.queueAt ctx0 1).halted, (t.queueAt ctx0 1).reason, (t.queueAt ctx0 1).va)) = some (true, 1, 0x900000) := by decide +kernel
theorem met_EngineSteps_followOn : (let s := copyQueued (.tile 0x80000001) true 64 64
      (head s).mm = true ∧ (head s).total ≤ (head s).done ∧ (head s).dst = .tile 0x80000001 ∧ (s.tileAt 0 (hSlot (head s).fout)).st = .filling ∧ ctx0.n < 64) := by
  decide +kernel
def writing (p : List Piece) : State := (task fun c => { c with cnt := { c.cnt with demands := 1 } }).updCrew 0 fun k => { k with
  writeOuts := [{ ctx := ctx0, record := 0x2000, pc := 0x900, pieces := p, flags := flagNX }] }
def piece : Piece := { va := 0x10000, pa := 0x20000, data := 0x1234, mask := 0xFFFF, ex := false, hb := false, bank := none }
theorem met_EngineSteps_writeOut : ((writing []).crewAt 0).enginesStopped = false ∧ ((writing []).ctxAt ctx0).record = 0x2000 ∧
    (((writing [piece]).crewAt 0).writeOuts.map WriteOut.pieces) = [[piece]] ∧ ((task id).crewAt 0).writeOuts = [] ∧
    (((task id).updCrew 0 fun k => { k with frozen := true }).crewAt 0).enginesStopped = true := by decide +kernel
theorem test_write_out_line : (next (.writeOutLine 0) (writing [piece])).map (fun t => (t.readPa 0x20000 2, t.events)) = some (0x1234, [.writeOutLine 0]) := by
  decide +kernel
theorem test_write_out_end : (next (.writeOutLine 0) (writing [])).map (fun t => (t.cx.cnt.demands, t.cx.fp.fpflags)) = some (0, flagNX.setWidth 64) := by
  decide +kernel
def part0 (k v : Nat) : Partial := { fromPackage := none, crew := k, round := 0, op := 0, bc := false, len := 256, data := v }
theorem met_EngineSteps_partial : (collecting id).slotOf 1 = some 3 ∧ ((collecting id).slotAt 3).pkgs = [] ∧ ((collecting id).slotAt 3).crews = [0] ∧
    (collecting id).pkg.rounds = [] ∧ (task id).slotOf 1 = none ∧ (victim true).slotOf 1 = some 3 ∧ ((victim true).slotAt 3).crews = [0, 1] := by decide +kernel
theorem test_partial : (next (.reductionPartial 1 2 (part0 0 77)) (identity [] (waitingColl true false))).map (fun t => (t.readPa 0x10100 4, (mget? (t.crewAt 0).colls 2).map CollSlot.busy)) =
    some (77, some false) := by decide +kernel

/-! What the engines read and write. -/

def leafIs (r : Except Nat (Leaf × State)) (f : Leaf → Bool) : Bool := match r with | .ok x => f x.1 | .error _ => false
theorem leaf_exists {r : Except Nat (Leaf × State)} {f : Leaf → Bool} (h : leafIs r f = true) : ∃ l t, r = .ok (l, t) ∧ f l = true := by
  cases r with
  | ok x => exact ⟨x.1, x.2, rfl, h⟩
  | error e => cases h
/-- What the read of an engine of crew 0 leaves. -/
def readLeft (s : State) (va n : Nat) : State := match s.engineRead 0 va n false with | .ok x => x.2 | .error _ => s
def readsAt (s : State) (va n p : Nat) : Bool := isOk (s.engineRead 0 va n false) &&
  leafIs (s.engineLeaf 0 va false false) fun l => !l.sbank && s.place (l.addr (BitVec.ofNat 64 va)) == .device p
theorem engineReads {s : State} {va n p : Nat} (h : readsAt s va n p = true) : s.EngineReads (readLeft s va n) 0 va n false p := by
  simp only [readsAt, Bool.and_eq_true] at h
  obtain ⟨l, t, e, f⟩ := leaf_exists h.2
  simp only [Bool.and_eq_true, Bool.not_eq_true', beq_iff_eq] at f
  refine ⟨?_, l, t, e, f⟩
  unfold readLeft
  cases r : s.engineRead 0 va n false with
  | ok x => exact ⟨x.1, rfl⟩
  | error e => rw [r] at h; cases h.1
def writes0 (s : State) (va p : Nat) : Bool := leafIs (s.engineWriteLeaf 0 va false) fun l => !l.sbank && !l.ex &&
  s.place (l.addr (BitVec.ofNat 64 (va / 128 * 128)) / 128 * 128) == .device p
theorem engineWrites {s : State} {va p : Nat} (h : writes0 s va p = true) (m : s.MemWf) (a : p % 128 = 0) (c : (s.metaOf (lineOf p)).poison = false)
    (u : s.slotGuarded (lineOf p) = false) (r : s.undoRegion = none) : ∃ t, s.EngineWrites t 0 va false p := by
  obtain ⟨l, t, e, f⟩ := leaf_exists h
  simp only [Bool.and_eq_true, Bool.not_eq_true', beq_iff_eq] at f
  exact ⟨t, l, e, f.1.1, f.2, m, a, c, u, r, .inl (by rw [f.1.2]; rfl)⟩
/-- A copy to 10000H of 64 bytes of one line, and one of bytes of two lines. -/
def copyA : State := let s := copyQueued (.global 0x10000) false 64 0; { s with actor := s.ownerLaunch ctx0 }
def copyB : State := withPage copyA 0x10180 page
theorem met_EngineSteps_data : copyA.EngineReads (readLeft copyA 0x10100 64) 0 0x10100 64 false 0x20100 ∧
    copyB.EngineReads (readLeft copyB 0x10160 32) 0 0x10160 32 false 0x20160 ∧
    (readLeft copyB 0x10160 32).EngineReads (readLeft (readLeft copyB 0x10160 32) 0x10180 32) 0 0x10180 32 false 0x20180 ∧
    (∃ t, (readLeft copyA 0x10100 64).EngineWrites t 0 0x10000 false 0x20000) ∧
    (∃ t, (readLeft (readLeft copyB 0x10160 32) 0x10180 32).EngineWrites t 0 0x10000 false 0x20000) ∧
    (copyA.crewAt 0).leaving = false ∧ copyA.requestsHeld 0 = false :=
  ⟨engineReads (by decide +kernel), engineReads (by decide +kernel), engineReads (by decide +kernel),
   engineWrites (by decide +kernel) (by decide +kernel : Memory.wf _ = true) (by decide) (by decide +kernel) (by decide +kernel) (by decide +kernel),
   engineWrites (by decide +kernel) (by decide +kernel : Memory.wf _ = true) (by decide) (by decide +kernel) (by decide +kernel) (by decide +kernel),
   by decide +kernel, by decide +kernel⟩
/-- A copy out of a tile with one line left to write, and the write-out of a line. -/
def copyOut : State := copyA.updCtx ctx0 fun c => { c with queues := c.queues.set 1 { CopyQueue.fresh with entries := [{ head copyA with src := .tile 0x80000000, out := [piece] }] } }
theorem met_EngineSteps_out : (head copyOut).src = .tile 0x80000000 ∧ (head copyOut).out = [piece] ∧ piece.va % 128 = 0 ∧ (head copyOut).poison = [] ∧
    (∃ t, copyOut.EngineWrites t 0 piece.va false 0x20000) ∧ piece.bank = none ∧ (writing [piece]).place (piece.pa / 128 * 128) = .device 0x20000 ∧
    ({ writing [piece] with actor := (writing [piece]).workLaunch 0x2000 } : State).EngineLine piece.ex 0x20000 ∧ (writing [piece]).requestsHeld 0 = false :=
  ⟨by decide +kernel, by decide +kernel, by decide, by decide +kernel,
   engineWrites (by decide +kernel) (by decide +kernel : Memory.wf _ = true) (by decide) (by decide +kernel) (by decide +kernel) (by decide +kernel),
   by decide, by decide +kernel,
   ⟨(by decide +kernel : Memory.wf _ = true), by decide, by decide +kernel, by decide +kernel, by decide +kernel, .inl rfl⟩, by decide +kernel⟩
theorem met_EngineSteps_held : (changing copyA).requestsHeld 0 = true ∧ ((copyA.updCrew 0 fun k => { k with leaving := true }).crewAt 0).leaving = true ∧
    (head (changing copyA)).done < (head (changing copyA)).total ∧ (changing (loading tload1 id .filling)).requestsHeld 0 = true := by decide +kernel

/-! A round's result. -/

theorem Ident.walkWr {s : State} (h : Ident s) (va : Word) (d : va.toNat < 2 ^ 22) : s.walk va needWr =
    .ok { pa := 0, span := 2 ^ 42, kind := 0, rd := true, wr := true, ex := false, hb := false, log := false, sbank := false } := by
  have z : va.toNat / 2 ^ 42 % 8192 = 0 := by omega
  have sh : levelShift 3 = 42 := by decide
  have en : s.tableEntry none 3 va.toNat 0x100000 = .ok 0x63 := by
    simp only [State.tableEntry, State.readEntry, sh, z]
    rw [place_low s h.id _ (by decide)]
    have l : lineOf 0x100000 = 0x2000 := by decide
    simp [l, h.clean, h.entry]
  rw [State.walk, h.root, State.walkFrom, en]
  simp only [sh]
  rfl
/-- Crew 0's contribution is the last of its round, whose result goes to 10100H. -/
def lastPart : State := identity [] (waitingColl true false)
theorem ident_last : Ident lastPart := ⟨by decide +kernel, by decide +kernel, by decide +kernel, by decide +kernel⟩
theorem met_EngineSteps_results : lastPart.ResultsAt [(0x10100, 0x10100)] 256 := by
  refine ⟨(by decide +kernel : Memory.wf _ = true), noUndo rfl (by decide +kernel), List.pairwise_singleton _ _, ?_⟩
  intro x hx
  rw [List.mem_singleton] at hx
  subst hx
  refine ⟨by decide, fun j hj => ?_⟩
  have hj' : j = 0 ∨ j = 1 := by omega
  have clean : (lastPart.metaOf (lineOf (0x10100 + 128 * j))).poison = false ∧ lastPart.slotGuarded (lineOf (0x10100 + 128 * j)) = false := by
    rcases hj' with rfl | rfl <;> decide +kernel
  refine ⟨clean.1, clean.2, fun t p _ m b => ?_⟩
  have i : Ident t := ident_last.keeps p (fun k hk => b _ (by omega) fun y hy => by
    rw [List.mem_singleton] at hy; subst hy; simp only; omega) m
  have va : ((0x10100 : Word) + BitVec.ofNat 64 (128 * j)).toNat = 0x10100 + 128 * j := by
    rcases hj' with rfl | rfl <;> decide
  refine ⟨_, i.walkWr _ (by rw [va]; omega), rfl, .inl rfl, ?_⟩
  have ad : Leaf.addr { pa := 0, span := 2 ^ 42, kind := 0, rd := true, wr := true, ex := false, hb := false, log := false, sbank := false }
      ((0x10100 : Word) + BitVec.ofNat 64 (128 * j)) / 128 * 128 = 0x10100 + 128 * j := by
    simp only [Leaf.addr, va]; omega
  rw [ad]
  exact place_low t i.id _ (by omega)
theorem met_EngineSteps_round : (lastPart.pkg.rounds = []) ∧ lastPart.slotOf 1 = some 3 ∧ (lastPart.slotAt 3).pkgs = [] ∧ (lastPart.slotAt 3).crews = [0] ∧
    (lastPart.crewAt 0).away = false ∧ (part0 0 77).fromPackage = none ∧ (part0 0 77).bad = false ∧ (part0 0 77).len % 128 = 0 ∧
    ((mget? (lastPart.crewAt 0).colls 2).filter fun y => y.busy && y.launch == 1 && y.round == 0).map CollSlot.dst = some 0x10100 := by decide +kernel
/-- The other crew's contribution is in, of operation 2, and of 5. -/
def half (op : Nat) (bad : Bool) : State := { victim true with pkg := { (victim true).pkg with rounds := [{
  launch := 1, slot := 2, round := 0, parts := [{ part0 1 30 with op := op }], bad := bad, sent := false }] } }
theorem met_EngineSteps_agrees : ((half 0 false).slotAt 3).crews = [0, 1] ∧ (part0 1 30).op = (part0 0 77).op ∧ ({ part0 1 30 with op := 2 } : Partial).op ≠ (part0 0 77).op ∧
    ((half 0 false).crewAt 0).away = false ∧ ((half 0 false).crewAt 1).away = false ∧ ({ part0 0 77 with fromPackage := some 5 } : Partial).fromPackage ≠ none := by
  decide +kernel
theorem test_sum : packageTotal 2 4 [{ part0 0 77 with op := 2, len := 4 }, { part0 1 0xFFFFFFFF with op := 2, len := 4 }] = some 76 := by decide +kernel
theorem test_stranger : (next (.reductionPartial 1 2 { part0 0 77 with fromPackage := some 5 }) (half 0 false)).map (fun t => t.posts.map Report.kind) =
    some [0x16] := by decide +kernel

/-! The control space, links and boot. -/

def managed (o : Nat) : State := { task id with pkg := { (task id).pkg with mgmt := { (task id).pkg.mgmt with owner := o, ports := [0, 1] } } }
def offering (s : State) : State := { s with pkg := { s.pkg with mgmt := { s.pkg.mgmt with pending := true, target := 1, deadline := 0 } } }
theorem met_Management : (managed 7).pkg.mgmt.owner = 7 ∧ (managed 2).pkg.mgmt.owner = 2 ∧ (0x10007 ≠ 0x10008 ∧ ¬(0x400000 ≤ 0x10007 ∧ 0x10007 < 0x401000)) ∧
    ¬(0x400000 ≤ 0x401000 ∧ 0x401000 < 0x401000) ∧ (offering (managed 2)).pkg.mgmt.pending = true ∧ (offering (managed 2)).pkg.mgmt.target = 1 ∧
    (offering (managed 2)).pkg.mgmt.deadline ≤ (offering (managed 2)).clock ∧ 1 ∈ (managed 2).pkg.mgmt.ports ∧ ¬((5 : Nat) = 4 ∨ (5 < 4 ∧ 5 ∈ (managed 2).pkg.mgmt.ports)) ∧
    (managed 2).launchRuns = false ∧ (launching launch1).launchRuns = true ∧ (1 : Word).toNat % 4 = 1 ∧ (1 : Word).getLsbD 4 = false ∧
    (2 : Word).toNat % 4 = 2 ∧ 0x7FF0 ≤ (0x7FF0 : Word).toNat % 2 ^ 15 ∧ (task id).setRefused 0 (mput [] 0 0) = true := by decide +kernel
/-- A set of four dies' first lines, as R368 lays its words out. -/
theorem met_Management_set : ∃ v : Word, (task id).setRefused 3 (mput [] 0 v) = false := ⟨0x80000F0000000000, by decide +kernel⟩
theorem test_register_rejected : (next (.registerWrite 1 0x100000 8 { value := 25, mask := 2 ^ 64 - 1 }) (managed 2)).map (fun t => (t.pkg.fields.uwin, mget 0 t.pkg.mgmt.rejects 1)) = some (30, 1) := by
  decide +kernel
theorem test_uwin : (next (.registerWrite 2 0x100000 8 { value := 25, mask := 2 ^ 64 - 1 }) (managed 2)).map (fun t => t.pkg.fields.uwin) = some 25 ∧
    (next (.registerWrite 2 0x100000 8 { value := 41, mask := 2 ^ 64 - 1 }) (managed 2)).map (fun t => t.pkg.fields.uwin) = some 30 := by decide +kernel
/-- 101 ms later, a launch of two packages, a link that is up, and the last of the store's window. -/
def later : State := { offering (managed 2) with clock := 175000001 }
theorem met_Management_values : later.pkg.mgmt.deadline < later.clock ∧ (managed 2).multiRuns = false ∧
    ({ launching launch1 with slots := [(3, { launch1 with pkgs := [1] })] } : State).multiRuns = true ∧ Memory.wf (managed 2).pkg.draft = true ∧
    ((managed 2).crewAt 1023).queue.entries = [] ∧ ((managed 2).crewAt 1023).queue.waiting = [] ∧ (2 ^ 20 : Word).toNat % 2 ^ 21 = 2 ^ 20 ∧
    (2 ^ 12 : Word).toNat % 2 ^ 21 = 2 ^ 12 ∧ (0x100000000000000 : Word).toNat / 2 ^ 56 = 1 ∧ 0x400010 ≤ 0x400010 ∧ ¬(0x400810 < 0x400810) ∧
    ¬(0x400C00 ≤ 0x400BF8) ∧ 0x4002F8 % 8 = 0 ∧ 0x13FFFF8 % 8 = 0 := by decide +kernel
theorem test_code_write : (next (.registerWrite 5 0x1000010 8 { value := 0x5000, mask := 2 ^ 64 - 1 }) (managed 2)).map (fun t => (t.crewAt 0).vsave.toNat) =
    some 0x5000 ∧ (next (.registerWrite 5 0x100000 8 { value := 25, mask := 2 ^ 64 - 1 }) (managed 2)).map (fun t => t.pkg.fields.uwin) = some 30 := by
  decide +kernel
theorem test_route : (next (.registerWrite 2 0x300008 8 { value := 0x4000300020001, mask := 2 ^ 64 - 1 }) (managed 2)).map (fun t =>
    (List.range 5).map fun k => mget 0 t.pkg.routes (4 + k)) = some [1, 2, 3, 4, 0] := by decide +kernel
theorem test_claim : (next (.claim 3) (managed 7)).map (fun t => t.pkg.mgmt.owner) = some 3 := by decide +kernel
theorem test_accept : (next (.accept 1) (offering (managed 2))).map (fun t => (t.pkg.mgmt.owner, t.pkg.mgmt.pending)) = some (1, false) := by decide +kernel

def busyDie : State := (task id).updDie 0 fun d => { d with busy := true, change := some split2, waiting := [7] }
def waitingDomain : State := ((handler fun c => { c with st := .stalled, wait := some .domain })).updDie 0 fun d => { d with owners := [ctx0] }
def withTransl (f : Transl → Transl) (s : State) : State := { s with pkg := { s.pkg with transl := f s.pkg.transl } }
def withBias (f : Bias → Bias) (s : State) : State := { s with pkg := { s.pkg with bias := f s.pkg.bias } }
theorem met_Mappings : ((task id).dieAt 0).busy = false ∧ hashctlRefused ((task id).dieAt 0).domains split2 = false ∧
    hashctlRefused ((task id).dieAt 0).domains 0x2FFFF0000 = true ∧ (busyDie.dieAt 0).busy = true ∧ (busyDie.dieAt 0).change = some split2 ∧
    (busyDie.dieAt 0).waiting = [7] ∧ ((task id).dieAt 0).change = none ∧ (waitingDomain.dieAt 0).owners = [ctx0] ∧
    (waitingDomain.ctxAt ctx0).wait = some .domain ∧ (waitingDomain.ctxAt ctx0).depth ≠ 0 ∧ (task id).pkg.transl.busy = false ∧
    (task id).pkg.transl.sdva % 65536 = 0 ∧ (task id).pkg.transl.sdlen % 65536 = 0 ∧ (withTransl (fun t => { t with sdva := 1 }) (task id)).pkg.transl.sdva % 65536 ≠ 0 ∧
    (withTransl (fun t => { t with busy := true, range := (0x10000, 0x20000) }) (writing [piece])).pkg.transl.busy = true ∧
    piece.hits (0x10000, 0x20000) = true ∧ shooting.engineHits shooting.pkg.transl.range 0 = true ∧ (task id).pkg.transl.flip = false := by decide +kernel
/-- A table of one root entry, one of the second level and a leaf of 64 KiB at 10000H, to 20000H. -/
def paged : State := stored [(0x100000, 8, 0x110061), (0x110000, 8, 0x120061), (0x120008, 8, 0x20063)] { task id with pkg := { (task id).pkg with root := 0x100000 } }
theorem met_Mappings_flip : ((withBias (fun b => { b with fva := 0x10000, dir := true }) paged).flipLeaf 0x10000 true).map (fun l => (l.1.hb, l.2)) = some (false, 2) ∧
    ((withBias (fun b => { b with fva := 0x10000 }) paged).flipLeaf 0x10000 false).map (fun l => (l.1.hb, l.2)) = some (false, 2) ∧
    paged.pkg.bias.busy = false ∧ (task id).flipLeaf 0x10000 true = none ∧ paged.flipWaits 0x10000 = false ∧ paged.leafEntry 0x10000 = some 0x120008 ∧
    (withBias (fun b => { b with busy := true, next := some (0, true) }) paged).pkg.bias.next ≠ none := by decide +kernel
theorem met_Mappings_sent : (∃ y ∈ ({ withTransl (fun t => { t with busy := true, range := (0x10000, 0x20000) }) (task id) with flying := [{
      id := 2, owed := none, line := 0x400, va := 0x10000, cargo := .read }] } : State).flying, 0x10000 ≤ y.va ∧ y.va < 0x20000) ∧
    (task id).flying = [] ∧ (withBias (fun b => { b with busy := true, page := 0x30000 }) paged).flipLeaf 0x30000 false = none ∧
    (withBias (fun b => { b with busy := true, page := 0x30000 }) paged).flipWaits 0x30000 = false ∧
    (∃ p ∈ (launching launch1).slots, p.2.running = true) := by
  refine ⟨⟨_, List.mem_singleton.mpr rfl, by decide, by decide⟩, by decide +kernel, by decide +kernel, by decide +kernel, ⟨(3, launch1), by decide +kernel, by decide +kernel⟩⟩
theorem test_hashctl_waits : (next (.hashctlWrite 0 9) busyDie).map (fun t => (t.dieAt 0).waiting) = some [7, 9] := by decide +kernel
theorem test_domain_switch : (next (.domainSwitch 0) busyDie).map (fun t => ((t.dieAt 0).domains.map fun p => (p.1, p.2.members, p.2.squads), t.events)) =
    some ([(0, 0x0000FFFF, 0x00FF), (1, 0xFFFF0000, 0xFF00)], [.hashctlWrite 0 7]) := by decide +kernel
theorem test_shootdown : (next .shootdownGo calm).map (fun t => (t.leaves, t.pkg.transl.busy, t.pkg.transl.range)) = some ([], true, (0, 2 ^ 55)) := by decide +kernel
theorem test_throttle : (next (.thermalThrottle 2 106) (task id)).map (fun t => (t.pkg.fields.throttle, t.events)) = some (4, []) := by decide +kernel
theorem test_flip_go : (next .biasFlipGo (withBias (fun b => { b with fva := 0x10000, dir := true }) paged)).map
    (fun t => (t.pkg.bias.busy, t.pkg.bias.page, t.events)) = some (true, 0x10000, [.biasFlipPoint]) := by decide +kernel

def flit (k lseq lack dst fseq : Nat) (ok : Bool) : Flit := {
  lseq := lseq, kind := k, lack := lack, dst := dst, src := 9, cls := 1, hops := 0, fseq := fseq, crcOk := ok, payload := .none }
def linked (f : Link → Link) : State := { task id with pkg := { (task id).pkg with links := [(4, f { Link.fresh with state := 2, en := true, lanes := 8 })] } }
theorem met_Links : ((linked id).linkAt 4).state = 2 ∧ ((linked fun l => { l with state := 3 }).linkAt 4).state = 3 ∧ ((linked fun l => { l with state := 1 }).linkAt 4).state = 1 ∧
    ((linked fun l => { l with unacked := [flit 1 5 0 3 0 true], since := 0, stuck := 15 }).linkAt 4).unacked ≠ [] ∧
    ¬((linked id).clock < 0 + 0) ∧ { linked fun l => { l with unacked := [flit 1 5 0 3 0 true] } with clock := 3500 }.clock ≥ 0 + 3500 ∧
    (flit 1 0 7 0 0 true).crcOk = true ∧ (flit 1 0 7 0 0 true).lseq = ((linked id).linkAt 4).rxSeq ∧ (flit 1 0 7 0 0 true).dst = (linked id).pkg.pkgid ∧
    (flit 1 0 7 3 0 true).dst ≠ (linked id).pkg.pkgid ∧ ((linked id).linkAt 4).unacked = [] ∧ (linked id).flowAt (1 + 8 * 9) = { next := 0, early := [], lost := [] } ∧
    (1 + 65536 - 0) % 65536 < 32768 ∧ (32767 + 65536 - 0) % 65536 < 32768 ∧ ((linked fun l => { l with en := false, state := 0 }).linkAt 4).en = false := by decide +kernel
theorem test_flit_next : (next (.flitReceive 4 (flit 1 0 7 0 0 true)) (linked id)).map (fun t => ((t.linkAt 4).rxSeq, (t.flowAt 73).next)) = some (1, 1) := by
  decide +kernel
theorem test_flit_early : (next (.flitReceive 4 (flit 1 0 7 0 2 true)) (linked id)).map (fun t => (t.flowAt 73).early.map Prod.fst) = some [2] := by decide +kernel
theorem test_flit_misrouted : (next (.flitReceive 4 (flit 1 0 7 3 0 true)) (linked id)).map (fun t => (t.linkAt 4).misroute) = some 1 := by decide +kernel
theorem test_link_dead : (next (.laneLockLoss 4 5) (linked fun l => { l with unacked := [flit 1 5 0 3 0 true] })).map
    (fun t => ((t.linkAt 4).state, (t.linkAt 4).unacked.length, (t.linkAt 4).deaths)) = some (3, 0, 1) := by decide +kernel
/-- A request of this package to line 400H that link 4 has sent. -/
def sentFlit (m : FlitMsg) : Flit := { flit 1 5 0 3 0 true with src := 0, payload := m }
def crossing (m : FlitMsg) (c : Cargo) : State := { linked (fun l => { l with unacked := [sentFlit m] }) with
  flying := [{ id := 2, owed := none, line := 0x400, va := 0x10000, cargo := c }] }
def addOne : AtomicMsg := { op := 2, dbl := true, pa := 0x20000, cmp := 0, new := 1 }
def crossings : List (FlitMsg × Cargo) := [(.write 2 0x20000 1 1 0xFF, .write 1 0xFF), (.read 2 0 0x400, .read), (.atomic 2 addOne, .atomic addOne)]
theorem met_Links_flight : (∀ p ∈ crossings, let s := crossing p.1 p.2
      (s.linkAt 4).unacked = [sentFlit p.1] ∧ (sentFlit p.1).lseq = 5 ∧ flightOf s.pkg.pkgid (sentFlit p.1) = some 2 ∧
      s.flying.map Flying.id = [2] ∧ s.pkg.flitsHeld = [] ∧ (s.metaOf 0x400).poison = false ∧ (s.linkAt 4).state = 2) ∧
    (flit 0 0 5 0 0 true).kind ≠ 1 ∧ (flit 0 0 5 0 0 true).kind ≠ 3 ∧ (flit 0 0 5 0 0 true).lack = 5 ∧ (flit 0 0 5 0 0 true).crcOk = true := by
  decide +kernel
theorem met_Links_flight_mem : ∀ p ∈ crossings, (crossing p.1 p.2).MemWf ∧ (crossing p.1 p.2).ArrivalRoom := by
  intro p _
  exact ⟨(by show Memory.wf (task id).mem = true; decide +kernel), (by show (task id).arrivals.length < 1024; decide +kernel), fun a h => (by cases h)⟩
theorem test_flight_lands : (next (.flitReceive 4 (flit 0 0 5 0 0 true)) (crossing (.write 2 0x20000 1 1 0xFF) (.write 1 0xFF))).map
    (fun t => (t.readPa 0x20000 1, t.flying)) = some (1, []) := by decide +kernel
theorem test_atomic_lands : (next (.flitReceive 4 (flit 0 0 5 0 0 true)) (holding 0x20000 [7] (crossing (.atomic 2 addOne) (.atomic addOne)))).map
    (fun t => t.readPa 0x20000 8) = some 8 := by decide +kernel
/-- Package 3 is reached by links 4 and 5; a flit for it comes in on link 6. -/
def joined (f g : Link → Link) : State :=
  let up : Link := { Link.fresh with state := 2, en := true, lanes := 8 }
  { task id with pkg := { (task id).pkg with routes := [(3, 0x30)], links := [(4, f up), (5, g up), (6, up)] } }
def through : Flit := { flit 1 0 7 3 0 true with hops := 2 }
def isOpen (s : State) (k : Nat) : Bool := (mget 0 s.pkg.routes 3).testBit k && (s.linkAt k).state == 2 && decide ((s.linkAt k).unacked.length < 4096)
theorem met_Links_through : (∀ k < 16, isOpen (joined id fun l => { l with state := 3 }) k = true → k = 4) ∧ isOpen (joined id fun l => { l with state := 3 }) 4 = true ∧
    through.dst ≠ (joined id id).pkg.pkgid ∧ through.hops ≠ 0 ∧ (joined (fun l => { l with state := 0 }) fun l => { l with state := 3 }).routeUp 3 = false ∧
    flightOf (joined id id).pkg.pkgid through = none ∧ flightOf (joined id id).pkg.pkgid { through with src := 0, payload := .read 2 0 0x400 } = some 2 := by decide +kernel
/-- Both links are full. -/
def stuffed (l : Link) : Link := { l with unacked := List.replicate 4096 through }
theorem met_Links_full : (joined stuffed stuffed).routeUp 3 = true ∧ ∀ k, ¬(k < 16 ∧ (mget 0 (joined stuffed stuffed).pkg.routes 3).testBit k = true ∧
    ((joined stuffed stuffed).linkAt k).state = 2 ∧ ((joined stuffed stuffed).linkAt k).unacked.length < 4096) := by
  refine ⟨by decide +kernel, fun k h => ?_⟩
  have e : (mget 0 (joined stuffed stuffed).pkg.routes 3) = 0x30 := by decide +kernel
  have b : k = 4 ∨ k = 5 := by
    have := h.2.1
    rw [e] at this
    have : ∀ k < 16, Nat.testBit 0x30 k = true → k = 4 ∨ k = 5 := by decide
    exact this k h.1 ‹_›
  have l : ((joined stuffed stuffed).linkAt k).unacked = List.replicate 4096 through := by rcases b with rfl | rfl <;> rfl
  rw [l, List.length_replicate] at h
  exact absurd h.2.2.2 (by decide)
/-- Link 5 ends; link 4 takes the skip of what it lost. -/
def dying : State := joined id fun l => { l with unacked := [{ through with fseq := 6 }] }
theorem met_Links_skip : dying.openLinks 3 = [4, 5] ∧ (joined id fun l => { l with unacked := [through], state := 1 }).openLinks 3 = [4] ∧
    (joined id fun l => { l with unacked := [through], state := 1 }).flowFull 3 5 = false ∧
    ((joined id fun l => { l with unacked := [through], state := 1 }).linkAt 5).unacked = [through] ∧
    ((linked fun l => { l with half := true, state := 1 }).linkAt 4).half = true := by decide +kernel
theorem test_link_skip : (next (.linkDead 5) (joined id fun l => { l with unacked := [through], state := 1 })).map (fun t =>
    (t.linkAt 4).unacked.map Flit.payload) = some [.skip 73 [0]] := by decide +kernel
theorem test_half : (next (.linkTrained 4 3 8) (linked fun l => { l with half := true, state := 1 })).map (fun t => ((t.linkAt 4).state, (t.linkAt 4).lanes)) =
    some (2, 4) := by decide +kernel

/-! Boot. -/

def booting (f : Boot → Boot) : State := let s := task id; { s with pkg := { s.pkg with boot := f { s.pkg.boot with crew := some 0, passed := 3 } } }
def found (b : Boot) : Boot := { b with fdone := true, answer := 3, nans := 2, heard := 3 }
theorem met_Boot : (booting id).pkg.boot.crew ≠ none ∧ (booting id).pkg.fields.booted = false ∧ (booting id).pkg.fields.bootfail = false ∧
    (booting id).pkg.boot.fbusy = false ∧ (booting id).pkg.boot.fdone = false ∧
    (let b := (booting found).pkg.boot; b.fdone = true ∧ (0x8001 : BitVec 16).getLsbD 15 = true ∧ (0 : Nat) = b.nlog ∧
      b.answer.getLsbD ((0x8001 : BitVec 16).toNat % 1024) = true ∧ ((booting found).crewAt 1).logical = none) ∧
    (booting fun b => { found b with mbusy := true, acking := [1] }).pkg.boot.mbusy = true ∧ (booting found).pkg.boot.heard.getLsbD 5 = false ∧
    (booting fun b => { b with fbusy := true, closes := 0 }).clock ≤ (booting fun b => { b with fbusy := true, closes := 0 }).pkg.boot.closes ∧
    (task id).pkg.boot.crew = none ∧ (let b := (booting fun b => { found b with nlog := 2, acks := 2 }).pkg.boot
      b.fdone = true ∧ b.err = false ∧ b.mbusy = false ∧ b.merr = false ∧ b.acks = b.nlog) := by decide +kernel
/-- The module store's verdicts are the part's (`Config`): each clause has its case. -/
theorem met_Boot_store : (Config.storeFails (task id).pkg.inForce = true ∨ Config.storeFails (task id).pkg.inForce = false) ∧
    ((∀ k ∈ [0, 31, 992, 1023], ¬((task id).pkg.boot.passed.getLsbD k = true ∧ (task id).qlist.getLsbD k = false))) ∧
    (((booting id).pkg.boot.passed.getLsbD 0 = true ∧ (booting id).qlist.getLsbD 0 = false) ∨ (booting id).qlist.getLsbD 0 = true) := by
  refine ⟨by cases Config.storeFails _ <;> simp, ?_, ?_⟩
  · intro k hk h
    have : (task id).pkg.boot.passed = 0 := by decide +kernel
    rw [this] at h
    simp at h
  · have : (booting id).pkg.boot.passed.getLsbD 0 = true := by decide +kernel
    rw [this]
    cases (booting id).qlist.getLsbD 0 <;> simp
/-- The image is one line that the ROM crew can read, and the store puts every slice and squad of a die in domain 0. -/
def sending : State :=
  let s := withPage (booting fun b => { found b with nlog := 2, msrc := 0x10000, mvbase := 0x40000, mlen := 128 }) 0x10000 sysPage
  { s with pkg := { s.pkg with inForce := [0xF0040, 0xF0080, 0xF00C0, 0xF0100].foldl (fun m a => m.writeN a 8 0x000FFFF1FFFFFFFF) [] } }
/-- On a part none of whose slices failed. -/
theorem met_Boot_image (whole : ∀ n, Config.sliceFails n = false) :
    (let b := sending.pkg.boot; b.fdone = true ∧ b.nlog = b.nans ∧ b.mlen ≠ 0 ∧ b.mlen ≤ 65536 ∧ b.mlen % 128 = 0 ∧ b.mvbase % 128 = 0 ∧ b.mbusy = false) ∧
    (sending.applyHashes [0, 1, 2, 3]).2 = true ∧ ((sending.applyHashes [0, 1, 2, 3]).1.readImage 0 0x10000 1).isSome = true := by
  simp only [State.applyHashes, State.hashValues, whole]
  decide +kernel
theorem met_Boot_host : (task id).pkg.pkgid < 0x7FF0 ∧ (task id).copies = [] ∧ Memory.wf [(5, 1)] = true ∧
    (booting fun b => { b with fbusy := true, closes := 5 }).clock < (booting fun b => { b with fbusy := true, closes := 5 }).pkg.boot.closes ∧
    ({ booting id with clock := 6 } : State).pkg.boot.closes < ({ booting id with clock := 6 } : State).clock ∧
    (booting id).pkg.boot.crew = some (booting id).cur.crew := by decide +kernel
theorem test_phys : (next (.physAssign 0 0x8001) (booting found)).map (fun t => ((t.crewAt 1).logical, t.pkg.boot.nlog)) = some (some 0, 1) := by decide +kernel
theorem test_ack : (next (.multicastAck 1) (booting fun b => { found b with mbusy := true, mvbase := 0x40000, nlog := 1, acking := [1] })).map
    (fun t => ((t.crewAt 1).thvec, t.pkg.boot.mbusy)) = some (0x40000, false) := by decide +kernel
theorem test_finish : (next .finish (booting fun b => { found b with nlog := 2, acks := 2 })).map (fun t => (t.pkg.fields.booted, mget 0 t.pkg.msi 16)) = some (true, 1) := by
  decide +kernel
theorem test_reset_release : (next .powerOnReset (managed 2)).map (fun t => (t.crews, t.events, t.pkg.mgmt.owner)) = some ([], [.railSettled .auxiliary], 7) := by decide +kernel

/-! Decoding, the step and its invariant. -/

theorem met_DecodeAndEncodeAgree : (Instr.addi 5 4 12).wellFormed = true ∧ encode (.addi 5 4 12) = some 0x0851000C ∧ decode 0x0851000C = .ok (.addi 5 4 12) :=
  ⟨by decide +kernel, by decide +kernel, eq_of_okIs (by decide +kernel)⟩
/-- The state in which the next step runs a word. -/
def placed (w : Nat) : State := (task id).withFetchWord 32 w
theorem met_StepRunsDecoded : (placed 0x0851000C).events = [] ∧ (placed 0x0851000C).tickOn.dueTimer = none ∧
    ((placed 0x0851000C).tickOn.issue ctx0).asyncFault ctx0 = none ∧ ((placed 0x0851000C).tickOn.issue ctx0).mayInterrupt ctx0 = false ∧
    (placed 0x0851000C).tickOn.nextContext = some ctx0 ∧ ((placed 0x0851000C).tickOn.issue ctx0).taskMode = true ∧
    ((placed 0x0851000C).tickOn.issue ctx0).cx.boot = false ∧
    (mget? (((placed 0x0851000C).tickOn.issue ctx0).crewAt 0).icache (codeKey 1 (0x1000 / 128))).isSome = true ∧
    (task id).events = [] ∧ { State.reset with events := [] }.tickOn.nextContext = none ∧ State.reset.events = [.powerOnReset] := by decide +kernel
def stepped (s : State) : Option State := match step s with | .next t => some t | _ => none
theorem test_step_addi : (stepped (placed 0x0851000C)).map (fun t => (t.pc, t.X 5)) = some (0x1004, 12) := by decide +kernel
theorem test_step_not_an_instruction : (stepped (placed 0xFFFFFFFF)).map (fun t => (t.cx.trap.tcause, t.cx.trap.tval)) = some (0, 0xFFFFFFFF) := by decide +kernel
theorem met_MemoryStaysCanonical : State.reset.MemWf ∧ (stepped State.reset).isSome = true := ⟨(by decide +kernel : Memory.wf _ = true), by decide +kernel⟩
theorem test_decodeTableWord : decodeTableWord 32 0x0851000C = some (.addi 5 4 12) := by decide +kernel

/-! States that meet the hypotheses of single clauses. -/

/-- A join of line 400H on its way, as a slice holds it. -/
def heldJoin : HeldJoin := { agent := 5, line := 0x400, join := joinMsg .maxu 5, owed := some 3 }
def holds (s : State) : State := { s with heldJoins := [heldJoin] }
theorem met_TrapEntry_retires : ((task deep).ctxAt ctx0).record ≠ 0 ∧ (task deep).splitsLacks 0 = false ∧ (logging full (task deep)).splitsLacks 0 = true ∧
    ((task deep).updCtx ctx0 fun c => { c with record := 0 }).cx.record = 0 := by decide +kernel
theorem met_TrapReturn_taskless : (let s := (task (returning 1)).updCtx ctx0 fun c => { c with record := 0, trap := { c.trap with tepc := 2 } }
      s.cx.depth = 1 ∧ s.cx.record = 0 ∧ s.cx.trap.tepc.toNat % 4 ≠ 0) ∧
    (handler fun c => { c with cnt := { c.cnt with stores := 1 } }).cx.cnt.stores ≠ 0 ∧ (handler id).cx.vq = [] ∧ (handler id).cx.cnt.stores = 0 := by
  decide +kernel
theorem met_LaneClaims_queue : (task fun c => { c with vq := [{ flags := 0, isLoad := true }] }).cx.vq ≠ [] ∧
    (task fun c => { c with vq := [{ flags := 0, isLoad := true }] }).cx.vq.length < 16 ∧
    ¬(task fun c => { c with vq := List.replicate 16 { flags := 0, isLoad := false } }).cx.vq.length < 16 := by decide +kernel
theorem met_Loads_free : (reader latPage id).lineBusy (lineOf 0x20008) = false ∧ (reader coldPage id).lineBusy (lineOf 0x20008) = false ∧
    (holds (reader latPage id)).lineBusy (lineOf 0x20008) = true := by decide +kernel
theorem met_AccessTraps_lanes : (∃ s1, calm.LanesReady s1) ∧ (calm.X 10 + BitVec.ofNat 64 (4 * 0)).toNat % 4 = 0 ∧
    ((calm.upd fun c => c.setX 10 0x10002).X 10 + BitVec.ofNat 64 (4 * 63)).toNat % 4 ≠ 0 ∧
    (∃ c t, (calm.upd fun c => c.setX 10 0x80000).translate (.vld 6 10 0) .load 0x80000 = .error (c, t)) :=
  ⟨⟨(calm.implicitClaim).getD calm, by decide +kernel, by decide +kernel⟩, by decide +kernel, by decide +kernel,
   ⟨0x91, 0x80000, eq_of_errIs (by decide +kernel)⟩⟩
/-- What a load leaves: its crew's L1 holds the line. -/
def after1 : State := (next (.ld 8 10 0 3) calm).getD calm
theorem met_AccessChecks_l1 : after1.l1Leaf after1.cur.crew 0x10008 (Use.need .load) ≠ none ∧
    (calm.l1Leaf calm.cur.crew 0x80000 (Use.need .load) = none ∧ errIs (calm.leafFor (calm.sliceFor calm.cur.crew 0x80000) 0x80000 (Use.need .load)) 1 = true) := by
  decide +kernel

/-! Lattice lines and vectors. -/

def joining : State := growing maxu32 id
theorem met_Joins_completes : (0x10008 : Word).toNat % 4 = 0 ∧ okIs (joining.translate (.join 10 11 0 2 0) .join 0x10008) (latPage, joining) = true ∧
    joining.cx.cnt.stores = 0 ∧ joining.busyAt latPage 0x10008 = false ∧ okIs (joining.latticeAt latPage 0x10008) 0x400 = true ∧
    (joining.metaOf 0x400).type = (0 : BitVec 3).setWidth 4 ∧ (joining.metaOf 0x400).width = 2 ∧ (joining.metaOf 0x400).frozen = false ∧
    joining.lineBusy 0x400 = false ∧ splitsJoins (joining.crewAt (loggingCrew (joining.sliceFor 0 0x10008))).splitctl = false := by decide +kernel
theorem met_ThresholdReads_free : idleTask.lineBusy 0x400 = false ∧ (lined LineMeta.fresh 128).lineBusy 0x400 = false := by decide +kernel
theorem met_FenceAndWait_tags : (∀ p ∈ (task id).cx.tags, p.1 = (task id).cx.tag ∨ p.2.sent = p.2.arrived) ∧
    ¬(∀ p ∈ counting.cx.tags, p.1 = counting.cx.tag ∨ p.2.sent = p.2.arrived) ∧ counting.cx.answer = none ∧ counting.cx.cancelled = false ∧
    (task fun c => { c with answer := some 0, hostWrites := 1 }).cx.answer ≠ none ∧
    (task fun c => { c with answer := some 0, hostWrites := 1 }).cx.hostWrites ≠ 0 ∧ (4 : BitVec 3) ≠ 0 := by decide +kernel
theorem cached_at (s : State) (u : Use) (va : Word) (p : Nat) (q : Leaf → Prop) (l : Leaf) (h : va.toNat < 2 ^ 55)
    (n : s.requestsHeld s.cur.crew = false)
    (a : mget? s.leaves (leafKey (s.sliceFor s.cur.crew va) va) = some l ∧ permits u.need l.rd l.wr l.ex = true ∧
      pageVerdict u l.kind s.taskMode = none ∧ l.sbank = false ∧ s.place (l.addr va) = .device p)
    (hq : q l ∧ q (lineLeaf p l.kind l.rd l.wr l.ex)) (b : s.copies = []) (c : s.place p = .device p) (d : p % 128 = va.toNat % 128) :
    s.Cached u va p q :=
  ⟨h, n, ⟨l, a.1, a.2.1, a.2.2, hq⟩, fun _ hx => (nomatch (b ▸ hx : _ ∈ ([] : Map Copy))), c, d⟩
theorem met_VectorMemory_cached : ∀ j < 64, vmem.active 1 j = true → (0x10000 + BitVec.ofNat 64 (4 * j)).toNat % 4 = 0 ∧
    vmem.Cached .load (0x10000 + BitVec.ofNat 64 (4 * j)) (0x20000 + 4 * j) (fun _ => True) ∧
    vmem.Cached .store (0x10000 + BitVec.ofNat 64 (4 * j)) (0x20000 + 4 * j) (fun _ => True) ∧
    vmem.slotGuarded (lineOf (0x20000 + 4 * j)) = false := by
  have h : ∀ j < 64, vmem.active 1 j = true → j = 1 ∨ j = 2 := by decide +kernel
  intro j hj ha
  rcases h j hj ha with rfl | rfl <;>
    exact ⟨by decide, cached_at _ _ _ _ _ page (by decide) (by decide +kernel) (by decide +kernel) ⟨trivial, trivial⟩ rfl (by decide +kernel) (by decide),
      cached_at _ _ _ _ _ page (by decide) (by decide +kernel) (by decide +kernel) ⟨trivial, trivial⟩ rfl (by decide +kernel) (by decide),
      by decide +kernel⟩
theorem met_VectorLines_joins : (∃ j < 32, vlat.active 1 (32 * 0 + j) = true) ∧ ¬(∃ j < 32, vlat.active 1 (32 * 1 + j) = true) ∧
    vlat.cx.cnt.stores = 0 ∧ vlat.Cached .join 0x10000 0x20000 (fun _ => True) ∧ vlat.lineBusy (lineOf 0x20000) = false ∧
    (vlat.metaOf (lineOf 0x20000)).type = (0 : BitVec 3).setWidth 4 ∧ (vlat.metaOf (lineOf 0x20000)).width = 2 ∧
    (vlat.metaOf (lineOf 0x20000)).frozen = false :=
  ⟨⟨1, by decide, by decide +kernel⟩, by decide +kernel, by decide +kernel,
   cached_at _ _ _ _ _ latPage (by decide) (by decide +kernel) (by decide +kernel) ⟨trivial, trivial⟩ rfl (by decide +kernel) (by decide),
   by decide +kernel, by decide +kernel, by decide +kernel, by decide +kernel⟩
theorem met_VectorLines_exact : vcold.Cached .exact 0x10000 0x20000 (fun k =>
      (k.kind = 3 ∨ (vcold.metaOf 0x400).frozen = true ∨ ((vcold.metaOf 0x400).type = 6 ∧ (vcold.metaOf 0x400).filled = true)) ∧
      ∀ j < 32, vcold.place (k.addr (0x10000 + BitVec.ofNat 64 (4 * j))) = .device (0x20000 + 4 * j)) ∧
    vcold.lineBusy (lineOf 0x20000) = false :=
  ⟨cached_at _ _ _ _ _ coldPage (by decide) (by decide +kernel) (by decide +kernel) ⟨⟨.inl rfl, by decide +kernel⟩, ⟨.inl rfl, by decide +kernel⟩⟩ rfl (by decide +kernel) (by decide),
   by decide +kernel⟩

/-! Tiles and tasks. -/

/-- An input whose map is a gather by the tile of t3. -/
def gathering : State := tiled fun c => c.setMap 1 { kind := 5, param := 3, index := 0x80000002 }
theorem met_NodeRecording_gather : (gathering.cx.mapOf 1).kind = 5 ∧ gathering.Usable (gathering.cx.mapOf 1).index ∧ gathering.NodeRoom 0 :=
  ⟨by decide +kernel, .inl (by decide +kernel), ⟨by decide +kernel, by decide +kernel, by decide +kernel, by decide +kernel, by decide +kernel, fun i h => by omega⟩⟩
theorem met_NodeRoom_near : readAfar.cur = ctx0 ∧ (tiled id).age 0 ((tiled id).crewAt 0).cno = 0 ∧
    2 ^ 31 < ((tiled id).updCrew 0 fun k => { k with cno := 5 }).age 0 4 := by decide +kernel
/-- The crew that would hold record 1 is out. -/
def absent : State := { (runs0.updCrew 0 fun k => { k with swapped := true }) with homes := [(0x40C0, { crew := 0, yielded := false, waits := false, serial := 0 })] }
theorem met_RecordInstructions_swapped : absent.swappedFor 0x40C0 = some 0 ∧ runs0.swappedFor 0x40C0 = none := by decide +kernel
def stalledTask (n : Nat) : State := runs0.updCtx ctx0 fun c => { c with st := .stalled, wait := some .answer, cnt := { c.cnt with stores := n } }
theorem met_RecordEvents_cancel : runs0.launchCancelled 0x40C0 = false ∧ (queued [ready2]).launchCancelled 0x4180 = false ∧
    ((queued [ready2]).crewAt 0).queue.entries.length ≤ 65 ∧ ((stalledTask 0).ctxAt ctx0).drained = true ∧ ((stalledTask 2).ctxAt ctx0).drained = false ∧
    (stalledTask 2).runner 0x4000 = some ctx0 ∧ ((stalledTask 0).ctxAt ctx0).st = .stalled ∧ ((stalledTask 0).ctxAt ctx0).depth = 0 ∧
    (runs0.ctxAt ctx0).ending = false := by decide +kernel
theorem test_cancel_drains : (next (.cancelDelivery 0x4000) (stalledTask 2)).map (fun t => (t.cx.wait, t.cx.record)) = some (some (.retiring false), 0x4000) := by
  decide +kernel
theorem met_Stealing_seeks : ((victim true).freeCtx 1 ≠ none ∧ ∀ q ∈ ((victim true).crewAt 1).queue.entries, (victim true).runs ((victim true).recordLaunch q.record) = false) ∧
    ((victim true).updCrew 1 fun k => { k with gated := true }).freeCtx 1 = none ∧
    (∃ v w rest, (((victim true).updCrew 1 fun k => { k with queue := { k.queue with victims := [0, 2] } }).crewAt 1).queue.victims = v :: w :: rest) := by
  refine ⟨⟨by decide +kernel, by decide +kernel⟩, by decide +kernel, 0, 2, [], by decide +kernel⟩

/-! Interrupts, crews and counts. -/

theorem met_Interrupts_may : (let c := (pendingCtx fun c => { c with pendSplits := true, wait := none }).ctxAt ctx0; c.st = .active ∧ c.wait = none) ∧
    (let c := ((pendingCtx id).updCtx ctx0 fun c => { c with st := .stalled, wait := some .answer }).ctxAt ctx0; c.st = .stalled ∧ c.ending = false) ∧
    (let c := ((pendingCtx id).updCtx ctx0 fun c => { c with st := .blocked, pendDbg := true }).ctxAt ctx0; c.st = .blocked ∧ c.pendDbg = true) ∧
    (let s := ((pendingCtx id).updCtx ctx0 fun c => { c with st := .free, pendDbg := true }).updCrew 0 fun k => { k with swapped := true };
      (s.ctxAt ctx0).st = .free ∧ (s.ctxAt ctx0).pendDbg = true ∧ (s.crewAt 0).swapped = true) ∧
    ((pendingCtx id).updCtx ctx0 fun c => { c with st := .stalled, wait := some (.retiring true) }).cx.ending = true ∧
    ((pendingCtx id).updCtx ctx0 fun c => { c with wait := some .settled }).cx.wait ≠ none ∧ ((pendingCtx id).crewAt 0).swapped = false ∧
    ((pendingCtx id).ctxAt ctx0).halted = false := by decide +kernel
/-- Every context of the crew waits. -/
def allStalled : State := logging full ((task id).updCrew 0 fun k => { k with ctxs := (List.range 32).map fun n => (n, { Ctx.fresh with st := .stalled, wait := some .answer }) })
theorem met_CrewControl_later : splitsFull? (allStalled.crewAt 0).splitctl = true ∧ (∀ p ∈ (allStalled.crewAt 0).ctxs, ¬(p.2.pendSplits = true ∨ p.2.inSplits = true)) ∧
    (∀ m < 32, (((allStalled.crewAt 0).ctxAt m).st ≠ .free ∧ ((allStalled.crewAt 0).ctxAt m).st ≠ .active) ∨ ((allStalled.crewAt 0).ctxAt m).stopped = true) ∧
    (∃ p ∈ ((logging full (handler fun c => { c with inSplits := true })).crewAt 0).ctxs, p.2.pendSplits = true ∨ p.2.inSplits = true) ∧
    (line9 .e).copyAt? (0x8000 + 0) 9 = none ∧ (9 : Nat) < 2 ^ 49 := by
  refine ⟨by decide +kernel, by decide +kernel, by decide +kernel, ⟨(0, (handler fun c => { c with inSplits := true }).ctxAt ctx0), by decide +kernel, by decide +kernel⟩,
    by decide +kernel, by decide⟩
def owed1 (parts host since : Nat) (tagged : Bool) : Owed := {
  id := 3, ctx := ctx0, record := some 0x2000, maker := .store 0, tagged := tagged, parts := parts, host := host, fails := .none, since := since }
def owes (o : Owed) : State := { task (fun c => { c with cnt := { c.cnt with stores := 1 }, hostWrites := o.host, tags := [(0, { sent := 1, arrived := 0 })] }) with
  owed := [o], clock := 1750000 }
theorem met_CountEvents_owed : (owes (owed1 1 0 0 true)).owed = [] ++ owed1 1 0 0 true :: [] ∧ (owed1 1 0 0 true).parts ≠ 0 ∧
    (owed1 1 0 0 true).since + 1750 * (owes (owed1 1 0 0 true)).pkg.fields.sto ≤ (owes (owed1 1 0 0 true)).clock ∧ (owes (owed1 1 0 0 true)).busyList = [] ∧
    (owes (owed1 1 0 0 true)).creditor (owed1 1 0 0 true) = some ctx0 ∧ (owes (owed1 1 0 0 true)).rollbackFor (owes (owed1 1 0 0 true)).cx.launchId = none ∧
    ¬((owed1 1 0 1 true).since + 1750 * (owes (owed1 1 0 1 true)).pkg.fields.sto ≤ (owes (owed1 1 0 1 true)).clock) ∧
    (owes (owed1 0 1 0 false)).creditor (owed1 0 1 0 false) = some ctx0 ∧ (owed1 0 1 0 false).host = 1 ∧ (owed1 0 1 0 false).parts = 0 ∧
    2 ≤ (owed1 0 2 0 false).host ∧ (owed1 1 1 0 false).parts ≠ 0 := by decide +kernel
theorem test_host_ack : (next (.hostWriteAck ctx0) (owes (owed1 0 1 0 false))).map (fun t => (t.owed, t.cx.cnt.stores, t.cx.hostWrites)) = some ([], 0, 0) := by
  decide +kernel

/-! Homes and launches. -/

/-- A slice's busy list at its bound. -/
def fullList : List (Nat × HomeRequest) := (List.range 4096).map fun _ => (0x400, .freeze)
theorem met_HomeRequests_busy : (holds (homed maxu32 [])).lineBusy 0x400 = true ∧ (homed maxu32 []).lineBusy 0x400 = false ∧
    (mget [] (holds (homed maxu32 [])).busyList (homeOf 0x400)).length < 4096 ∧
    (homed LineMeta.fresh []).slotGuarded 0x400 = false ∧ mget [] (homed maxu32 []).retry 3 = [] ∧
    mget [] { homed maxu32 [] with retry := [(3, [(0x400, .freeze)])] }.retry 3 = [(0x400, .freeze)] := by decide +kernel
theorem met_HomeRequests_full : 4096 ≤ (mget [] { holds (homed maxu32 []) with busyList := [(homeOf 0x400, fullList)] }.busyList (homeOf 0x400)).length := by
  have h : mget [] { holds (homed maxu32 []) with busyList := [(homeOf 0x400, fullList)] }.busyList (homeOf 0x400) = fullList := by
    simp [mget, mget?]
  rw [h]; exact Nat.le_of_eq (by rw [fullList, List.length_map, List.length_range])
theorem met_HomeRequests_guarded : (task id).slotGuarded (lineOf ((task id).windowBase + 0x1000)) = true ∧
    (task id).slotGuarded (lineOf ((task id).windowBase + 0xFFFF)) = true := by decide +kernel
theorem met_HomeRequests_dieWalk : okIs ((identity [] (task id)).dieWalk 0 0x4000 needNone)
      { pa := 0, span := 2 ^ 42, kind := 0, rd := true, wr := true, ex := false, hb := false, log := false, sbank := false } = true ∧
    errIs ((task id).dieWalk 0 0x4000 needNone) 1 = true ∧ mget? calm.leaves (leafKey (calm.sliceFor 0 0x10008) 0x10008) ≠ none := by decide +kernel
theorem test_busy_waits : (next (.homeRead 6 0x400) (holds (homed maxu32 []))).map (fun t => mget [] t.busyList (homeOf 0x400)) = some [(0x400, .read 6)] := by
  decide +kernel
theorem met_LaunchEvents_dep : ((launching { held1 with depDead := true }).slotAt 3).depDead = true ∧ ((launching held1).slotAt 3).depDead = false ∧
    ((launching held1).slotAt 3).job ∉ (launching held1).pkg.recovery.out ∧ (launching held1).pkg.recovery.busy = false ∧
    (recovering true []).pkg.recovery.active = ((recovering true []).slotAt 3).job ∧
    (∃ k ∈ (dead.slotAt 3).crews, (logging full dead).splitsLacks k = true) ∧ (∀ k ∈ (dead.slotAt 3).crews, dead.splitsLacks k = false) := by decide +kernel
/-- A splits event of the launch that waits. -/
theorem met_LaunchEvents_busy : ∃ k ∈ ((launching { launch1 with taken := [] }).slotAt 3).crews,
    ∃ e ∈ (((launching { launch1 with taken := [] }).updCrew 0 fun k => { k with splitsHeld := [(10, 0, 0, 1)] }).crewAt k).splitsHeld,
      ((launching { launch1 with taken := [] }).slotAt 3).splitsEvent e = true := ⟨0, by decide +kernel, (10, 0, 0, 1), by decide +kernel, by decide +kernel⟩
/-- The job's last phase is done; its counter, at 8000H, holds `n`. -/
def lastPhase (n : Nat) : State :=
  let s := identity [(0x8000, 4, n)] (task id)
  { s with pkg := { s.pkg with jobs := [(7, {
      phase := 2, nphase := 3, phases := [(2, phase (3, launch1.image + 0x8000 * 256 ^ 0x80) 0 true)], graphs := [], gcancels := [], cancelled := false, resets := [] })] } }
theorem met_LaunchEvents_job : (((lastPhase 3).jobAt 7).phaseAt 2).done = true ∧ (lastPhase 3).nextPhase 7 = none ∧ ((lastPhase 3).jobAt 7).resets = [] ∧
    (lastPhase 3).counter 0x8000 0 = 3 ∧ (lastPhase 2).counter 0x8000 0 = 2 ∧ imageField (launch1.image + 0x8000 * 256 ^ 0x80) 0x80 8 = 0x8000 := by decide +kernel
theorem met_Recovery_parts : (let s := recovering false [7]
    let t := s.updRecovery fun r => { r with parts := [(7, 0)] };
    (t.pkg.recovery.job, 0) ∈ t.pkg.recovery.parts ∧ t.pkg.recovery.job ∈ t.pkg.recovery.out ∧ t.pkg.recovery.busy = false) := by decide +kernel

/-! Copies, collectives and the engines. -/

theorem met_Copies_own : (∃ p ∈ (waitingColl true false).crews, ∃ x, mget? p.2.colls 2 = some x ∧ x.record = (waitingColl true false).cx.record ∧
      (waitingColl true false).roundOpen 2 x = true) ∧
    (∃ p ∈ (waitingColl false true).crews, ∃ x, mget? p.2.colls 2 = some x ∧ (x.bad = true ∧ x.record = (waitingColl false true).cx.record)) ∧
    (waitingColl false true).ownRoundOpen 0x2000 2 = false ∧ (waitingColl false false).ownRoundOpen 0x2000 2 = false ∧
    ((mget? ((waitingColl false false).crewAt 0).colls 2).map CollSlot.owing) = some [] := by
  refine ⟨?_, ?_, by decide +kernel, by decide +kernel, by decide +kernel⟩
  · refine ⟨(0, (waitingColl true false).crewAt 0), by decide +kernel, _, rfl, by decide +kernel, by decide +kernel⟩
  · refine ⟨(0, (waitingColl false true).crewAt 0), by decide +kernel, _, rfl, by decide +kernel, by decide +kernel⟩
theorem met_EngineSteps_owed : ({ copyQueued (.global 0x10000) false 64 64 with owed := [{ owed1 1 0 0 false with maker := .copy 1 }] } : State).engineOwed 0x2000 (.copy 1) = true ∧
    (copyQueued (.global 0x10000) false 64 64).engineOwed 0x2000 (.copy 1) = false ∧ (copyQueued (.global 0x10000) false 64 64).ownerRecord ctx0 = 0x2000 ∧
    ({ writing [] with owed := [{ owed1 1 0 0 false with maker := .writeOut }] } : State).engineOwed 0x2000 .writeOut = true ∧
    (writing []).engineOwed 0x2000 .writeOut = false := by decide +kernel
def follow (out : Tile) (bf : Word) : State := (copyQueued (.tile 0x80000001) true 64 64).updCrew 0 fun k => { k with
  tiles := mput k.tiles 4 out, bfmt := [(1, 12), (2, bf)] }
def following : State := copyQueued (.tile 0x80000001) true 64 64
theorem met_EngineSteps_passes : (head following).pass = 0 ∧ (following.tileAt 0 4).gen = hGen (head following).fout ∧ (following.tileAt 0 4).alloc = true ∧
    bfScale (following.bankFmt 0 (following.tileAt 0 (hSlot (head following).fout)).bank) = 0 ∧
    (∀ m ∈ ((collecting id).slotAt 3).crews, ((collecting id).crewAt m).swapped = false) := by decide +kernel
theorem follow_input (e : CopyEntry) (r : Word) (l h : BitVec 32) (p : Nat) : mget? (e.followOn r l h).ins (p + 3) = none := by
  simp only [CopyEntry.followOn]
  split <;> cases hValid e.facc <;> simp [mget?]
theorem follow_goes (s : State) (c : CtxId) (e : CopyEntry) (h : BitVec 32)
    (clean : ∀ p, (s.inView c.crew (e.followOn (s.ownerRecord c) (BitVec.ofNat 32 (s.ownerLaunch c)) h) p).tile.bad = [] ∧
      (s.inView c.crew (e.followOn (s.ownerRecord c) (BitVec.ofNat 32 (s.ownerLaunch c)) h) p).index.bad = []) :
    ∃ x, s.followPass c e h = .ok x ∧ x.pass = e.pass + 1 := by
  have keep : ∀ (l : List (Nat × Nat)) (f : CopyEntry → Nat × Nat → Num × Flags) (x : CopyEntry),
      (l.foldl (fun (e : CopyEntry) p => { e with stage := mput e.stage (64 * p.1 + p.2) (f e p).1, flags := e.flags ||| (f e p).2 }) x).pass = x.pass := by
    intro l f
    induction l with
    | nil => intro x; rfl
    | cons a r ih => intro x; rw [List.foldl_cons, ih]
  simp only [State.followPass, clean_read _ _ _ _ clean]
  exact ⟨_, rfl, keep _ (fun e p => s.elemVal c.crew _ e.sys p.1 p.2) _⟩
theorem met_EngineSteps_pass : ∃ x, following.followPass ctx0 (head following) 0x80000001 = .ok x ∧ x.pass = (head following).pass + 1 := by
  refine follow_goes _ _ _ _ fun p => ?_
  rcases p with _ | _ | _ | p
  · decide +kernel
  · decide +kernel
  · decide +kernel
  · unfold State.inView
    rw [follow_input]
    decide +kernel
def scaledFollow : State := follow (slot .filling 0x2000 2 0) 0x14
theorem met_EngineSteps_staging : bfScale (scaledFollow.bankFmt 0 (scaledFollow.tileAt 0 (hSlot (head scaledFollow).fout)).bank) ≠ 0 ∧
    (head scaledFollow).staged = false ∧ (scaledFollow.crewAt 0).stagingUsed < 4 := by decide +kernel

/-! The control space, links and the step. -/

theorem met_Mappings_held : (∃ h ∈ (holds (withTransl (fun t => { t with busy := true, range := (0x10000, 0x20000) }) (task id))).heldJoins,
      h.join.fromHost = false ∧ 0x10000 ≤ h.join.va.toNat ∧ h.join.va.toNat < 0x20000) ∧
    ¬(∃ h ∈ (task id).heldJoins, h.join.fromHost = false) ∧ (withTransl (fun t => { t with busy := true, flip := true }) (task id)).pkg.transl.flip = true ∧
    (task id).pkg.bias.next = none := by
  refine ⟨⟨heldJoin, by decide +kernel, by decide +kernel⟩, by decide +kernel, by decide +kernel, by decide +kernel⟩
/-- The code page is a system page; and one that is not mapped. -/
def codeOn (l : Leaf) : State := withPage (task id) 0x1000 { l with ex := true }
def unmapped : State := (task id).upd fun c => { c with pc := 0x2000 }
theorem met_StepRunsDecoded_fetch : (match (codeOn sysPage).fetch with | .privileged _ _ => true | _ => false) = true ∧
    (match unmapped.fetch with | .failed 1 _ => true | _ => false) = true ∧ (placed 0x0851000C).cx.ending = false ∧
    ((placed 0x0851000C).tickOn.issue ctx0).pc.toNat < 2 ^ 55 := by decide +kernel
/-- Two control writes and a claim that stand together, after an event that is none. -/
def together : List Instr := [.claim 3, .registerWrite 1 0x100000 8 { value := 25, mask := 2 ^ 64 - 1 }, .accept 2]
theorem met_StepRunsDecoded_masters : together = [.claim 3] ++ .registerWrite 1 0x100000 8 { value := 25, mask := 2 ^ 64 - 1 } :: [.accept 2] ∧
    (∀ x ∈ [Instr.claim 3], ∃ k, masterOf x = some k ∧ 1 < k) ∧ (∀ x ∈ [Instr.accept 2], ∀ k, masterOf x = some k → 1 ≤ k) ∧
    masterOf (.claim 1) = some 1 ∧ masterOf .thermalShutdown = none := by decide
theorem test_lowest_master : (stepped { managed 2 with events := together }).map (fun t => (mget 0 t.pkg.mgmt.rejects 1, t.events)) =
    some (1, [.claim 3, .accept 2]) := by decide +kernel
theorem met_StepRunsDecoded_word : (match ((placed 0x0851000C).tickOn.issue ctx0).tries.fetch with | .word w _ => w == 0x0851000C | _ => false) = true ∧
    (match (changing (placed 0x0851000C)).tries.fetch with | .waits _ => true | _ => false) = false ∧
    (match (changing unmapped).fetch with | .waits _ => true | _ => false) = true := by decide +kernel

/-! A park. -/

/-- The task has record 4000H, and its line lies apart from it. -/
def parking : State := { identity [] (idleTask.updCtx ctx0 fun c => { c with record := 0x4000 }) with slots := [] }
theorem ident_parking : Ident parking := ⟨by decide +kernel, by decide +kernel, by decide +kernel, by decide +kernel⟩
theorem met_ThresholdReads_park : parking.RecordsAt [(parking.cx.record, 0x4000)] ∧ (∀ o < 192, lineOf (0x4000 + o) ≠ 0x400) ∧
    parking.Reaches parking (.twait 8 10 12 0 2 0) .thresh 0x10008 latPage 0x20008 ∧ Machine.answer .maxu 2 2 [0x66000000] (parking.latLine 0x400) false = none ∧
    parking.cx.drained = true ∧ parking.writesOut parking.cx.record = false ∧ parking.cx.depth = 0 ∧ splitsOn (parking.crewAt 0).splitctl = false ∧
    parking.holdsTiles parking.cur = false ∧ parking.copiesOf 0x400 = [] ∧ parking.watches = [] ∧ parking.AwaitsNothing parking.cur := by
  refine ⟨ident_parking.recordsOn _ (by decide +kernel : Memory.wf _ = true) (fun _ => rfl) ?_ (fun x hx => ?_) (List.pairwise_singleton _ _),
    fun o h => by simp only [lineOf]; omega, ⟨eq_of_okIs (by decide +kernel), by decide +kernel, by decide +kernel, by decide +kernel⟩,
    by decide +kernel, by decide +kernel, by decide +kernel, by decide +kernel, by decide +kernel, by decide +kernel, by decide +kernel, by decide +kernel,
    ⟨fun _ h => (nomatch h), fun _ h => (nomatch h), fun _ h => (nomatch h)⟩⟩
  · intro x hx o ho
    rw [List.mem_singleton] at hx
    subst hx
    have l : lineOf (0x4000 + o) = 0x80 ∨ lineOf (0x4000 + o) = 0x81 := by simp only [lineOf]; omega
    rcases l with e | e <;> rw [e] <;> decide +kernel
  · rw [List.mem_singleton] at hx
    subst hx
    exact ⟨by decide, by decide +kernel, by decide⟩
end Sys2Proof.Machine.Tests
end

namespace Sys2Proof.Machine

/-! Writes of a CSR (R153–R155, R363). -/

/-- An update of the issuing context by its present value, and then sequential execution (R149). -/
theorem State.close_ok_upd (s : State) (g : Ctx → Ctx) :
    (Res.ok .seq (s.upd fun _ => g s.cx)).close = .next (s.upd fun c => (g c).advance .seq) := by
  rw [Res.close_ok, State.upd_upd, State.upd_eq_const s fun c => (g c).advance .seq]

section
variable {s : State} {i : Instr} {n : Nat} {f : Word → Word} {r : Csr}

/-- A write of an assigned CSR that passes the checks of R154. -/
theorem State.csrWrite_allowed (hr : csrOf n = some r) (hw : r.readOnly = false) (hm : n < 0x800 ∨ s.cx.depth ≠ 0) :
    s.csrWrite i n f = (s.beforeCsr r).csrPut r (f ((s.beforeCsr r).csr s.cur r)) := by
  have hp : (s.taskMode && decide (0x800 ≤ n)) = false := by
    rcases hm with h | h <;> simp [State.taskMode, h]
  simp [State.csrWrite, csrCheck, hp, hr, hw]

/-- A write of a CSR that changes the issuing context alone. -/
theorem State.csrWrite_close_of_ctx (g : Ctx → Ctx) (hr : csrOf n = some r) (hw : r.readOnly = false) (hm : n < 0x800 ∨ s.cx.depth ≠ 0)
    (hput : (s.beforeCsr r).csrPut r (f ((s.beforeCsr r).csr s.cur r)) = .ok .seq (s.upd fun _ => g s.cx)) :
    (s.csrWrite i n f).close = .next (s.upd fun c => (g c).advance .seq) := by
  rw [State.csrWrite_allowed hr hw hm, hput, State.close_ok_upd]

end

/-! The refusals of `HASHCTL` (R363). -/

theorem extractLsb'_eq_zero_iff {w : Nat} (v : BitVec w) (o k : Nat) : v.extractLsb' o k = 0 ↔ v.toNat / 2 ^ o % 2 ^ k = 0 := by
  rw [BitVec.toNat_eq, BitVec.extractLsb'_toNat, Nat.shiftRight_eq_div_pow]
  rfl

/-- A squad is in the union of some domains' squads when one of them has it. -/
theorem getLsbD_foldl_squads (l : Map Domain) (b : BitVec 16) (q : Nat) :
    (l.foldl (fun q p => q ||| p.2.squads) b).getLsbD q = (b.getLsbD q || l.any fun p => p.2.squads.getLsbD q) := by
  induction l generalizing b with
  | nil => simp
  | cons p r ih => rw [List.foldl_cons, ih, BitVec.getLsbD_or, List.any_cons, Bool.or_assoc]

/-- The domains leave a squad out when some squad of the sixteen is in none of them. -/
theorem squads_ne_allOnes_iff (l : Map Domain) :
    l.foldl (fun q p => q ||| p.2.squads) (0 : BitVec 16) ≠ BitVec.allOnes 16 ↔ ∃ q < 16, ∀ p ∈ l, p.2.squads.getLsbD q = false := by
  have union : ∀ q, (l.foldl (fun q p => q ||| p.2.squads) (0 : BitVec 16)).getLsbD q = l.any fun p => p.2.squads.getLsbD q := fun q => by
    rw [getLsbD_foldl_squads, show (0 : BitVec 16).getLsbD q = false from BitVec.getLsbD_zero, Bool.false_or]
  have every : l.foldl (fun q p => q ||| p.2.squads) (0 : BitVec 16) = BitVec.allOnes 16 ↔
      ∀ q < 16, (l.any fun p => p.2.squads.getLsbD q) = true := by
    rw [BitVec.eq_of_getLsbD_eq_iff]
    refine forall₂_congr fun q hq => ?_
    rw [union, BitVec.getLsbD_allOnes, decide_eq_true hq]
  rw [ne_eq, every, Classical.not_forall]
  refine exists_congr fun q => ?_
  rw [Classical.not_imp, Bool.not_eq_true, List.any_eq_false]
  simp only [Bool.not_eq_true]

/-- The domain that a write of `HASHCTL` names has the squads that it names. -/
theorem domainsAfter_named (d : Domain) (ds : Map Domain) (v : Word) :
    (mget d (domainsAfter ds v) (v.extractLsb' 33 3).toNat).squads = v.extractLsb' 36 16 := by
  rw [domainsAfter, mget_mput_same]

theorem hashctlRefused_iff (ds : Map Domain) (v : Word) :
    hashctlRefused ds v = true ↔ v.toNat / 2 ^ 53 ≠ 0 ∨ (∃ p ∈ domainsAfter ds v, p.2.squads ≠ 0 ∧ p.2.members = 0) ∨
      (v.toNat % 2 ^ 32 ≠ 0 ∧ v.toNat / 2 ^ 36 % 2 ^ 16 = 0) ∨ ∃ q < 16, ∀ p ∈ domainsAfter ds v, p.2.squads.getLsbD q = false := by
  have high : v.toNat / 2 ^ 53 % 2 ^ 11 = v.toNat / 2 ^ 53 := Nat.mod_eq_of_lt (by have := v.isLt; omega)
  simp only [hashctlRefused, Bool.or_eq_true, Bool.and_eq_true, decide_eq_true_eq, List.any_eq_true, ne_eq, domainsAfter_named,
    extractLsb'_eq_zero_iff, high, Nat.pow_zero, Nat.div_one, or_assoc]
  rw [← squads_ne_allOnes_iff]

/-- `FPFLAGS` is written once the flags of the earlier vector instructions are in it (R155). -/
theorem State.csrPut_fpflags (s : State) (f : Word → Word) :
    (s.upd Ctx.drainVec).csrPut .fpflags (f ((s.upd Ctx.drainVec).csr s.cur .fpflags)) = .ok .seq (s.upd fun _ =>
      { s.cx.drainVec with fp := { s.cx.drainVec.fp with fpflags := f s.cx.drainVec.fp.fpflags &&& fpflagsMask } }) := by
  have read : (s.upd Ctx.drainVec).csr s.cur .fpflags = s.cx.drainVec.fp.fpflags := congrArg (fun c => c.fp.fpflags) (State.cx_upd s _)
  rw [read, State.csrPut, State.upd_upd, State.upd_eq_const]

/-- Outside task mode a stall is no point of cancellation (R49): the context stalls. -/
theorem Res.close_wait_system (w : Wait) (s : State) (h : s.cx.depth ≠ 0) :
    (Res.wait w s : Res Next).close = .next (s.upd fun c => c.stall w) := by
  simp [Res.close, Res.finish, h]

/-- The write goes on once its change is complete (R365). -/
theorem State.csrPut_hashctl_answered {s : State} (v : Word) (ha : s.cx.answer ≠ none) :
    (s.csrPut .hashctl v).close = .next (s.upd fun c => ({ c with answer := none } : Ctx).advance .seq) := by
  simp [State.csrPut, Option.isSome_iff_ne_none.2 ha]

/-- A refused value traps (R363). -/
theorem State.csrPut_hashctl_refused {s : State} {v : Word} (ha : s.cx.answer = none)
    (h : hashctlRefused (s.dieAt (crewDie s.cur.crew)).domains v = true) :
    (s.csrPut .hashctl v).close = .next (s.enterTrap s.cur 0x0A v s.pc 0 false) := by
  rw [State.csrPut, ha, if_neg nofun, if_pos h, Res.close_trap _ _ _ (by decide)]

/-- Any other value is sent to the die's control port, and its context stalls (R365). -/
theorem State.csrPut_hashctl_sent {s : State} {v : Word} (hd : s.cx.depth ≠ 0) (ha : s.cx.answer = none)
    (h : ¬hashctlRefused (s.dieAt (crewDie s.cur.crew)).domains v = true) :
    (s.csrPut .hashctl v).close = .next (((s.updDie (crewDie s.cur.crew) fun d => { d with owners := d.owners ++ [s.cur] }).push
      (.hashctlWrite (crewDie s.cur.crew) v)).upd fun c => c.stall .domain) := by
  rw [State.csrPut, ha, if_neg nofun, if_neg h]
  exact Res.close_wait_system _ _ hd

/-- The bits of `TSTATUS` after a write (R386): DEPTH is kept, the pending bits are 0, and every other bit is the one written. -/
theorem getLsbD_tstatusWritten (v t : Word) (j : Nat) (hj : j < 64) :
    ((v &&& ~~~(0x70003#64)) ||| (t &&& 3#64)).getLsbD j =
      if j < 2 then t.getLsbD j else if 16 ≤ j ∧ j ≤ 18 then false else v.getLsbD j := by
  have cleared : ∀ k < 64, (~~~(0x70003#64)).getLsbD k = !(decide (k < 2) || decide (16 ≤ k ∧ k ≤ 18)) := by decide
  have depth : ∀ k < 64, (3#64).getLsbD k = decide (k < 2) := by decide
  rw [BitVec.getLsbD_or, BitVec.getLsbD_and, BitVec.getLsbD_and, cleared j hj, depth j hj]
  by_cases h2 : j < 2
  · simp [h2]
  · by_cases h16 : 16 ≤ j ∧ j ≤ 18 <;> simp [h2, h16]

/-- The field RM of `FPCTL` (R31). -/
theorem roundingMode_toNat (v : Word) : (v.extractLsb' 0 3).toNat = v.toNat % 8 := by simp

theorem State.csrPut_fpctl_legal {s : State} {v : Word} (h : v.toNat % 8 ≤ 4) :
    s.csrPut .fpctl v = .ok .seq (s.upd fun c => { c with fp := { c.fp with fpctl := v &&& fpctlMask } }) := by
  rw [State.csrPut, roundingMode_toNat, if_neg (by omega)]

/-- A reserved RM traps (R31). -/
theorem State.csrPut_fpctl_reserved {s : State} {v : Word} (h : 5 ≤ v.toNat % 8) :
    (s.csrPut .fpctl v).close = .next (s.enterTrap s.cur 0x0A v s.pc 0 false) := by
  rw [State.csrPut, roundingMode_toNat, if_pos h, Res.close_trap _ _ _ (by decide)]

/-- Settles O10, CSR by CSR: each write is the rule of `State.csrPut` for the value formed. -/
theorem csrWrites : Obligations.CsrWrites := by
  unfold Obligations.CsrWrites
  intro s a n x forms sets e he
  have run : exec e.1 s = (s.csrWrite e.1 n.toNat e.2).close := by
    simp only [forms, List.mem_cons, List.not_mem_nil, or_false] at he
    obtain rfl | rfl | rfl := he <;> rfl
  obtain ⟨i, f⟩ := e
  clear he forms
  simp only [sets]
  rw [run]
  refine ⟨?fpctl, ?fpflags, ?k4lo, ?k4hi, fun hd => ⟨?tstatus, ?tcause, ?tval, ?tepc, ?tdpc, ?tscratch, ?thvec, ?splitctl, ?hashctl⟩⟩
  case fpctl =>
    rintro rfl
    refine ⟨fun h => ?_, fun h => ?_⟩
    · exact State.csrWrite_close_of_ctx (fun c => { c with fp := { c.fp with fpctl := f s.cx.fp.fpctl &&& 0x1FFF07 } })
        rfl rfl (.inl (by decide)) (State.csrPut_fpctl_legal h)
    · rw [State.csrWrite_allowed (r := .fpctl) rfl rfl (.inl (by decide))]
      exact State.csrPut_fpctl_reserved h
  case fpflags =>
    rintro rfl
    exact State.csrWrite_close_of_ctx
      (fun c => { c.drainVec with fp := { c.drainVec.fp with fpflags := f c.drainVec.fp.fpflags &&& 0x1F } })
      rfl rfl (.inl (by decide)) (State.csrPut_fpflags s f)
  case k4lo =>
    rintro rfl
    exact State.csrWrite_close_of_ctx (fun c => { c with fp := { c.fp with k4lo := f c.fp.k4lo } }) rfl rfl (.inl (by decide)) rfl
  case k4hi =>
    rintro rfl
    exact State.csrWrite_close_of_ctx (fun c => { c with fp := { c.fp with k4hi := f c.fp.k4hi } }) rfl rfl (.inl (by decide)) rfl
  case tstatus =>
    rintro rfl
    exact ⟨_, getLsbD_tstatusWritten (f s.cx.tstatus) s.cx.trap.tstatus, State.csrWrite_close_of_ctx
      (fun c => { c with trap := { c.trap with tstatus := (f s.cx.tstatus &&& ~~~(0x70003#64)) ||| (s.cx.trap.tstatus &&& 3#64) } })
      rfl rfl (.inr hd) rfl⟩
  case tcause =>
    rintro rfl
    exact State.csrWrite_close_of_ctx (fun c => { c with trap := { c.trap with tcause := f c.trap.tcause } }) rfl rfl (.inr hd) rfl
  case tval =>
    rintro rfl
    exact State.csrWrite_close_of_ctx (fun c => { c with trap := { c.trap with tval := f c.trap.tval } }) rfl rfl (.inr hd) rfl
  case tepc =>
    rintro rfl
    exact State.csrWrite_close_of_ctx (fun c => { c with trap := { c.trap with tepc := f c.trap.tepc } }) rfl rfl (.inr hd) rfl
  case tdpc =>
    rintro rfl
    exact State.csrWrite_close_of_ctx (fun c => { c with trap := { c.trap with tdpc := f c.trap.tdpc } }) rfl rfl (.inr hd) rfl
  case tscratch =>
    rintro rfl
    exact State.csrWrite_close_of_ctx (fun c => { c with trap := { c.trap with tscratch := f c.trap.tscratch } }) rfl rfl (.inr hd) rfl
  case thvec =>
    rintro rfl
    exact congrArg Res.close (State.csrWrite_allowed (r := .thvec) rfl rfl (.inr hd))
  case splitctl =>
    rintro rfl
    exact congrArg Res.close (State.csrWrite_allowed (r := .splitctl) rfl rfl (.inr hd))
  case hashctl =>
    rintro rfl
    rw [State.csrWrite_allowed (r := .hashctl) rfl rfl (.inr hd)]
    refine ⟨fun ha => ?_, fun ha hv => ?_, fun ha hv => ?_⟩
    · exact State.csrPut_hashctl_answered _ ha
    · exact State.csrPut_hashctl_refused ha ((hashctlRefused_iff _ _).2 hv)
    · exact State.csrPut_hashctl_sent hd ha (mt (hashctlRefused_iff _ _).1 hv)

end Sys2Proof.Machine

namespace Sys2Proof.Machine

/-! A load whose fill shows through in another line (R366, R376). -/

/-- An ordinary page whose leaf gives an address past the 56 bits of the physical space (R366): 2^56. -/
def pagePastSpace : Leaf where
  pa := 2 ^ 56
  span := 65536
  kind := 0
  rd := true
  wr := true
  ex := false
  hb := false
  log := false
  sbank := false

/-- Slice 0 caches that leaf for the page at 0, and the byte at 2^56 is 1. Line 0 is in M and names agent 1 as its owner, which holds no copy
of it, so that its latest data is memory's, 0. -/
def readsPastSpace : State :=
  { State.reset with
    leaves := [(0, pagePastSpace)]
    mem := [(2 ^ 56, 1)]
    lines := [(0, { LineMeta.fresh with hstate := hsM, holder := 1 })] }

theorem eq_ok_of_toOption {ε α : Type} {r : Except ε α} {a : α} (h : r.toOption = some a) : r = .ok a := by
  cases r with
  | ok x => exact congrArg _ (Option.some.inj h)
  | error e => cases h

theorem readsPastSpace_translates : readsPastSpace.translate (.ld 1 0 0 0) .load 0 = .ok (pagePastSpace, readsPastSpace) :=
  eq_ok_of_toOption (by decide +kernel)

/-- The load's access passes every hypothesis of the statement. -/
theorem readsPastSpace_reaches : readsPastSpace.Reaches readsPastSpace (.ld 1 0 0 0) .load 0 pagePastSpace (2 ^ 56) where
  translated := readsPastSpace_translates
  plain := rfl
  place := by decide +kernel
  clean := by decide +kernel

/-- A byte of memory after an instruction. -/
def byteAfter (pa : Nat) : Out → Option Byte
  | .next t => some (t.byteAt pa)
  | _ => none

theorem readsPastSpace_byte_before : readsPastSpace.byteAt 0 = 0 := by decide +kernel
theorem readsPastSpace_byte_after : byteAfter 0 (exec (.ld 1 0 0 0) readsPastSpace) = some 1 := by decide +kernel

/-- Refutes O20: nothing in the statement bounds the address a cached leaf gives by the 56 bits of R366. Past them a line's number outgrows
its 49 bits of a copy's key (`copyKey`), so that the copy that a byte load at 2^56 fills in slice 0 stands as agent 1's copy of line 0: the byte at
0 reads 0 before the load and 1 after it. -/
theorem not_loads : ¬Obligations.Loads := by
  unfold Obligations.Loads
  rintro ⟨scalar, -, -⟩
  obtain ⟨ld, -, -⟩ := scalar readsPastSpace readsPastSpace 1 0 0 0 pagePastSpace (2 ^ 56)
  obtain ⟨t, ran, loaded⟩ := ld (by decide) (by decide +kernel) readsPastSpace_reaches
  have same : t.byteAt 0 = 0 := (loaded.bytes 0 (by decide)).trans readsPastSpace_byte_before
  have changed : t.byteAt 0 = 1 := Option.some.inj ((congrArg (byteAfter 0) ran).symm.trans readsPastSpace_byte_after)
  rw [same] at changed
  exact absurd changed (by decide)

end Sys2Proof.Machine

namespace Sys2Proof.Machine

/-! The results of the scalar instructions as exact arithmetic (R136–R139). -/

/-- An instruction that writes a value to x(d), by another form of the value. -/
theorem State.runs_of_writesX {s : State} {i : Instr} {d : BitVec 6} {u v : Word} (h : exec i s = s.writesX d u) (e : u = v) :
    s.Runs i (s.GivesX d v) := by
  subst e
  obtain ⟨t, ran, gives⟩ := s.writesX_spec d u
  exact ⟨t, h.trans ran, gives⟩

theorem add_eq_ofInt (x y : Word) : x + y = BitVec.ofInt 64 (x.toInt + y.toInt) := by
  rw [BitVec.ofInt_add, BitVec.ofInt_toInt, BitVec.ofInt_toInt]

theorem sub_eq_ofInt (x y : Word) : x - y = BitVec.ofInt 64 (x.toInt - y.toInt) := by
  rw [Int.sub_eq_add_neg, BitVec.ofInt_add, BitVec.ofInt_neg, BitVec.ofInt_toInt, BitVec.ofInt_toInt, BitVec.sub_eq_add_neg]

theorem mul_eq_ofInt (x y : Word) : x * y = BitVec.ofInt 64 (x.toInt * y.toInt) := by
  rw [BitVec.ofInt_mul, BitVec.ofInt_toInt, BitVec.ofInt_toInt]

/-- The high half of a double word that encodes an exact value. -/
theorem extractLsb'_high_ofInt (z : Int) : (BitVec.ofInt 128 z).extractLsb' 64 64 = BitVec.ofInt 64 (z / 2 ^ 64) := by
  apply BitVec.eq_of_toNat_eq
  rw [BitVec.extractLsb'_toNat, Nat.shiftRight_eq_div_pow, BitVec.toNat_ofInt, BitVec.toNat_ofInt]
  omega

theorem mulHighS_eq_ofInt (x y : Word) : mulHighS x y = BitVec.ofInt 64 (x.toInt * y.toInt / 2 ^ 64) := by
  rw [mulHighS, BitVec.signExtend, BitVec.signExtend, ← BitVec.ofInt_mul, extractLsb'_high_ofInt]

theorem mulHighU_eq_ofNat (x y : Word) : mulHighU x y = BitVec.ofNat 64 (x.toNat * y.toNat / 2 ^ 64) := by
  rw [mulHighU, ← BitVec.ofNat_toNat, ← BitVec.ofNat_toNat, ← BitVec.ofNat_mul, ← BitVec.ofInt_natCast, extractLsb'_high_ofInt,
    ← BitVec.ofInt_natCast]
  rfl

/-- A choice of the lesser or the greater of two signed words. -/
theorem ite_slt {α : Type} (x y : Word) (u v : α) : (if y.slt x then v else u) = if x.toInt ≤ y.toInt then u else v := by
  simp only [BitVec.slt_eq_decide, decide_eq_true_eq, ← Int.not_le, ite_not]

theorem ite_ult {α : Type} (x y : Word) (u v : α) : (if y.ult x then v else u) = if x.toNat ≤ y.toNat then u else v := by
  simp only [BitVec.ult_eq_decide, decide_eq_true_eq, ← Nat.not_le, ite_not]

theorem ite_slt_lt {α : Type} (x y : Word) (u v : α) : (if x.slt y then u else v) = if x.toInt < y.toInt then u else v := by
  simp only [BitVec.slt_eq_decide, decide_eq_true_eq]

theorem ite_ult_lt {α : Type} (x y : Word) (u v : α) : (if x.ult y then u else v) = if x.toNat < y.toNat then u else v := by
  simp only [BitVec.ult_eq_decide, decide_eq_true_eq]

theorem shiftLeft_eq_ofNat (x : Word) (n : Nat) : x <<< n = BitVec.ofNat 64 (x.toNat * 2 ^ n) := by
  apply BitVec.eq_of_toNat_eq
  rw [BitVec.toNat_shiftLeft, Nat.shiftLeft_eq, BitVec.toNat_ofNat]

theorem ushiftRight_eq_ofNat (x : Word) (n : Nat) : x >>> n = BitVec.ofNat 64 (x.toNat / 2 ^ n) := by
  rw [← Nat.shiftRight_eq_div_pow, ← BitVec.toNat_ushiftRight, BitVec.ofNat_toNat, BitVec.setWidth_eq]

theorem sshiftRight_eq_ofInt (x : Word) (n : Nat) : x.sshiftRight n = BitVec.ofInt 64 (x.toInt / 2 ^ n) := by
  rw [BitVec.sshiftRight_eq, Int.shiftRight_eq_div_pow]
  rfl

theorem lea_eq_ofNat (x y : Word) (n : Nat) : x + y <<< n = BitVec.ofNat 64 (x.toNat + y.toNat * 2 ^ n) := by
  rw [shiftLeft_eq_ofNat, BitVec.ofNat_add, BitVec.ofNat_toNat, BitVec.setWidth_eq]

/-- Settles O1: each instruction writes its word operation, which is the exact result mod 2^64. -/
theorem scalarArithmetic : Obligations.ScalarArithmetic := by
  unfold Obligations.ScalarArithmetic
  intro s d a b h x y
  refine ⟨?add, ?sub, ?mul, ?mulh, ?mulhu, ?and, ?or, ?xor, ?andn, ?min, ?max, ?minu, ?maxu, ?slt, ?sltu, ?lea⟩
  case add => exact State.runs_of_writesX rfl (add_eq_ofInt x y)
  case sub => exact State.runs_of_writesX rfl (sub_eq_ofInt x y)
  case mul => exact State.runs_of_writesX rfl (mul_eq_ofInt x y)
  case mulh => exact State.runs_of_writesX rfl (mulHighS_eq_ofInt x y)
  case mulhu => exact State.runs_of_writesX rfl (mulHighU_eq_ofNat x y)
  case and => exact s.writesX_spec d _
  case or => exact s.writesX_spec d _
  case xor => exact s.writesX_spec d _
  case andn => exact s.writesX_spec d _
  case min => exact State.runs_of_writesX rfl (ite_slt x y x y)
  case max => exact State.runs_of_writesX rfl (ite_slt y x x y)
  case minu => exact State.runs_of_writesX rfl (ite_ult x y x y)
  case maxu => exact State.runs_of_writesX rfl (ite_ult y x x y)
  case slt => exact State.runs_of_writesX rfl (ite_slt_lt x y 1 0)
  case sltu => exact State.runs_of_writesX rfl (ite_ult_lt x y 1 0)
  case lea => exact State.runs_of_writesX rfl (lea_eq_ofNat x y h.toNat)

/-! Rotates and division (R136, R137). -/

/-- The two parts of a rotated word have no bit in common. -/
theorem shiftLeft_and_ushiftRight (x : Word) {m n : Nat} (h : 64 ≤ m + n) : x <<< m &&& x >>> n = 0#64 := by
  apply BitVec.eq_of_getLsbD_eq
  intro j hj
  rw [BitVec.getLsbD_and, BitVec.getLsbD_shiftLeft, BitVec.getLsbD_ushiftRight, BitVec.getLsbD_zero]
  by_cases hm : j < m
  · simp [hm]
  · simp [BitVec.getLsbD_of_ge x (n + j) (by omega)]

theorem rotateLeft_eq_ofNat (x : Word) {n : Nat} (h : n < 64) :
    x.rotateLeft n = BitVec.ofNat 64 (x.toNat * 2 ^ n + x.toNat / 2 ^ (64 - n)) := by
  rw [BitVec.rotateLeft_def, Nat.mod_eq_of_lt h, ← BitVec.add_eq_or_of_and_eq_zero _ _ (shiftLeft_and_ushiftRight x (by omega)),
    BitVec.ofNat_add, shiftLeft_eq_ofNat, ushiftRight_eq_ofNat]

theorem rotateRight_eq_ofNat (x : Word) {n : Nat} (h : n < 64) :
    x.rotateRight n = BitVec.ofNat 64 (x.toNat / 2 ^ n + x.toNat * 2 ^ (64 - n)) := by
  rw [BitVec.rotateRight_def, Nat.mod_eq_of_lt h, BitVec.or_comm,
    ← BitVec.add_eq_or_of_and_eq_zero _ _ (shiftLeft_and_ushiftRight x (by omega)), Nat.add_comm, BitVec.ofNat_add,
    shiftLeft_eq_ofNat, ushiftRight_eq_ofNat]

/-- A signed quotient, also where the exact one does not fit: the encoding of 2^63 is that of −2^63. -/
theorem sdiv_eq_ofInt (x y : Word) : x.sdiv y = BitVec.ofInt 64 (x.toInt.tdiv y.toInt) := by
  rw [← BitVec.toInt_inj, BitVec.toInt_sdiv, BitVec.toInt_ofInt]

theorem divS_eq_ofInt (x y : Word) : divS x y = BitVec.ofInt 64
    (if y = 0 then 2 ^ 64 - 1 else if x.toInt = -(2 ^ 63) ∧ y.toInt = -1 then -(2 ^ 63) else x.toInt.tdiv y.toInt) := by
  rw [divS]
  split
  · rfl
  · rw [sdiv_eq_ofInt]
    split
    next corner =>
      obtain ⟨hx, hy⟩ := corner
      rw [hx, hy]
      rfl
    next => rfl

theorem remS_eq_ofInt (x y : Word) : remS x y = BitVec.ofInt 64
    (if y = 0 then x.toInt else if x.toInt = -(2 ^ 63) ∧ y.toInt = -1 then 0 else x.toInt - x.toInt.tdiv y.toInt * y.toInt) := by
  have exact_rem : x.srem y = BitVec.ofInt 64 (x.toInt - x.toInt.tdiv y.toInt * y.toInt) := by
    rw [Int.mul_comm, ← Int.tmod_def, ← BitVec.toInt_srem, BitVec.ofInt_toInt]
  rw [remS]
  split
  · exact BitVec.ofInt_toInt.symm
  · rw [exact_rem]
    split
    next corner =>
      obtain ⟨hx, hy⟩ := corner
      rw [hx, hy]
      rfl
    next => rfl

theorem divU_eq_ofNat (x y : Word) : divU x y = if y = 0 then BitVec.allOnes 64 else BitVec.ofNat 64 (x.toNat / y.toNat) := by
  rw [divU, ← BitVec.toNat_udiv, BitVec.ofNat_toNat, BitVec.setWidth_eq]

theorem remU_eq_ofNat (x y : Word) : remU x y = BitVec.ofNat 64 (x.toNat - x.toNat / y.toNat * y.toNat) := by
  rw [← Nat.mod_eq_sub_div_mul, ← BitVec.toNat_umod, BitVec.ofNat_toNat, BitVec.setWidth_eq, remU]
  split
  next zero => rw [zero]; exact BitVec.umod_zero.symm
  next => rfl

/-- Settles O2: shifts and rotates as products and quotients, and the branches of `Divide`. -/
theorem shiftsAndDivision : Obligations.ShiftsAndDivision := by
  unfold Obligations.ShiftsAndDivision
  intro s d a b x y n q r
  have amount : n < 64 := Nat.mod_lt _ (by decide)
  refine ⟨?sll, ?srl, ?sra, ?rol, ?ror, ?div, ?rem, ?divu, ?remu⟩
  case sll => exact State.runs_of_writesX rfl (shiftLeft_eq_ofNat x n)
  case srl => exact State.runs_of_writesX rfl (ushiftRight_eq_ofNat x n)
  case sra => exact State.runs_of_writesX rfl (sshiftRight_eq_ofInt x n)
  case rol => exact State.runs_of_writesX rfl (rotateLeft_eq_ofNat x amount)
  case ror => exact State.runs_of_writesX rfl (rotateRight_eq_ofNat x amount)
  case div => exact State.runs_of_writesX rfl (divS_eq_ofInt x y)
  case rem =>
    refine State.runs_of_writesX rfl ((remS_eq_ofInt x y).trans (congrArg _ ?_))
    by_cases hy : y = 0
    · simp only [r, if_pos hy]
    · by_cases corner : x.toInt = -(2 ^ 63) ∧ y.toInt = -1
      · simp only [r, if_neg hy, if_pos corner]
      · simp only [r, q, if_neg hy, if_neg corner]
  case divu => exact State.runs_of_writesX rfl (divU_eq_ofNat x y)
  case remu => exact State.runs_of_writesX rfl (remU_eq_ofNat x y)

/-! Bit counts, extensions and bit fields (R136). -/

/-- The first number below 64 with a property, as a bit count gives it: none below has it, and 64 stands for none at all. -/
theorem find?_range_getD (f : Nat → Bool) :
    ∃ n ≤ 64, (∀ j < n, f j = false) ∧ (n < 64 → f n = true) ∧ ((List.range 64).find? f).getD 64 = n := by
  cases found : (List.range 64).find? f with
  | none => exact ⟨64, Nat.le_refl _, fun j hj => by simpa using List.find?_range_eq_none.1 found j hj, nofun, rfl⟩
  | some n =>
    obtain ⟨holds, below, before⟩ := List.find?_range_eq_some.1 found
    exact ⟨n, Nat.le_of_lt (List.mem_range.1 below), fun j hj => by simpa using before j hj, fun _ => holds, rfl⟩

theorem leadingZeros_spec (x : Word) : ∃ n ≤ 64, (∀ j, 64 - n ≤ j → x.getLsbD j = false) ∧ (n < 64 → x.getLsbD (63 - n) = true) ∧
    leadingZeros x = BitVec.ofNat 64 n := by
  obtain ⟨n, le, zeros, one, count⟩ := find?_range_getD fun j => x.getLsbD (63 - j)
  refine ⟨n, le, fun j hj => ?_, one, congrArg _ count⟩
  by_cases h : j < 64
  · rw [show j = 63 - (63 - j) by omega]
    exact zeros (63 - j) (by omega)
  · exact BitVec.getLsbD_of_ge x j (by omega)

theorem trailingZeros_spec (x : Word) : ∃ n ≤ 64, (∀ j < n, x.getLsbD j = false) ∧ (n < 64 → x.getLsbD n = true) ∧
    trailingZeros x = BitVec.ofNat 64 n := by
  obtain ⟨n, le, zeros, one, count⟩ := find?_range_getD fun j => x.getLsbD j
  exact ⟨n, le, zeros, one, congrArg _ count⟩

theorem countP_eq_sum_toNat (f : Nat → Bool) (l : List Nat) : l.countP f = (l.map fun j => (f j).toNat).sum := by
  induction l with
  | nil => rfl
  | cons j l ih =>
    rw [List.countP_cons, ih, List.map_cons, List.sum_cons, Nat.add_comm]
    cases f j <;> rfl

theorem popCount_eq_ofNat (x : Word) : popCount x = BitVec.ofNat 64 ((List.range 64).map fun j => (x.getLsbD j).toNat).sum := by
  rw [popCount, countP_eq_sum_toNat]

theorem extBits_eq (w : BitVec 2) : extBits w = 8 * 2 ^ w.toNat := Nat.shiftLeft_eq 8 w.toNat

theorem signExtendLow_eq_ofInt (n : Nat) (x : Word) : signExtendLow n x = BitVec.ofInt 64 (Int.bmod x.toNat (2 ^ n)) := by
  rw [signExtendLow, BitVec.signExtend, BitVec.toInt_setWidth]

theorem zeroExtendLow_eq_ofNat (n : Nat) (x : Word) : zeroExtendLow n x = BitVec.ofNat 64 (x.toNat % 2 ^ n) := by
  rw [zeroExtendLow, ← BitVec.ofNat_toNat, BitVec.toNat_setWidth]

theorem bitField_signExtend_eq_ofInt (x : Word) (p l : BitVec 6) :
    (bitField x p l).signExtend 64 = BitVec.ofInt 64 (Int.bmod (x.toNat / 2 ^ p.toNat) (2 ^ (l.toNat + 1))) := by
  rw [bitField, BitVec.signExtend, BitVec.toInt_extractLsb', Nat.shiftRight_eq_div_pow]
  rfl

theorem bitField_setWidth_eq_ofNat (x : Word) (p l : BitVec 6) :
    (bitField x p l).setWidth 64 = BitVec.ofNat 64 (x.toNat / 2 ^ p.toNat % 2 ^ (l.toNat + 1)) := by
  rw [bitField, ← BitVec.ofNat_toNat, BitVec.extractLsb'_toNat, Nat.shiftRight_eq_div_pow]

theorem getLsbD_lowMask (n : Nat) {j : Nat} (hj : j < 64) : (lowMask n).getLsbD j = decide (j < n) := by
  rw [lowMask, BitVec.getLsbD_setWidth, BitVec.getLsbD_allOnes, decide_eq_true hj, Bool.true_and]

/-- The bits of an insertion: the field's come from the source, every other one from the destination. -/
theorem getLsbD_bitInsert (x y : Word) (p l : BitVec 6) {j : Nat} (hj : j < 64) :
    (bitInsert y x p l).getLsbD j =
      if p.toNat ≤ j ∧ j < p.toNat + (l.toNat + 1) then x.getLsbD (j - p.toNat) else y.getLsbD j := by
  have field : (lowMask (l.toNat + 1) <<< p.toNat).getLsbD j = decide (p.toNat ≤ j ∧ j < p.toNat + (l.toNat + 1)) := by
    rw [BitVec.getLsbD_shiftLeft, getLsbD_lowMask _ (by omega), Bool.eq_iff_iff]
    simp only [hj, decide_true, Bool.true_and, Bool.and_eq_true, Bool.not_eq_true', decide_eq_false_iff_not, decide_eq_true_eq]
    omega
  rw [bitInsert, BitVec.getLsbD_or, BitVec.getLsbD_and, BitVec.getLsbD_and, BitVec.getLsbD_not, field, BitVec.getLsbD_shiftLeft]
  by_cases inside : p.toNat ≤ j ∧ j < p.toNat + (l.toNat + 1)
  · simp [inside, hj]
  · simp [inside, hj]

/-- Settles O3: the counts by the first set bit, the extensions and fields by their exact values, BFI bit by bit. -/
theorem bitOperations : Obligations.BitOperations := by
  unfold Obligations.BitOperations
  intro s d a b p l k w x len
  refine ⟨?clz, ?ctz, ?popc, fun _ => ⟨?sext, ?zext⟩, ?sel, fun _ => ⟨?bfx, ?bfxu, ?bfi⟩⟩
  case clz =>
    obtain ⟨n, le, zeros, one, count⟩ := leadingZeros_spec x
    exact ⟨n, le, zeros, one, State.runs_of_writesX rfl count⟩
  case ctz =>
    obtain ⟨n, le, zeros, one, count⟩ := trailingZeros_spec x
    exact ⟨n, le, zeros, one, State.runs_of_writesX rfl count⟩
  case popc => exact State.runs_of_writesX rfl (popCount_eq_ofNat x)
  case sext =>
    rw [← extBits_eq]
    exact State.runs_of_writesX rfl (signExtendLow_eq_ofInt _ x)
  case zext =>
    rw [← extBits_eq]
    exact State.runs_of_writesX rfl (zeroExtendLow_eq_ofNat _ x)
  case sel => exact s.writesX_spec d _
  case bfx => exact State.runs_of_writesX rfl (bitField_signExtend_eq_ofInt x p l)
  case bfxu => exact State.runs_of_writesX rfl (bitField_setWidth_eq_ofNat x p l)
  case bfi => exact ⟨bitInsert (s.X d) x p l, s.writesX_spec d _, fun j hj => getLsbD_bitInsert x (s.X d) p l hj⟩

/-! Immediates and constants (R101, R138, R139). -/

theorem imm_eq_ofInt {w : Nat} (i : BitVec w) : imm i = BitVec.ofInt 64 i.toInt := rfl

/-- A sign-extended immediate has the immediate's value. -/
theorem imm_toInt {w : Nat} (i : BitVec w) (h : w ≤ 64) : (imm i).toInt = i.toInt := BitVec.toInt_signExtend_of_le h

theorem add_imm_eq_ofInt {w : Nat} (x : Word) (i : BitVec w) : x + imm i = BitVec.ofInt 64 (x.toInt + i.toInt) := by
  rw [BitVec.ofInt_add, BitVec.ofInt_toInt, imm_eq_ofInt]

theorem ofInt_mul_two_pow (z : Int) (n : Nat) : BitVec.ofInt 64 (z * 2 ^ n) = BitVec.ofInt 64 z <<< n := by
  have power : BitVec.ofInt 64 (2 ^ n) = BitVec.twoPow 64 n := by
    apply BitVec.eq_of_toNat_eq
    rw [BitVec.toNat_twoPow, ← BitVec.toNat_ofNat, ← BitVec.ofInt_natCast]
    norm_cast
  rw [BitVec.ofInt_mul, power, BitVec.shiftLeft_eq_mul_twoPow]

theorem add_imm_shiftLeft_eq_ofInt {w : Nat} (x : Word) (i : BitVec w) (n : Nat) :
    x + imm i <<< n = BitVec.ofInt 64 (x.toInt + i.toInt * 2 ^ n) := by
  rw [BitVec.ofInt_add, BitVec.ofInt_toInt, ofInt_mul_two_pow, imm_eq_ofInt]

/-- Settles O4: the register forms' results, with the sign-extended immediate. -/
theorem immediates : Obligations.Immediates := by
  unfold Obligations.Immediates
  intro s d a h i k u x
  refine ⟨?addi, ?andi, ?ori, ?xori, ?slli, ?srli, ?srai, ?roli, ?slti, ?sltiu, ?movi, ?addhi, ?addtop, ?pcadd⟩
  case addi => exact State.runs_of_writesX rfl (add_imm_eq_ofInt x i)
  case andi => exact s.writesX_spec d _
  case ori => exact s.writesX_spec d _
  case xori => exact s.writesX_spec d _
  case slli => exact State.runs_of_writesX rfl (shiftLeft_eq_ofNat x h.toNat)
  case srli => exact State.runs_of_writesX rfl (ushiftRight_eq_ofNat x h.toNat)
  case srai => exact State.runs_of_writesX rfl (sshiftRight_eq_ofInt x h.toNat)
  case roli => exact State.runs_of_writesX rfl (rotateLeft_eq_ofNat x h.isLt)
  case slti =>
    rw [← imm_toInt k (by decide)]
    exact State.runs_of_writesX rfl (ite_slt_lt x (imm k) 1 0)
  case sltiu => exact State.runs_of_writesX rfl (ite_ult_lt x (imm k) 1 0)
  case movi => exact s.writesX_spec d _
  case addhi => exact State.runs_of_writesX rfl (add_imm_shiftLeft_eq_ofInt (s.X d) u 20)
  case addtop => exact State.runs_of_writesX rfl (add_imm_shiftLeft_eq_ofInt (s.X d) u 40)
  case pcadd => exact State.runs_of_writesX rfl (add_imm_shiftLeft_eq_ofInt s.pc u 12)

/-! Compares and predicate logic (R140, R141). -/

section
variable {w : Nat} (x y : BitVec w)

theorem cond_eq : cond 0 x y = decide (x = y) := Bool.beq_eq_decide_eq x y
theorem cond_ne : cond 1 x y = decide (x ≠ y) := by rw [decide_not, ← Bool.beq_eq_decide_eq]; rfl
theorem cond_lt : cond 2 x y = decide (x.toInt < y.toInt) := BitVec.slt_eq_decide
theorem cond_ge : cond 3 x y = decide (y.toInt ≤ x.toInt) := by
  simp only [cond, BitVec.slt_eq_decide, ← decide_not, Int.not_lt]
theorem cond_ltu : cond 4 x y = decide (x.toNat < y.toNat) := BitVec.ult_eq_decide
theorem cond_geu : cond 5 x y = decide (y.toNat ≤ x.toNat) := by
  simp only [cond, BitVec.ult_eq_decide, ← decide_not, Nat.not_lt]

end

/-- Settles O5: the six conditions one by one, then the logic. -/
theorem predicates : Obligations.Predicates := by
  unfold Obligations.Predicates
  intro s p a b c i d e f hc holds
  have compare : ∀ x y : Word, cond c.toNat x y = holds x y := by
    intro x y
    simp only [holds]
    generalize c.toNat = n at hc
    match n, hc with
    | 0, _ => exact cond_eq x y
    | 1, _ => exact cond_ne x y
    | 2, _ => exact cond_lt x y
    | 3, _ => exact cond_ge x y
    | 4, _ => exact cond_ltu x y
    | 5, _ => exact cond_geu x y
  refine ⟨?cmp, ?cmpi, ?pand, ?por, ?pxor, ?pandn, ?pnot, ?pmov⟩
  case cmp => rw [← compare]; exact s.writesP_spec p _
  case cmpi => rw [← compare]; exact s.writesP_spec p _
  case pand => exact s.writesP_spec d _
  case por => exact s.writesP_spec d _
  case pxor => exact s.writesP_spec d _
  case pandn => exact s.writesP_spec d _
  case pnot => exact s.writesP_spec d _
  case pmov => exact s.writesP_spec d _

/-! `Step` over the loops (R149). -/

theorem Loop.active_iff (l : Loop) : l.active = true ↔ l.lc ≠ 0 := bne_iff_ne

/-- A loop that is not active takes no step. -/
theorem Loop.step_of_inactive {l : Loop} (h : l.lc = 0) (next pc : Word) (jump : Bool) : l.step next pc jump = (l, false) := by
  simp [Loop.step, Loop.active, h]

/-- An arrival at the end counts a pass; all but the last go back to the start. -/
theorem Loop.step_of_arrival {l : Loop} (h : l.lc ≠ 0) {next : Word} (e : next = l.le) (pc : Word) (jump : Bool) :
    l.step next pc jump = ({ l with lc := l.lc - 1 }, decide (l.lc ≠ 1)) := by
  have passes_left : (l.lc - 1 != 0) = decide (l.lc ≠ 1) := by
    have last : l.lc - 1#64 = 0#64 ↔ l.lc = 1#64 := by rw [BitVec.sub_eq_iff_eq_add, BitVec.zero_add]
    rw [Bool.eq_iff_iff, bne_iff_ne, decide_eq_true_iff]
    exact not_congr last
  rw [Loop.step, l.active_iff.2 h, if_neg (by decide), if_pos e, passes_left]

/-- An active loop whose end is not reached ends when a jump leaves its body. -/
theorem Loop.step_of_elsewhere {l : Loop} (h : l.lc ≠ 0) {next : Word} (e : next ≠ l.le) (pc : Word) (jump : Bool) :
    l.step next pc jump = (if jump = true ∧ l.ls.toNat ≤ pc.toNat ∧ pc.toNat < l.le.toNat ∧
      (next.toNat < l.ls.toNat ∨ l.le.toNat < next.toNat) then { l with lc := 0 } else l, false) := by
  rw [Loop.step, l.active_iff.2 h, if_neg (by decide), if_neg e]
  simp only [BitVec.ule_eq_decide, BitVec.ult_eq_decide, Bool.and_eq_true, Bool.or_eq_true, decide_eq_true_eq, and_assoc]
  split <;> rfl

/-- The walk takes each loop's own step, and stops where one goes back to its start. -/
theorem walkLoops_cons (next pc : Word) (jump : Bool) (l : Loop) (r : List Loop) :
    walkLoops next pc jump (l :: r) =
      if (l.step next pc jump).2 then ((l.step next pc jump).1 :: r, l.ls)
      else ((l.step next pc jump).1 :: (walkLoops next pc jump r).1, (walkLoops next pc jump r).2) := by
  rw [walkLoops]
  by_cases idle : l.lc = 0
  · simp [idle, Loop.step_of_inactive]
  · rw [if_neg idle]
    by_cases arrival : next = l.le
    · rw [if_pos arrival, Loop.step_of_arrival idle arrival]
      by_cases last : l.lc = 1
      · simp [last]
      · rw [if_neg last, if_pos (decide_eq_true last)]
    · rw [if_neg arrival, Loop.step_of_elsewhere idle arrival]
      split <;> rfl

/-- Two loops, in the order of examination. -/
theorem walkLoops_pair (next pc : Word) (jump : Bool) (l m : Loop) :
    walkLoops next pc jump [l, m] =
      if (l.step next pc jump).2 then ([(l.step next pc jump).1, m], l.ls)
      else ([(l.step next pc jump).1, (m.step next pc jump).1], if (m.step next pc jump).2 then m.ls else next) := by
  rw [walkLoops_cons, walkLoops_cons]
  by_cases back : (m.step next pc jump).2 = true <;> simp [walkLoops, back]

/-- Loop 0 is examined first when it starts later. -/
theorem walkLoops_stepLoops_of_lt {l0 l1 : Loop} (h : l1.ls.toNat < l0.ls.toNat) (next pc : Word) (jump : Bool) :
    walkLoops next pc jump [l0, l1] =
      ([(stepLoops l0 l1 next pc jump).1, (stepLoops l0 l1 next pc jump).2.1], (stepLoops l0 l1 next pc jump).2.2) := by
  rw [walkLoops_pair, stepLoops, if_pos (BitVec.ult_iff_lt.2 h)]
  by_cases back : (l0.step next pc jump).2 = true <;> simp [back]

/-- Loop 1 is examined first when it starts later, or at the same address. -/
theorem walkLoops_stepLoops_of_le {l0 l1 : Loop} (h : l0.ls.toNat ≤ l1.ls.toNat) (next pc : Word) (jump : Bool) :
    walkLoops next pc jump [l1, l0] =
      ([(stepLoops l0 l1 next pc jump).2.1, (stepLoops l0 l1 next pc jump).1], (stepLoops l0 l1 next pc jump).2.2) := by
  rw [walkLoops_pair, stepLoops, if_neg (mt BitVec.ult_iff_lt.1 (Nat.not_lt.2 h))]
  by_cases back : (l1.step next pc jump).2 = true <;> simp [back]

/-- In system mode no loop steps (R151). -/
theorem Ctx.stepTo_of_system {c : Ctx} (h : c.depth ≠ 0) (next pc : Word) (jump : Bool) :
    c.stepTo next pc jump = { c with pc := next } := if_neg h

theorem Ctx.stepTo_of_task {c : Ctx} (h : c.depth = 0) (next pc : Word) (jump : Bool) :
    c.stepTo next pc jump = { c with
      l0 := (stepLoops c.l0 c.l1 next pc jump).1
      l1 := (stepLoops c.l0 c.l1 next pc jump).2.1
      pc := (stepLoops c.l0 c.l1 next pc jump).2.2 } := if_pos h

/-- What `Step` makes of a context, by the mode and the order of the loops. -/
theorem Ctx.stepTo_spec (c : Ctx) (next pc : Word) (jump : Bool) :
    (c.depth ≠ 0 → (c.stepTo next pc jump).l0 = c.l0 ∧ (c.stepTo next pc jump).l1 = c.l1 ∧ (c.stepTo next pc jump).pc = next) ∧
    (c.depth = 0 → c.l1.ls.toNat < c.l0.ls.toNat → walkLoops next pc jump [c.l0, c.l1] =
      ([(c.stepTo next pc jump).l0, (c.stepTo next pc jump).l1], (c.stepTo next pc jump).pc)) ∧
    (c.depth = 0 → c.l0.ls.toNat ≤ c.l1.ls.toNat → walkLoops next pc jump [c.l1, c.l0] =
      ([(c.stepTo next pc jump).l1, (c.stepTo next pc jump).l0], (c.stepTo next pc jump).pc)) := by
  refine ⟨fun system => ?_, fun task later => ?_, fun task later => ?_⟩
  · rw [Ctx.stepTo_of_system system]
    exact ⟨rfl, rfl, rfl⟩
  · rw [Ctx.stepTo_of_task task]
    exact walkLoops_stepLoops_of_lt later next pc jump
  · rw [Ctx.stepTo_of_task task]
    exact walkLoops_stepLoops_of_le later next pc jump

/-! Branches and calls (R142–R145). -/

/-- The loop step reads no scalar register. -/
theorem Ctx.advance_setX (c : Ctx) (d : BitVec 6) (v : Word) (n : Next) :
    (c.setX d v).advance n = { c.advance n with x := (c.setX d v).x } := by
  have frame := Ctx.setX_frame c d v
  cases n with
  | seq => exact Ctx.advance_seq_setX c d v
  | jump t =>
    rw [frame]
    exact Ctx.stepTo_x c _ t c.pc true
  | call t =>
    show ({ (c.setX d v).advance .seq with pc := t } : Ctx) = _
    rw [Ctx.advance_seq_setX]
    rfl
  | placed => exact frame

/-- An update of the issuing context that writes x(d), goes on at `n` and does no more. -/
theorem State.links_upd (s : State) (d : BitVec 6) (v : Word) (n : Next) (u : State) (h : u = s.upd fun c => (c.setX d v).advance n) :
    u.X d = (if d = 0 then 0 else v) ∧ (∀ k, k ≠ d → u.X k = s.X k) ∧ u.cx = { s.cx.advance n with x := u.cx.x } ∧ s.OnlyHere u := by
  have cx : u.cx = { s.cx.advance n with x := (s.cx.setX d v).x } := by rw [h, State.cx_upd, Ctx.advance_setX]
  have read : ∀ k, u.X k = if k = d ∧ d ≠ 0 then v else s.X k := fun k => by
    rw [State.X, cx, Ctx.getX_withX _ _ (s.cx.setX d v) rfl, Ctx.getX_setX]
    rfl
  refine ⟨?_, fun k hk => ?_, ?_, h ▸ State.onlyHere_upd s _⟩
  · rw [read]
    by_cases hd : d = 0
    · subst hd; exact Ctx.getX_zero s.cx
    · rw [if_pos ⟨rfl, hd⟩, if_neg hd]
  · rw [read, if_neg fun e => hk e.1]
  · rw [cx]

/-- A value written to x(d) on the way to `n`. -/
theorem State.close_ok_setX (s : State) (d : BitVec 6) (v : Word) (n : Next) :
    (Res.ok n (s.setX d v)).close = .next (s.upd fun c => (c.setX d v).advance n) := by
  rw [Res.close_ok, State.setX, State.upd_upd]

/-- A branch target (R101, R142). -/
theorem add_wordOffset_eq_ofInt {w : Nat} (x : Word) (o : BitVec w) : x + wordOffset o = BitVec.ofInt 64 (x.toInt + 4 * o.toInt) := by
  rw [BitVec.ofInt_add, BitVec.ofInt_toInt, Int.mul_comm, BitVec.ofInt_mul, wordOffset, imm_eq_ofInt]
  rfl

/-- A transfer that the instruction takes under a condition. -/
theorem State.runs_of_transfers {s : State} {i : Instr} {taken : Bool} {t u : Word} {p : Prop} [Decidable p]
    (h : exec i s = s.transfers taken t) (e : t = u) (hp : taken = true ↔ p) :
    s.Runs i (s.Goes (if p then .jump u else .seq)) := by
  subst e
  obtain ⟨v, ran, goes⟩ := s.transfers_spec taken t
  simp only [hp] at goes
  exact ⟨v, h.trans ran, goes⟩

theorem and_three_eq_zero_iff (t : Word) : t &&& 3#64 = 0 ↔ t.toNat % 4 = 0 := by
  have low : (t &&& 3#64).toNat = t.toNat % 4 := Nat.and_two_pow_sub_one_eq_mod t.toNat 2
  rw [BitVec.toNat_eq, low]
  rfl

/-- BRC is taken when the predicate differs from its field n (R142). -/
theorem bne_field_iff (b : Bool) (n : BitVec 1) : (b != (n == 1)) = true ↔ b.toNat ≠ n.toNat := by
  revert b n
  decide

/-- Settles O6: the transfers by `State.runs_of_transfers`, the calls by `State.links_upd`, the loop step by `Ctx.stepTo_spec`. -/
theorem branchesAndLoops : Obligations.BranchesAndLoops := by
  unfold Obligations.BranchesAndLoops
  refine ⟨fun s p n o d a q i j => ?transfers, fun c t => ?loops⟩
  case transfers =>
    intro dest link t keeps
    have target : s.X a + imm i = t := add_imm_eq_ofInt (s.X a) i
    refine ⟨?brc, ?bz, ?bnz, ?j, ?jal, fun aligned => ?jalr, fun misaligned => ?trap⟩
    case brc => exact State.runs_of_transfers rfl (add_wordOffset_eq_ofInt s.pc o) (bne_field_iff (s.P p) n)
    case bz => exact State.runs_of_transfers rfl (add_wordOffset_eq_ofInt s.pc q) beq_iff_eq
    case bnz => exact State.runs_of_transfers rfl (add_wordOffset_eq_ofInt s.pc q) bne_iff_ne
    case j =>
      have jump : s.pc + wordOffset j = dest j.toInt := add_wordOffset_eq_ofInt s.pc j
      rw [← jump]
      exact s.transfers_spec true _
    case jal =>
      refine ⟨_, State.close_ok_setX s 1 link (.call (s.pc + wordOffset j)), ?_⟩
      rw [add_wordOffset_eq_ofInt]
      exact State.links_upd s 1 link _ _ rfl
    case jalr =>
      have run : exec (.jalr d a i) s = (Res.ok (if d = 0 then .jump t else .call t) (s.setX d link)).close := by
        show execJalr d a i s = _
        rw [execJalr, target, if_neg (not_not_intro ((and_three_eq_zero_iff t).2 aligned))]
        rfl
      exact ⟨_, run.trans (State.close_ok_setX s d link _), State.links_upd s d link _ _ rfl⟩
    case trap =>
      show execJalr d a i s = _
      rw [execJalr, target, if_pos (mt (and_three_eq_zero_iff t).1 misaligned), Res.close_trap _ _ _ (by decide)]
  case loops =>
    intro steps
    exact ⟨⟨Ctx.stepTo_frame c _ _ _, Ctx.stepTo_spec c _ _ _⟩, ⟨Ctx.stepTo_frame c _ _ _, Ctx.stepTo_spec c _ _ _⟩, rfl⟩

/-! The loop instructions (R146–R148, R151). -/

/-- One of a context's loops replaced. -/
def Ctx.setLoop (c : Ctx) (n : BitVec 1) (l : Loop) : Ctx := if n = 0 then { c with l0 := l } else { c with l1 := l }

theorem State.close_ok_setLoop (s : State) (n : BitVec 1) (l : Loop) (k : Next) :
    (Res.ok k (s.setLoop n l)).close = .next (s.upd fun c => (c.setLoop n l).advance k) := by
  rw [Res.close_ok, State.setLoop, State.upd_upd]
  rfl

/-- A set-up writes its loop's three registers and skips the body of a zero trip (R147). -/
theorem State.setUpLoop_close (s : State) (n : BitVec 1) (count : Word) (len : Nat) {le : Word}
    (h : s.pc + 4#64 + BitVec.ofNat 64 (4 * len) = le) :
    (s.setUpLoop n count len).close = .next (s.upd fun c =>
      (c.setLoop n { ls := s.pc + 4, le := le, lc := count }).advance (if count = 0 then .jump le else .seq)) := by
  subst h
  exact State.close_ok_setLoop s n _ _

theorem loopEnd_eq {w : Nat} (x : Word) (l : BitVec w) : x + BitVec.ofNat 64 (4 * l.toNat) = x + 4 * l.setWidth 64 := by
  rw [BitVec.ofNat_mul, BitVec.ofNat_toNat]
  rfl

theorem State.taskMode_iff (s : State) : s.taskMode = true ↔ s.cx.depth = 0 := by
  rw [State.taskMode, beq_iff_eq]

/-- LBRK in task mode (R148). -/
theorem execLbrk_of_task {s : State} (n : BitVec 1) (h : s.cx.depth = 0) :
    execLbrk n s = .next (s.upd fun c =>
      if (s.loopAt n).lc = 0 then c.advance .seq else (c.setLoop n { s.loopAt n with lc := 0 }).advance (.jump (s.loopAt n).le)) := by
  rw [execLbrk, if_pos (s.taskMode_iff.2 h)]
  by_cases idle : (s.loopAt n).lc = 0
  · simp only [if_neg (mt (s.loopAt n).active_iff.1 (not_not_intro idle)), if_pos idle, Res.close_ok]
  · simp only [if_pos ((s.loopAt n).active_iff.2 idle), if_neg idle, State.close_ok_setLoop]

/-- In system mode the loop instructions trap with their word (R151). -/
theorem exec_loop_of_system {s : State} (h : s.cx.depth ≠ 0) (n : BitVec 1) (a : BitVec 6) (l : BitVec 14) (c : BitVec 8)
    (k : BitVec 6) {i : Instr} (hi : i ∈ [Instr.loop n a l, .loopi n c k, .lbrk n]) :
    exec i s = (Res.trap 0x10 (wordOf i) s : Res Next).close := by
  have system : ¬s.taskMode = true := mt s.taskMode_iff.1 h
  simp only [List.mem_cons, List.not_mem_nil, or_false] at hi
  obtain rfl | rfl | rfl := hi
  · exact if_neg system
  · exact if_neg system
  · exact if_neg system

/-- Settles O7: the two set-ups are `State.setUpLoop`, and the three traps one. -/
theorem loopInstructions : Obligations.LoopInstructions := by
  unfold Obligations.LoopInstructions
  intro s n a l c k put becomes setUp old
  refine ⟨fun task => ⟨?loop, ?loopi, ?lbrk⟩, fun system i hi w hw => ?trap⟩
  case loop =>
    have run : exec (.loop n a l) s = (s.setUpLoop n (s.X a) l.toNat).close := if_pos (s.taskMode_iff.2 task)
    exact ⟨_, run.trans (s.setUpLoop_close n _ _ (loopEnd_eq _ l)), rfl, (State.onlyHere_upd s _).bytes⟩
  case loopi =>
    have run : exec (.loopi n c k) s = (s.setUpLoop n (c.setWidth 64) k.toNat).close := if_pos (s.taskMode_iff.2 task)
    exact ⟨_, run.trans (s.setUpLoop_close n _ _ (loopEnd_eq _ k)), rfl, (State.onlyHere_upd s _).bytes⟩
  case lbrk => exact ⟨_, execLbrk_of_task n task, rfl, (State.onlyHere_upd s _).bytes⟩
  case trap =>
    have word : wordOf i = w.setWidth 64 := by rw [wordOf, hw, Option.getD_some]
    rw [exec_loop_of_system system n a l c k hi, word, Res.close_trap _ _ _ (by decide)]

end Sys2Proof.Machine

namespace Sys2Proof.Machine

/-! Claims of lanes and their commands (R162–R166, R171, R327). -/

theorem State.upd_push (s : State) (e : Instr) (f : Ctx → Ctx) : (s.push e).upd f = (s.upd f).push e := rfl

/-- The state that an update of the issuing context and a push leave, by the context it leaves. -/
theorem State.push_upd_eq_const (s : State) (f : Ctx → Ctx) (e : Instr) :
    (s.upd f).push e = (s.upd fun _ => ((s.upd f).push e).cx).push e := by
  rw [State.cx_push, State.cx_upd, ← State.upd_eq_const]

@[simp] theorem State.cx_splitsPut (s : State) (k kind who aux data : Nat) : (s.splitsPut k kind who aux data).cx = s.cx :=
  State.ctxAt_updCrew s k _ _ fun _ => rfl

/-- A grant of lanes as its record leaves the machine: written while the splits unit records grants (R166). -/
def State.withGrantRecord (s : State) (g : Nat) : State :=
  if splitsGrants (s.crewAt s.cur.crew).splitctl then s.splitsPut s.cur.crew 6 (s.cur.n / 4 + 8 * (s.cur.n % 4)) g 0 else s

@[simp] theorem State.cur_withGrantRecord (s : State) (g : Nat) : (s.withGrantRecord g).cur = s.cur := by
  unfold State.withGrantRecord; split <;> rfl
@[simp] theorem State.cx_withGrantRecord (s : State) (g : Nat) : (s.withGrantRecord g).cx = s.cx := by
  unfold State.withGrantRecord; split
  · exact State.cx_splitsPut s _ _ _ _ _
  · rfl

/-- The record of a grant fits in the splits buffer, or none is made (R166, R327). -/
def State.GrantRoom (s : State) : Prop :=
  splitsGrants (s.crewAt s.cur.crew).splitctl = false ∨ splitsFull? (s.crewAt s.cur.crew).splitctl = false

theorem State.logGrant_of_room {s : State} (g : Nat) (h : s.GrantRoom) : s.logGrant g = some (s.withGrantRecord g) := by
  unfold State.logGrant State.withGrantRecord
  rcases h with off | room
  · simp [off]
  · by_cases on : splitsGrants (s.crewAt s.cur.crew).splitctl = true <;> simp [on, room, whoOf]

theorem State.logGrant_of_full {s : State} (g : Nat) (h : ¬s.GrantRoom) : s.logGrant g = none := by
  simp only [State.GrantRoom, not_or, Bool.not_eq_false] at h
  simp [State.logGrant, h]

/-- What `LCLAIM` grants: the contexts that hold lanes are counted with this one (R164). -/
theorem State.grantFor_eq (s : State) (n : Nat) :
    s.grantFor n = min n (8 * max 1 (8 / (((s.crewAt s.cur.crew).ctxs.filter fun p => p.1 != s.cur.n && p.2.grant != 0).length + 1))) := by
  rw [State.grantFor, List.countP_eq_length_filter]

section
variable {s : State}

theorem State.claim_of_room (n : Nat) (h : s.GrantRoom) :
    s.claim n = some (s.grantFor n, (s.withGrantRecord (s.grantFor n)).upd fun c => { c with grant := s.grantFor n, req := n }) := by
  simp only [State.claim, State.logGrant_of_room _ h, Option.map_some]

theorem State.claim_of_full (n : Nat) (h : ¬s.GrantRoom) : s.claim n = none := by
  simp only [State.claim, State.logGrant_of_full _ h, Option.map_none]

theorem State.vectorFull_of_space (h : s.cx.vq.length < 16) : s.vectorFull = false := decide_eq_false (Nat.not_le.2 h)
theorem State.vectorFull_of_full (h : ¬s.cx.vq.length < 16) : s.vectorFull = true := decide_eq_true (Nat.not_lt.1 h)

/-- A context that holds lanes claims none. -/
theorem State.implicitClaim_of_grant (h : s.cx.grant ≠ 0) : s.implicitClaim = some s := if_neg h

/-- A context without lanes claims 64 (R165). -/
theorem State.implicitClaim_of_room (h : s.GrantRoom) (h0 : s.cx.grant = 0) :
    s.implicitClaim = some ((s.withGrantRecord (s.grantFor 64)).upd fun c => { c with grant := s.grantFor 64, req := 64 }) := by
  rw [State.implicitClaim, if_pos h0, State.claim_of_room 64 h, Option.map_some]

end

/-- A claim that `LCLAIM` or `LFREE` fixes, with its command, on the way to the next instruction. -/
theorem State.close_queueClaim (s : State) (f : Ctx → Ctx) :
    (Res.ok .seq (s.upd f).queueClaim).close =
      .next ((s.upd fun c => ((f c).queue { flags := 0, isLoad := false }).advance .seq).push (.vectorCommandComplete s.cur)) := by
  rw [Res.close_ok, State.queueClaim, State.upd_upd, State.upd_push, State.upd_upd]
  rfl

/-- `LCLAIM` with room for its command and for the record of its grant (R162, R164, R166). -/
theorem execLclaim_of_room {s : State} (d : BitVec 6) (n : BitVec 3) (space : s.cx.vq.length < 16) (room : s.GrantRoom) :
    let g := s.grantFor (8 * (n.toNat + 1))
    execLclaim d n s = .next (((s.withGrantRecord g).upd fun c =>
      ((({ c with grant := g, req := 8 * (n.toNat + 1) } : Ctx).setX d (BitVec.ofNat 64 g)).queue { flags := 0, isLoad := false }).advance .seq).push
        (.vectorCommandComplete s.cur)) := by
  intro g
  simp only [execLclaim, State.vectorFull_of_space space, State.claim_of_room _ room, State.setX, State.upd_upd]
  rw [if_neg Bool.false_ne_true, State.close_queueClaim, State.cur_withGrantRecord]

/-- `LFREE` with room for its command and for the record of its grant (R162, R165, R166). -/
theorem execLfree_of_room {s : State} (space : s.cx.vq.length < 16) (room : s.GrantRoom) :
    execLfree s = .next (((s.withGrantRecord 0).upd fun c =>
      (({ c with grant := 0 } : Ctx).queue { flags := 0, isLoad := false }).advance .seq).push (.vectorCommandComplete s.cur)) := by
  simp only [execLfree, State.vectorFull_of_space space, State.logGrant_of_room _ room]
  rw [if_neg Bool.false_ne_true, State.close_queueClaim, State.cur_withGrantRecord]

/-- Sequential execution reads neither the claim nor the command queue. -/
theorem Ctx.advance_seq_withClaim (c : Ctx) (x : Vector Word 64) (g n : Nat) (q : List VCmd) :
    ({ c with x := x, grant := g, req := n, vq := q } : Ctx).advance .seq = { c.advance .seq with x := x, grant := g, req := n, vq := q } := by
  show (if c.depth = 0 then _ else _) = _
  by_cases h : c.depth = 0 <;> simp [Ctx.advance, Ctx.stepTo, h]

/-- The context after `LCLAIM`. -/
theorem Ctx.advance_claimed (c : Ctx) (d : BitVec 6) (v : Word) (g n : Nat) (q : VCmd) :
    ((({ c with grant := g, req := n } : Ctx).setX d v).queue q).advance .seq =
      { c.advance .seq with x := (c.setX d v).x, grant := g, req := n, vq := c.vq ++ [q] } := by
  rw [← Ctx.advance_seq_withClaim]
  unfold Ctx.setX
  split <;> rfl

/-- The context after `LFREE`. -/
theorem Ctx.advance_released (c : Ctx) (q : VCmd) :
    (({ c with grant := 0 } : Ctx).queue q).advance .seq = { c.advance .seq with grant := 0, vq := c.vq ++ [q] } := by
  show (if c.depth = 0 then _ else _) = _
  by_cases h : c.depth = 0 <;> simp [Ctx.advance, Ctx.stepTo, Ctx.queue, h]

/-- The scalar registers of a context whose file is that of a write of x(d). -/
theorem Ctx.getX_of_setX {c e : Ctx} {d : BitVec 6} {v : Word} (h : e.x = (c.setX d v).x) :
    e.getX d = (if d = 0 then 0 else v) ∧ ∀ r, r ≠ d → e.getX r = c.getX r := by
  have read : ∀ r, e.getX r = if r = d ∧ d ≠ 0 then v else c.getX r := fun r => by
    rw [← Ctx.getX_setX, ← Ctx.getX_withX e _ (c.setX d v) h.symm]
  refine ⟨?_, fun r hr => ?_⟩
  · rw [read]
    by_cases hd : d = 0
    · subst hd; exact Ctx.getX_zero c
    · rw [if_pos ⟨rfl, hd⟩, if_neg hd]
  · rw [read, if_neg fun e => hr e.1]

/-- With a full command queue no vector instruction issues: its context issues it again, and a command completes (R162). -/
theorem exec_of_vectorFull {s : State} (h : ¬s.cx.vq.length < 16) {d : BitVec 6} {n : BitVec 3} {v a b : BitVec 5} {m t : BitVec 3} {i : Instr}
    (hi : i ∈ [Instr.vadd v a b m t, .lclaim d n, .lfree, .vsync, .vld v a m, .vst v a m, .joinv v a 0 m 2 2, .xreadv v a m]) :
    exec i s = s.holdForPool.close := by
  have full := State.vectorFull_of_full h
  have memory : ∀ f, s.beginVector f = s.holdForPool := fun f => if_pos full
  have lines : ∀ f ls, (s.beginVector f).turnsOver ls = s.holdForPool := fun f ls => by rw [memory]; rfl
  simp only [List.mem_cons, List.not_mem_nil, or_false] at hi
  obtain rfl | rfl | rfl | rfl | rfl | rfl | rfl | rfl := hi
  · exact congrArg Res.close (if_pos full)
  · exact congrArg Res.close (if_pos full)
  · exact congrArg Res.close (if_pos full)
  · exact congrArg Res.close (if_pos full)
  · exact congrArg Res.close (memory _)
  · exact congrArg Res.close (memory _)
  · exact congrArg Res.close (lines _ _)
  · exact congrArg Res.close (lines _ _)

/-- Settles O19: the two claims by their commands' states, the stops by what `State.logGrant` and the queue refuse. -/
theorem laneClaims : Obligations.LaneClaims := by
  unfold Obligations.LaneClaims
  intro s d n v a b m t ctl lanes holders grant logged room space queued next
  have granted : ∀ k, s.grantFor k = grant k := s.grantFor_eq
  refine ⟨fun hs hr => ⟨?lclaim, ?lfree⟩, fun hr h0 => ?implicit, fun hs hr i hi => ?unrecorded, State.implicitClaim_of_grant, fun hq => ?vsync,
    fun hs hq hc => ?waits, fun hs i hi => exec_of_vectorFull hs hi⟩
  case lclaim =>
    refine ⟨_, execLclaim_of_room d n hs hr, ?_⟩
    rw [granted]
    refine ⟨State.push_upd_eq_const _ _ _, ?_⟩
    simp only [State.X, State.cx_push, State.cx_upd, State.cx_withGrantRecord, Ctx.advance_claimed]
    obtain ⟨same, others⟩ := Ctx.getX_of_setX (c := s.cx) (d := d) (v := BitVec.ofNat 64 (grant lanes)) rfl
    exact ⟨same, others, rfl⟩
  case lfree =>
    refine ⟨_, execLfree_of_room hs hr, State.push_upd_eq_const _ _ _, ?_⟩
    rw [State.cx_push, State.cx_upd, State.cx_withGrantRecord, Ctx.advance_released]
  case implicit =>
    rw [State.implicitClaim_of_room hr h0, granted]
    rfl
  case unrecorded =>
    have trap : exec i s = (Res.trap 0x150 6 s : Res Next).close := by
      simp only [List.mem_cons, List.not_mem_nil, or_false] at hi
      obtain rfl | rfl := hi
      · show execLclaim d n s = _
        simp only [execLclaim, State.vectorFull_of_space hs, State.claim_of_full _ hr]
        rfl
      · show execLfree s = _
        simp only [execLfree, State.vectorFull_of_space hs, State.logGrant_of_full _ hr]
        rfl
    rw [trap, Res.close_trap _ _ _ (by decide)]
  case vsync =>
    have run : exec .vsync s = (Res.ok .seq s).close := by
      show execVsync s = _
      rw [execVsync, State.vectorFull_of_space (by rw [hq]; decide), if_neg Bool.false_ne_true, if_pos hq]
    exact ⟨_, run, State.cx_upd s _, State.onlyHere_upd s _⟩
  case waits =>
    show execVsync s = _
    rw [execVsync, State.vectorFull_of_space hs, if_neg Bool.false_ne_true, if_neg hq, Res.close_wait _ _ hc]
    rfl

end Sys2Proof.Machine

namespace Sys2Proof.Machine

/-! Vector accesses whose fills show through in another line (R366, R376). -/

/-- A page of a kind whose leaf gives an address past the 56 bits of the physical space (R366): 2^56. -/
def pagePastSpaceOf (kind : Nat) : Leaf := { pagePastSpace with kind := kind }

/-- Slice 0 caches that leaf for the page at 0, and the byte at 2^56 is 1. Line 0 is in M and names agent 1 as its owner, which holds no copy
of it. The issuing context has lanes, and v1 selects element 0 alone. -/
def vectorPastSpace (kind : Nat) : State :=
  { readsPastSpace with
    leaves := [(0, pagePastSpaceOf kind)]
    crews := [(0, { Crew.fresh with ctxs := [(0, { Ctx.fresh with v := (Ctx.fresh.setV 1 1).v, grant := 8 })] })] }

section
variable (kind : Nat)

theorem vectorPastSpace_lanesReady : (vectorPastSpace kind).LanesReady (vectorPastSpace kind) :=
  ⟨Nat.succ_pos 15, State.implicitClaim_of_grant (s := vectorPastSpace kind) (Nat.succ_ne_zero 7)⟩

/-- Only element 0 is active. -/
theorem vectorPastSpace_active {j : Nat} (h : j < 64) (active : (vectorPastSpace kind).active 1 j = true) : j = 0 := by
  have only : ∀ j < 64, (vectorPastSpace 0).active 1 j = true → j = 0 := by decide +kernel
  exact only j h active

theorem vectorPastSpace_slice : (vectorPastSpace kind).sliceFor 0 0 = 0 := by
  have reset : State.reset.sliceFor 0 0 = 0 := by decide +kernel
  exact reset

theorem vectorPastSpace_place : (vectorPastSpace kind).place (2 ^ 56) = .device (2 ^ 56) := by
  have reads : readsPastSpace.place (2 ^ 56) = .device (2 ^ 56) := by decide +kernel
  exact reads

variable {kind}

/-- An access of element 0 that the page's kind permits meets the conditions of `State.Cached`. -/
theorem vectorPastSpace_cached {u : Use} {q : Leaf → Prop} (permitted : permits u.need true true false = true)
    (verdict : pageVerdict u kind true = none) (leaf : q (pagePastSpaceOf kind)) (line : q (lineLeaf (2 ^ 56) kind true true false)) :
    (vectorPastSpace kind).Cached u 0 (2 ^ 56) q where
  canonical := by decide
  unheld := rfl
  slice := by
    have addr : pagePastSpace.addr 0 = 2 ^ 56 := by decide +kernel
    refine ⟨pagePastSpaceOf kind, ?_, permitted, ⟨verdict, rfl, ?_⟩, leaf, line⟩
    · show mget? [(0, pagePastSpaceOf kind)] (leafKey ((vectorPastSpace kind).sliceFor 0 0) 0) = _
      rw [vectorPastSpace_slice]
      rfl
    · exact (congrArg _ addr).trans (vectorPastSpace_place kind)
  line := fun c hc => absurd hc List.not_mem_nil
  here := vectorPastSpace_place kind
  offset := by decide

/-- The byte at 0 reads as memory's, since the owner that line 0 names holds no copy of it. -/
theorem vectorPastSpace_byte_before : (vectorPastSpace kind).byteAt 0 = 0 :=
  (State.byteAt_congr rfl rfl rfl 0).trans readsPastSpace_byte_before

/-- An instruction after which the byte at 0 reads 1 has changed a byte of memory. -/
theorem vectorPastSpace_not_sameBytes {i : Instr} {t : State} (ran : exec i (vectorPastSpace kind) = .next t)
    (after : byteAfter 0 (exec i (vectorPastSpace kind)) = some 1) : ¬(vectorPastSpace kind).SameBytes t := by
  intro same
  have zero : t.byteAt 0 = 0 := (same 0 (by decide)).trans vectorPastSpace_byte_before
  rw [ran] at after
  have one : t.byteAt 0 = 1 := Option.some.inj after
  exact absurd (zero.symm.trans one) (by decide)

end

theorem vectorPastSpace_vld_after : byteAfter 0 (exec (.vld 2 0 1) (vectorPastSpace 0)) = some 1 := by decide +kernel
theorem vectorPastSpace_xreadv_after : byteAfter 0 (exec (.xreadv 2 0 1) (vectorPastSpace 3)) = some 1 := by decide +kernel

/-- Refutes O32: as in `not_loads`, nothing bounds the address that a cached leaf gives by the 56 bits of R366. The copy of the line at 2^56
that a vector load of one element fills in slice 0 stands as agent 1's copy of line 0 (`copyKey`), so that the byte at 0 reads 0 before the
load and 1 after it. -/
theorem not_vectorMemory : ¬Obligations.VectorMemory := by
  unfold Obligations.VectorMemory
  intro h
  obtain ⟨vld, -⟩ := h (vectorPastSpace 0) (vectorPastSpace 0) 2 0 0 1 (fun _ => 2 ^ 56) (vectorPastSpace_lanesReady 0)
  obtain ⟨t, ran, -, -, -, -, -, same, -⟩ := vld fun j hj active => by
    obtain rfl := vectorPastSpace_active 0 hj active
    exact ⟨rfl, vectorPastSpace_cached rfl rfl trivial trivial, fun _ _ _ _ => rfl⟩
  exact vectorPastSpace_not_sameBytes ran vectorPastSpace_vld_after same

/-- Refutes O33: the same of an exact read of a frozen page at 2^56. The copy that XREADV fills in slice 0 stands as agent 1's copy of
line 0, so that the byte at 0 reads 0 before it and 1 after it. -/
theorem not_vectorLines : ¬Obligations.VectorLines := by
  unfold Obligations.VectorLines
  intro h
  obtain ⟨-, xreadv⟩ := h (vectorPastSpace 3) (vectorPastSpace 3) 2 0 0 1 0 0 (fun _ => 2 ^ 56) (vectorPastSpace_lanesReady 3)
  obtain ⟨t, ran, -, -, -, -, same⟩ := xreadv fun k ⟨hk, j, hj, active⟩ => by
    have first := vectorPastSpace_active 3 (by omega) active
    obtain rfl : k = 0 := by omega
    have places : ∀ j < 32, readsPastSpace.place (2 ^ 56 + 4 * j) = .device (2 ^ 56 + 4 * j) := by decide +kernel
    have offsets : ∀ j < 32, (pagePastSpaceOf 3).addr (BitVec.ofNat 64 (4 * j)) = 2 ^ 56 + 4 * j ∧
        (lineLeaf (2 ^ 56) 3 true true false).addr (BitVec.ofNat 64 (4 * j)) = 2 ^ 56 + 4 * j := by decide +kernel
    refine ⟨rfl, vectorPastSpace_cached rfl rfl ⟨.inl rfl, fun j hj => ?_⟩ ⟨.inl rfl, fun j hj => ?_⟩, rfl⟩
    · exact (congrArg _ ((congrArg _ (BitVec.zero_add _)).trans (offsets j hj).1)).trans (places j hj)
    · exact (congrArg _ ((congrArg _ (BitVec.zero_add _)).trans (offsets j hj).2)).trans (places j hj)
  exact vectorPastSpace_not_sameBytes ran vectorPastSpace_xreadv_after same
end Sys2Proof.Machine

namespace Sys2Proof.Machine

/-! A store timeout that uncovers a page-table entry (R232, R382, R409). -/

/-- A write of the context `{ crew := 0, n := 0 }` on its way to another package, not counted within the store timeout. -/
def lateWrite : Owed where
  id := 7
  ctx := { crew := 0, n := 0 }
  record := some 64
  maker := .store 0
  tagged := true
  parts := 1
  host := 0
  fails := .none
  since := 0

/-- The root table lies in package 1, behind a link that is up. In that package's memory its entry maps the undo region of launch 5; the
late write, still travelling, clears the entry. The task of launch 5 waits for the write. -/
def losesTableWrite : State :=
  { State.reset with
    clock := 1750000
    mem := [(2 ^ 41, 3)]
    crews := [(0, { Crew.fresh with ctxs := [(0, { Ctx.fresh with record := 64, launch := 5 })] })]
    slots := [(0, { Slot.fresh with state := 2, launch := 5, image := 65536 * 256 ^ 0xB0 })]
    owed := [lateWrite]
    flying := [{ id := 0, owed := some 7, line := 2 ^ 34, va := 0, cargo := .write 0 0xFF }]
    pkg := { Pkg.fresh with root := 2 ^ 41, links := [(0, { Link.fresh with state := 2 })], routes := [(1, 1)] } }

/-- The failures that wait at a context after an event. -/
def failsAfter (i : CtxId) : Out → Option Failures
  | .next t => some (t.ctxAt i).arrFails
  | _ => none

/-- While the write travels the walk to the undo region's overflow word fails, so that no job rolls back (R409). -/
theorem losesTableWrite_rollback_before :
    losesTableWrite.rollbackFor (losesTableWrite.ctxAt { crew := 0, n := 0 }).launchId = none := by decide +kernel

theorem losesTableWrite_creditor : losesTableWrite.creditor lateWrite = some { crew := 0, n := 0 } := by decide +kernel

/-- Once the write is discarded the walk succeeds: the job rolls back in place of the failure. -/
theorem losesTableWrite_fails_after :
    failsAfter { crew := 0, n := 0 } (exec (.storeTimeout { crew := 0, n := 0 } 0) losesTableWrite) = some .none := by decide +kernel

/-- Refutes O44: the statement asks before the event whether the job rolls back, the machine after it has discarded the write that is late
(`State.timeOut`). Reads of another package go behind the writes on their way to it (`State.remoteLine`), page walks too (`State.readEntry`),
so that the discarded write can be what hid a table entry: the walk to the undo region, which failed, succeeds, and the rollback takes the
place of the failure that the accumulator was to hold. -/
theorem not_countEvents : ¬Obligations.CountEvents := by
  unfold Obligations.CountEvents
  intro h
  obtain ⟨-, -, -, -, -, -, -, late, -⟩ := h losesTableWrite { crew := 0, n := 0 } 0 ⟨0, false⟩ [] lateWrite [] []
  obtain ⟨tagged, -⟩ := late rfl rfl rfl (by decide) (fun x hx => absurd hx List.not_mem_nil) rfl (by decide) losesTableWrite_creditor
  obtain ⟨t, ran, -, -, -, fails, -⟩ := tagged rfl losesTableWrite_rollback_before
  have after := losesTableWrite_fails_after
  rw [ran] at after
  have gone : (t.ctxAt { crew := 0, n := 0 }).arrFails = .none := Option.some.inj after
  have counted : (t.ctxAt { crew := 0, n := 0 }).arrFails.timedout = 1 := by rw [fails]; decide +kernel
  rw [gone] at counted
  exact absurd counted (by decide)

end Sys2Proof.Machine

namespace Sys2Proof.Machine

/-! The checks of a handle (R25, R235, R237). -/

/-- A handle is named when it is valid and not stale (R237 steps 1–2). -/
theorem State.names_iff {s : State} {h : BitVec 32} : s.Names h ↔ hValid h = true ∧ s.stale s.cur.crew h = false := by
  have fresh : s.stale s.cur.crew h = false ↔ ((s.slotNamed s.cur.crew h).alloc = true ∧ (s.slotNamed s.cur.crew h).st ≠ .draining) ∧
      (s.slotNamed s.cur.crew h).gen = h.extractLsb' 10 12 := by
    simp [State.stale, hGen, and_assoc]
  exact ⟨fun n => ⟨n.valid, fresh.2 ⟨n.slot, n.generation⟩⟩, fun ⟨v, f⟩ => ⟨v, (fresh.1 f).1, (fresh.1 f).2⟩⟩

section
variable {s : State} {r : BitVec 4}

theorem State.checkHandle_of_names (h : s.Names (s.cx.getT r)) : s.checkHandle r = none := by
  obtain ⟨valid, fresh⟩ := State.names_iff.1 h
  simp [State.checkHandle, State.handleIn, valid, fresh]

theorem State.checkHandle_of_null (h : (s.cx.getT r).getLsbD 31 = false) : s.checkHandle r = some (0x100, r.setWidth 64) := by
  have null : hValid (s.cx.getT r) = false := h
  simp [State.checkHandle, State.handleIn, null]

theorem State.checkHandle_of_stale (h : (s.cx.getT r).getLsbD 31 = true) (stale : ¬s.Names (s.cx.getT r)) :
    s.checkHandle r = some (0x101, (s.cx.getT r).setWidth 64) := by
  have valid : hValid (s.cx.getT r) = true := h
  have gone : s.stale s.cur.crew (s.cx.getT r) = true := by
    simpa [State.names_iff, valid] using stale
  simp [State.checkHandle, State.handleIn, valid, gone]

end

/-! The first failure of a list of checks. -/

@[simp] theorem firstFault_nil : firstFault [] = none := rfl
@[simp] theorem firstFault_none (l : List (Option (Nat × Word))) : firstFault (none :: l) = firstFault l := rfl
@[simp] theorem firstFault_some (x : Nat × Word) (l : List (Option (Nat × Word))) : firstFault (some x :: l) = some x := rfl
@[simp] theorem trapOr_none (s : State) (k : Res Next) : trapOr none s k = k := rfl
@[simp] theorem trapOr_some (c : Nat) (v : Word) (s : State) (k : Res Next) : trapOr (some (c, v)) s k = .trap c v s := rfl

/-- An instruction whose first failing check gives a cause traps with it. -/
theorem trapOr_close {s : State} {c : Nat} {v : Word} {k : Res Next} {f : Option (Nat × Word)} (h : f = some (c, v)) (hc : c ≠ heldCause) :
    (trapOr f s k).close = .next (s.enterTrap s.cur c v s.pc 0 false) := by
  rw [h, trapOr_some, Res.close_trap _ _ _ hc]

/-! Index maps (R246, R247). -/

/-- The word that a decode or privilege trap reports (R115). -/
theorem wordOf_of_encode {i : Instr} {w : BitVec 32} (h : encode i = some w) : wordOf i = w.setWidth 64 := by
  rw [wordOf, h, Option.getD_some]

/-- A context whose register gets a handle with a map (R246). -/
def Ctx.mapped (c : Ctx) (e : BitVec 4) (h : BitVec 32) (kind : Nat) (v : Word) (x : BitVec 32) : Ctx :=
  (c.setT e h).setMap e { kind := kind, param := v, index := x }

section
variable {s : State} {i : Instr} {kind : Nat} {e a : BitVec 4} {b : BitVec 6}

/-- A map that imports no handle: the checks in their order, then the register. -/
theorem State.mapTile_checked (h : ¬(kind = 0 ∧ s.X b ≠ 0)) :
    s.mapTile i kind e a b = trapOr (firstFault [s.checkHandle a,
      if s.X b &&& ~~~mapMask kind ≠ 0 then some (0x109, s.X b) else none,
      if kind = 5 then s.checkHandle ((s.X b).extractLsb' 0 4) else none,
      if kind = 5 && !s.indexBank (s.handleIn ((s.X b).extractLsb' 0 4)) then some (0x108, wordOf i) else none]) s
      (.ok .seq (s.upd fun c => c.mapped e (s.cx.getT a) kind (s.X b) (if kind = 5 then s.cx.getT ((s.X b).extractLsb' 0 4) else 0))) := by
  rw [State.mapTile, if_neg h]
  rfl

/-- A named tile under a parameter that its kind permits, which no gather reads. -/
theorem State.mapTile_plain (h : ¬(kind = 0 ∧ s.X b ≠ 0)) (hk : kind ≠ 5) (named : s.Names (s.cx.getT a))
    (legal : s.X b &&& ~~~mapMask kind = 0) :
    (s.mapTile i kind e a b).close = .next (s.upd fun c => (c.mapped e (s.cx.getT a) kind (s.X b) 0).advance .seq) := by
  rw [State.mapTile_checked h, State.checkHandle_of_names named]
  simp [hk, legal]

/-- A handle that names no slot is refused before the parameter. -/
theorem State.mapTile_refused (h : ¬(kind = 0 ∧ s.X b ≠ 0)) {c : Nat} {v : Word} (hc : c ≠ heldCause)
    (refused : s.checkHandle a = some (c, v)) : (s.mapTile i kind e a b).close = .next (s.enterTrap s.cur c v s.pc 0 false) := by
  rw [State.mapTile_checked h, refused]
  exact trapOr_close rfl hc

theorem State.mapTile_badParameter (h : kind ≠ 0) (named : s.Names (s.cx.getT a)) (bad : s.X b &&& ~~~mapMask kind ≠ 0) :
    (s.mapTile i kind e a b).close = .next (s.enterTrap s.cur 0x109 (s.X b) s.pc 0 false) := by
  rw [State.mapTile_checked fun z => h z.1, State.checkHandle_of_names named, if_pos bad]
  exact trapOr_close rfl (by decide)

/-- A gather of a named tile under a legal parameter turns on its index tile. -/
theorem State.mapTile_gather (named : s.Names (s.cx.getT a)) (legal : s.X b &&& ~~~mapMask 5 = 0) :
    s.mapTile i 5 e a b = trapOr (firstFault [s.checkHandle ((s.X b).extractLsb' 0 4),
      if !s.indexBank (s.cx.getT ((s.X b).extractLsb' 0 4)) then some (0x108, wordOf i) else none]) s
      (.ok .seq (s.upd fun c => c.mapped e (s.cx.getT a) 5 (s.X b) (s.cx.getT ((s.X b).extractLsb' 0 4)))) := by
  rw [State.mapTile_checked (by simp), State.checkHandle_of_names named]
  simp [legal, State.handleIn]

end

theorem bfFmt_eq (b : Word) : bfFmt b = b.toNat % 16 := by simp [bfFmt]
theorem bfScale_eq (b : Word) : bfScale b = b.toNat / 16 % 4 := by simp [bfScale, Nat.shiftRight_eq_div_pow]

/-- A bank may hold an index tile when its format is INT16, INT8, UINT8, INT4 or UINT4, unscaled (R247). -/
theorem State.indexBank_iff (s : State) (r : BitVec 4) :
    s.indexBank (s.cx.getT r) = true ↔ 11 ≤ (s.bankOf r).toNat % 16 ∧ (s.bankOf r).toNat / 16 % 4 = 0 := by
  simp only [State.indexBank, State.bankOf, State.handleIn, bfFmt_eq, bfScale_eq, Bool.and_eq_true, decide_eq_true_eq, beq_iff_eq]

/-- An import's parameter is a handle: VALID is set, and bits [63:32] and [30:26] are 0 (R247). -/
theorem importBad_iff (v : Word) :
    (v.extractLsb' 32 32 ≠ 0 || v.extractLsb' 26 5 ≠ 0 || !v.getLsbD 31) = true ↔ v.toNat / 2 ^ 26 ≠ 32 := by
  have bit : v.getLsbD 31 = decide (v.toNat / 2 ^ 31 % 2 = 1) := by
    rw [BitVec.getLsbD, Nat.testBit_eq_decide_div_mod_eq]
  have lt := v.isLt
  simp only [bit, Bool.or_eq_true, decide_eq_true_eq, Bool.not_eq_true', decide_eq_false_iff_not, ne_eq, extractLsb'_eq_zero_iff]
  omega

/-- Settles O34: the maps by the checks of `State.mapTile` in their order, the rest by one update each. -/
theorem tileRegisters : Obligations.TileRegisters := by
  unfold Obligations.TileRegisters
  intro s e a b k v h r j bf indexes mapped plain masks
  have run : ∀ x ∈ plain, exec x.1 s = (s.mapTile x.1 x.2.1 e a b).close ∧ x.2.1 ≠ 0 ∧ x.2.1 ≠ 5 ∧ x.2.2 = mapMask x.2.1 := by
    intro x hx
    simp only [plain, List.mem_cons, List.not_mem_nil, or_false] at hx
    obtain rfl | rfl | rfl | rfl := hx <;> exact ⟨rfl, nofun, nofun, rfl⟩
  have maskRun : ∀ x ∈ masks, ∃ kind, exec x.1 s = (s.mapTile x.1 kind e a b).close ∧ kind ≠ 0 ∧ x.2 = mapMask kind := by
    intro x hx
    obtain rfl | hx := List.mem_cons.1 hx
    · exact ⟨5, rfl, nofun, rfl⟩
    · obtain ⟨y, hy, rfl⟩ := List.mem_map.1 hx
      obtain ⟨ran, kind, -, mask⟩ := run y hy
      exact ⟨y.2.1, ran, kind, mask⟩
  refine ⟨?tshape, fun import' legal => ?imports, fun import' bad => ?badHandle, fun zero named => ?ident,
    fun named => ⟨fun x hx legal => ?plain, fun x hx bad => ?parameter, fun legal => ⟨fun index bank => ?gather, fun index bank w hw => ?bank,
      fun null => ?nullIndex, fun valid stale => ?staleIndex⟩⟩,
    fun i hi => ?refused, fun ok => ?program, fun bad => ?illegal⟩
  case tshape => exact congrArg Host.Outcome.next (State.upd_upd s _ _)
  case imports =>
    have ran : exec (.tmapId e a b) s = (Res.ok .seq (s.upd fun c => c.placeHandle e (v.setWidth 32))).close := by
      show (s.mapTile _ 0 e a b).close = _
      rw [State.mapTile, if_pos ⟨rfl, import'⟩, if_neg (mt (importBad_iff v).1 (not_not_intro legal))]
    rw [State.Becomes, ran, Res.close_ok, State.upd_upd]
    rfl
  case badHandle =>
    show (s.mapTile _ 0 e a b).close = _
    rw [State.mapTile, if_pos ⟨rfl, import'⟩, if_pos ((importBad_iff v).2 bad), Res.close_trap _ _ _ (by decide)]
  case ident => exact State.mapTile_plain (fun i => i.2 zero) nofun named ((congrArg (· &&& _) zero).trans (BitVec.zero_and))
  case plain =>
    obtain ⟨ran, kind, gather, mask⟩ := run x hx
    exact ran.trans (State.mapTile_plain (fun i => kind i.1) gather named (mask ▸ legal))
  case parameter =>
    obtain ⟨kind, ran, import', mask⟩ := maskRun x hx
    exact ran.trans (State.mapTile_badParameter import' named (mask ▸ bad))
  case gather =>
    show (s.mapTile _ 5 e a b).close = _
    rw [State.mapTile_gather named legal, State.checkHandle_of_names index, (State.indexBank_iff s r).2 bank]
    exact congrArg Host.Outcome.next (State.upd_upd s _ _)
  case bank =>
    show (s.mapTile _ 5 e a b).close = _
    rw [State.mapTile_gather named legal, State.checkHandle_of_names index, Bool.eq_false_iff.2 (mt (State.indexBank_iff s r).1 bank)]
    exact trapOr_close (congrArg (fun w => some (0x108, w)) (wordOf_of_encode hw)) (by decide)
  case nullIndex =>
    show (s.mapTile _ 5 e a b).close = _
    rw [State.mapTile_gather named legal, State.checkHandle_of_null null]
    exact trapOr_close rfl (by decide)
  case staleIndex =>
    show (s.mapTile _ 5 e a b).close = _
    rw [State.mapTile_gather named legal, State.checkHandle_of_stale valid stale]
    exact trapOr_close rfl (by decide)
  case refused =>
    have ran : ∃ kind, exec i s = (s.mapTile i kind e a b).close ∧ ¬(kind = 0 ∧ v ≠ 0) := by
      obtain hi | hi := List.mem_append.1 hi
      · obtain ⟨x, hx, rfl⟩ := List.mem_map.1 hi
        obtain ⟨kind, ran, import', -⟩ := maskRun x hx
        exact ⟨kind, ran, fun i => import' i.1⟩
      · by_cases zero : v = 0
        · rw [if_pos zero, List.mem_singleton] at hi
          subst hi
          exact ⟨0, rfl, fun i => i.2 zero⟩
        · rw [if_neg zero] at hi
          exact absurd hi List.not_mem_nil
    obtain ⟨kind, ran, checked⟩ := ran
    exact ⟨fun null => ran.trans (State.mapTile_refused checked (by decide) (State.checkHandle_of_null null)),
      fun valid stale => ran.trans (State.mapTile_refused checked (by decide) (State.checkHandle_of_stale valid stale))⟩
  case program =>
    show execTmprog b s = _
    rw [execTmprog, if_pos ok, Res.close_ok, State.upd_upd]
  case illegal =>
    show execTmprog b s = _
    rw [execTmprog, if_neg (Bool.eq_false_iff.1 bad), Res.close_trap _ _ _ (by decide)]

end Sys2Proof.Machine

namespace Sys2Proof.Machine

/-! Recording a node in the thunk table (R237, R238, R249). -/

section
variable {s : State}

/-- An output passes R237 step 3. -/
theorem State.checkOutput_of_output {e : BitVec 4} (h : s.Output (s.cx.getT e)) : s.checkOutput e = none := by
  obtain ⟨names, here, ⟨task, owned⟩, empty⟩ := h
  have held : s.cx.hasTask = true := bne_iff_ne.2 task
  simp [State.checkOutput, State.checkHandle_of_names names, State.handleIn, here, owned, empty, held]

theorem State.usable_of_usable {h : BitVec 32} (u : s.Usable h) : s.usable h true = true := by
  rcases u with ready | ⟨filling, here, j, n, writer, own⟩
  · simp [State.usable, ready]
  · simp [State.usable, filling, here, writer, own]

theorem State.awaitInputs_of_usable {pending : Bool} {hs : List (BitVec 32)} (h : ∀ x ∈ hs, s.usable x pending = true) :
    s.awaitInputs pending hs = none := by
  induction hs with
  | nil => rfl
  | cons x r ih =>
    rw [State.awaitInputs, if_pos (h x List.mem_cons_self)]
    exact ih fun y hy => h y (List.mem_cons_of_mem _ hy)

/-- An input of a node: its handle is named and usable, and so is the index tile of its gather (R238, R347). -/
def State.InputReady (s : State) (r : BitVec 4) : Prop :=
  s.Names (s.cx.getT r) ∧ s.Usable (s.cx.getT r) ∧
    ((s.cx.mapOf r).kind = 5 → s.Names (s.cx.mapOf r).index ∧ s.Usable (s.cx.mapOf r).index)

theorem State.checkIndex_of_inputReady {r : BitVec 4} (h : s.InputReady r) : s.checkIndex r = none := by
  obtain ⟨-, -, index⟩ := h
  by_cases gather : (s.cx.mapOf r).kind = 5
  · obtain ⟨-, fresh⟩ := State.names_iff.1 (index gather).1
    simp [State.checkIndex, fresh]
  · simp [State.checkIndex, gather]

/-- Checks that all pass. -/
theorem firstFault_of_forall {l : List (Option (Nat × Word))} (h : ∀ x ∈ l, x = none) : firstFault l = none := by
  induction l with
  | nil => rfl
  | cons x r ih =>
    rw [h x List.mem_cons_self, firstFault_none]
    exact ih fun y hy => h y (List.mem_cons_of_mem _ hy)

/-- A table with room takes a node without a victim (R345, R346). -/
theorem State.victim_of_room {j : Nat} (room : s.NodeRoom j) {range : Bool}
    (ranges : range = true → ((s.crewAt s.cur.crew).nodes.filter fun p => p.2.range.isSome).length < 256) :
    s.victim range = (false, none) := by
  have own : ((s.crewAt s.cur.crew).nodes.map Prod.snd).countP (fun n => n.record == s.cx.record) < 64 := by
    rw [List.countP_map, List.countP_eq_length_filter]
    exact room.task
  have table : ((s.crewAt s.cur.crew).nodes.map Prod.snd).length < 256 := by
    rw [List.length_map]
    exact room.table
  have source : ¬(range && decide (256 ≤ ((s.crewAt s.cur.crew).nodes.map Prod.snd).countP fun n => n.range.isSome)) = true := by
    rw [Bool.and_eq_true, decide_eq_true_eq, List.countP_map, List.countP_eq_length_filter, not_and, Nat.not_le]
    exact ranges
  have far : ¬((s.crewAt s.cur.crew).nodes.map Prod.snd).any
      (fun n => n.cno != (s.crewAt s.cur.crew).cno && decide (s.age s.cur.crew n.cno ≤ 2 ^ 31)) = true := by
    rw [Bool.not_eq_true, List.any_eq_false]
    intro n hn
    obtain ⟨p, hp, rfl⟩ := List.mem_map.1 hn
    rw [Bool.and_eq_true, bne_iff_ne, decide_eq_true_eq, not_and, Nat.not_le]
    exact fun other => (room.near p hp).resolve_left other
  simp only [State.victim]
  rw [if_neg (Nat.not_le.2 own), if_neg (Nat.not_le.2 table), if_neg source, if_neg far]

theorem State.freeNode_of_room {j : Nat} (room : s.NodeRoom j) : s.freeNode s.cur.crew = j := by
  obtain ⟨lt, free, least⟩ := room.free
  have found : (List.range 256).find? (fun i => (s.nodeAt? s.cur.crew i).isNone) = some j :=
    List.find?_range_eq_some.2 ⟨by rw [free]; rfl, List.mem_range.2 lt, fun i hi => by simp [Option.isSome_iff_ne_none.2 (least i hi)]⟩
  rw [State.freeNode, found, Option.getD_some]

end

/-- An input of a node as a register gives it (R329). -/
def State.nodeInput (s : State) (r : BitVec 4) : NodeIn := { handle := s.handleIn r, reg := r.toNat, map := s.cx.mapOf r }

theorem mget?_foldl_mput_of_ne {α β : Type} (f : β → α) (l : List (Nat × β)) (m : Map α) {p : Nat} (h : ∀ q ∈ l, q.1 ≠ p) :
    mget? (l.foldl (fun m q => mput m q.1 (f q.2)) m) p = mget? m p := by
  induction l generalizing m with
  | nil => rfl
  | cons q r ih =>
    rw [List.foldl_cons, ih _ fun x hx => h x (List.mem_cons_of_mem _ hx)]
    exact mget?_mput_other m _ (h q List.mem_cons_self).symm

theorem mget?_foldl_mput_of_mem {α β : Type} (f : β → α) {l : List (Nat × β)} (nodup : (l.map Prod.fst).Nodup) (m : Map α) {p : Nat} {b : β}
    (h : (p, b) ∈ l) : mget? (l.foldl (fun m q => mput m q.1 (f q.2)) m) p = some (f b) := by
  induction l generalizing m with
  | nil => cases h
  | cons q r ih =>
    obtain ⟨fresh, nodup⟩ := List.nodup_cons.1 nodup
    rw [List.foldl_cons]
    rcases List.mem_cons.1 h with rfl | h
    · rw [mget?_foldl_mput_of_ne f r _ fun x hx e => fresh (List.mem_map.2 ⟨x, hx, e⟩), mget?_mput_same]
    · exact ih nodup _ h

/-- The node that an instruction records (R249 step 5). -/
def State.newNode (s : State) (i : Instr) (e : BitVec 4) (regs : List (Nat × BitVec 4)) (xa : Word) (range : Option (Nat × Nat)) : Node where
  word := (encode i).getD 0
  cpc := s.cx.pc
  cno := (s.crewAt s.cur.crew).cno
  ctx := s.cur
  record := s.cx.record
  serial := s.cx.serial
  launch := s.cx.launch
  out := s.handleIn e
  outReg := e.toNat
  ins := regs.foldl (fun m p => mput m p.1 (s.nodeInput p.2)) []
  xa := xa
  tsh := s.cx.tsh
  k4 := s.cx.fp.k4hi ++ s.cx.fp.k4lo
  fpctl := s.cx.fp.fpctl
  mprog := s.cx.mprog
  mask := 0
  st := .live
  sub := 0
  step := 0
  group := 0
  flags := 0
  cause := 0
  range := range
  stage := []
  staged := false
  demand := none
  evaluators := []
  owed := none
  told := false
  aborted := false

/-- A crew that takes a node into its table: the next creation number is one higher, and the output slot is FILLING (R249 steps 5–6). -/
def Crew.takeNode (c : Crew) (j : Nat) (n : Node) : Crew :=
  { c with
    nodes := mput c.nodes j n
    cno := (c.cno + 1) % 2 ^ 32
    tiles := mput c.tiles (hSlot n.out) { mget Tile.fresh c.tiles (hSlot n.out) with st := .filling } }

/-- With room in the table the node is recorded, and the output register's map is ID. -/
theorem State.record_of_room {s : State} {i : Instr} {e : BitVec 4} {regs : List (Nat × BitVec 4)} {xa : Word} {range : Option (Nat × Nat)}
    {j : Nat} (room : s.NodeRoom j)
    (ranges : range.isSome = true → ((s.crewAt s.cur.crew).nodes.filter fun p => p.2.range.isSome).length < 256) :
    s.record i e regs xa range =
      .ok .seq ((s.updCrew s.cur.crew fun c => c.takeNode j (s.newNode i e regs xa range)).upd fun c => c.setMap e TMap.ident) := by
  rw [State.record, State.victim_of_room room ranges]
  simp only [State.freeNode_of_room room, State.putNode, State.updTile, State.updCrew_updCrew]
  rfl

/-- Sequential execution reads no map. -/
theorem Ctx.advance_seq_setMap (c : Ctx) (e : BitVec 4) (m : TMap) :
    (c.setMap e m).advance .seq = { c.advance .seq with maps := mput c.maps e.toNat m } := by
  show (if c.depth = 0 then _ else _) = _
  by_cases h : c.depth = 0 <;> simp [Ctx.advance, Ctx.stepTo, Ctx.setMap, h]

section
variable (s : State) (j : Nat) (n : Node) (f : Ctx → Ctx)

/-- The crew that issued, after it has taken a node. -/
theorem State.crewAt_takeNode : ((s.updCrew s.cur.crew fun c => c.takeNode j n).upd f).crewAt s.cur.crew =
    ((s.crewAt s.cur.crew).takeNode j n).updCtx s.cur.n f := by
  simp [State.upd, State.updCtx]

theorem State.crewAt_takeNode_other {k : Nat} (h : k ≠ s.cur.crew) :
    ((s.updCrew s.cur.crew fun c => c.takeNode j n).upd f).crewAt k = s.crewAt k :=
  (State.crewAt_updCrew_other (s.updCrew s.cur.crew fun c => c.takeNode j n) (fun c => c.updCtx s.cur.n f) h).trans
    (State.crewAt_updCrew_other s _ h)

theorem State.ctxAt_takeNode (i : CtxId) : (s.updCrew s.cur.crew fun c => c.takeNode j n).ctxAt i = s.ctxAt i :=
  State.ctxAt_updCrew s _ _ i fun _ => rfl

end

/-- What recording a node leaves: `State.Records`, when the instruction has a word and its inputs stand at different positions. -/
theorem State.records_takeNode (s : State) {i : Instr} (e : BitVec 4) {regs : List (Nat × BitVec 4)} (xa : Word) (range : Option (Nat × Nat))
    (j : Nat) (word : (encode i).isSome = true) (nodup : (regs.map Prod.fst).Nodup) :
    s.Records i e regs xa range j ((s.updCrew s.cur.crew fun c => c.takeNode j (s.newNode i e regs xa range)).upd fun c =>
      (c.setMap e TMap.ident).advance .seq) where
  node := by
    refine ⟨s.newNode i e regs xa range, ?_, ?_, rfl, rfl, rfl, rfl, rfl, rfl, fun p hp => ?_, fun p r hr => ?_, rfl, rfl, rfl, rfl, rfl, rfl, rfl⟩
    · rw [State.nodeAt?, State.crewAt_takeNode]
      exact mget?_mput_same _ _ _
    · exact (Option.some_get word).symm.trans (congrArg some (Option.get_eq_getD _))
    · exact mget?_foldl_mput_of_ne s.nodeInput regs [] hp
    · exact mget?_foldl_mput_of_mem s.nodeInput nodup [] hr
  nodes := fun k m other => by
    by_cases hk : k = s.cur.crew
    · subst hk
      rw [State.nodeAt?, State.crewAt_takeNode]
      exact mget?_mput_other _ _ fun e => other (by rw [e])
    · rw [State.nodeAt?, State.crewAt_takeNode_other _ _ _ _ hk]
      rfl
  number := by
    rw [State.crewAt_takeNode]
    rfl
  slot := by
    rw [State.tileAt, State.crewAt_takeNode]
    exact mget_mput_same _ _ _ _
  slots := fun k m other => by
    by_cases hk : k = s.cur.crew
    · subst hk
      rw [State.tileAt, State.crewAt_takeNode]
      exact mget_mput_other _ _ _ fun e => other (by rw [e]; rfl)
    · rw [State.tileAt, State.crewAt_takeNode_other _ _ _ _ hk]
      rfl
  context := by
    rw [State.cx_upd, Ctx.advance_seq_setMap]
    have same : (s.updCrew s.cur.crew fun c => c.takeNode j (s.newNode i e regs xa range)).cx = s.cx := State.ctxAt_takeNode s j _ s.cur
    rw [same]
  contexts := fun c hc => (State.ctxAt_updCtx_other _ _ hc).trans (State.ctxAt_takeNode s j _ c)
  bytes := State.sameBytes_of rfl rfl rfl

/-- An instruction whose output and inputs are ready, with its own checks passed and room for its node, records it (R249). -/
theorem State.createNode_runs {s : State} {i : Instr} {e : BitVec 4} {regs : List (Nat × BitVec 4)} {own : Option (Nat × Word)} {xa : Word}
    {range : Option (Nat × Nat)} {j : Nat} (run : exec i s = (s.createNode i e regs own xa range).close) (word : (encode i).isSome = true)
    (nodup : (regs.map Prod.fst).Nodup) (output : s.Output (s.cx.getT e)) (room : s.NodeRoom j) (inputs : ∀ q ∈ regs, s.InputReady q.2)
    (ranges : range.isSome = true → ((s.crewAt s.cur.crew).nodes.filter fun p => p.2.range.isSome).length < 256) (checked : own = none) :
    s.Runs i (s.Records i e regs xa range j) := by
  have handles : firstFault (s.checkOutput e :: (regs.map fun p => s.checkHandle p.2) ++ regs.map fun p => s.checkIndex p.2) = none := by
    refine firstFault_of_forall fun x hx => ?_
    rcases List.mem_append.1 hx with hx | hx
    · rcases List.mem_cons.1 hx with rfl | hx
      · exact State.checkOutput_of_output output
      · obtain ⟨q, hq, rfl⟩ := List.mem_map.1 hx
        exact State.checkHandle_of_names (inputs q hq).1
    · obtain ⟨q, hq, rfl⟩ := List.mem_map.1 hx
      exact State.checkIndex_of_inputReady (inputs q hq)
  have usable : s.awaitInputs true ((regs.map fun p => s.handleIn p.2) ++ s.indexesOf (regs.map Prod.snd)) = none := by
    refine State.awaitInputs_of_usable fun x hx => State.usable_of_usable ?_
    rcases List.mem_append.1 hx with hx | hx
    · obtain ⟨q, hq, rfl⟩ := List.mem_map.1 hx
      exact (inputs q hq).2.1
    · simp only [State.indexesOf, List.mem_map, List.mem_filter, beq_iff_eq] at hx
      obtain ⟨m, ⟨⟨r, ⟨q, hq, rfl⟩, rfl⟩, gather⟩, rfl⟩ := hx
      exact ((inputs q hq).2.2 gather).2
  have created : s.createNode i e regs own xa range = s.record i e regs xa range := by
    rw [State.createNode, handles, trapOr_none, usable, checked, trapOr_none]
  refine ⟨_, ?_, State.records_takeNode s e xa range j word nodup⟩
  rw [run, created, State.record_of_room room ranges, Res.close_ok, State.upd_upd]

/-- The scaled-operand rule holds of registers whose scaled ones have row-preserving maps (R248). -/
theorem State.operandRule_of_whole {s : State} (i : Instr) {rs : List (BitVec 4)}
    (whole : ∀ r ∈ rs, (s.bankOf r).toNat / 16 % 4 ≠ 0 → (s.cx.mapOf r).rowPreserving = true) : s.operandRule i rs = none := by
  rw [State.operandRule, if_neg]
  rw [Bool.not_eq_true, List.any_eq_false]
  intro r hr
  rw [Bool.and_eq_true, bne_iff_ne, bfScale_eq, Bool.not_eq_true', not_and, Bool.not_eq_false]
  exact whole r hr

/-- A legal TSH3 (R243). -/
theorem shapeBad_three {v : Word} (legal : v.toNat / 4096 = 0 ∧ v.toNat / 16 % 16 = 0) : shapeBad 3 v = false := by
  have high : v.extractLsb' 12 52 = 0 := (extractLsb'_eq_zero_iff _ _ _).2 ((congrArg (· % 2 ^ 52) legal.1).trans (Nat.zero_mod _))
  have mid : v.extractLsb' 4 4 = 0 := (extractLsb'_eq_zero_iff _ _ _).2 legal.2
  rw [shapeBad, high, mid]
  rfl

theorem State.checkShapes_singleton {s : State} {k : BitVec 3} (legal : shapeBad k.toNat (s.cx.getTsh k) = false) : s.checkShapes [k] = none := by
  simp [State.checkShapes, legal]

/-- The field INIT of a legal TSH3 (R258). -/
theorem initField_toNat {v : Word} (legal : v.toNat / 4096 = 0) : (v.extractLsb' 8 4).toNat = v.toNat / 256 := by
  rw [BitVec.extractLsb'_toNat, Nat.shiftRight_eq_div_pow]
  omega

/-- Settles O36, instruction by instruction, by `State.createNode_runs`. -/
theorem nodeRecording : Obligations.NodeRecording := by
  unfold Obligations.NodeRecording
  intro s e a b x c o g p y j base w t3 acc legal3 ins scaled whole bi ready records
  have create : ∀ {i : Instr} {regs : List (Nat × BitVec 4)} {own : Option (Nat × Word)},
      exec i s = (s.createNode i e regs own 0 none).close → (encode i).isSome = true → (regs.map Prod.fst).Nodup → own = none →
      records i regs := fun run word nodup own _ h =>
    State.createNode_runs run word nodup h.1 h.2.1 h.2.2 nofun own
  have matrix : ins = s.matrixRegs a b c ∧ (ins.map Prod.fst).Nodup := by
    by_cases hc : c = 1
    · simp only [ins, State.matrixRegs, if_pos hc]
      exact ⟨rfl, by simp⟩
    · simp only [ins, State.matrixRegs, if_neg hc]
      exact ⟨rfl, by simp⟩
  obtain ⟨regs, nodup⟩ := matrix
  refine ⟨fun h window ranges => ?tload, fun legal hw => ?tmm, fun legal init hw => ?tmmx, fun ho => ?tewTwo, fun ho => ?tewOne,
    ?tred, ?tcvt, ?ttrans, fun format scale => ?tgath, fun scale => ?tqnt⟩
  case tload => exact State.createNode_runs rfl rfl List.nodup_nil h.1 h.2.1 (fun _ hq => absurd hq List.not_mem_nil) (fun _ => ranges) window
  case tmm =>
    rw [regs] at nodup ⊢
    refine create rfl rfl nodup ?_
    have shapes : (if c = 1 then s.checkShapes [3] else none) = none := by
      split
      · next hc => exact State.checkShapes_singleton (k := 3) (shapeBad_three (legal hc))
      · rfl
    rw [shapes, State.operandRule_of_whole _ hw]
    rfl
  case tmmx =>
    rw [regs] at nodup ⊢
    refine create rfl rfl nodup ?_
    have legalInit : ¬(c = 0 ∧ (((s.cx.getTsh 3).extractLsb' 8 4).toNat < 5 ∨ 8 < ((s.cx.getTsh 3).extractLsb' 8 4).toNat)) := by
      rintro ⟨hc, bad⟩
      rw [initField_toNat legal.1] at bad
      have := init hc
      omega
    rw [State.checkShapes_singleton (k := 3) (shapeBad_three legal), if_neg legalInit, State.operandRule_of_whole _ hw]
    rfl
  case tewTwo =>
    exact create (congrArg (fun l => (s.createNode _ e ((0, a) :: l) none 0 none).close) (if_pos ho)) rfl (by simp) rfl
  case tewOne =>
    exact create (congrArg (fun l => (s.createNode _ e ((0, a) :: l) none 0 none).close) (if_neg (Nat.not_lt.2 ho))) rfl (by simp) rfl
  case tred => exact create rfl rfl (by simp) rfl
  case tcvt => exact create rfl rfl (by simp) rfl
  case ttrans => exact create rfl rfl (by simp) rfl
  case tgath => exact create rfl rfl (by simp) (if_pos ((s.indexBank_iff b).2 ⟨format, scale⟩))
  case tqnt => exact create rfl rfl (by simp) (if_pos ((bfScale_eq _).trans scale))

end Sys2Proof.Machine

namespace Sys2Proof.Machine

/-! A task that a cancellation has reached does not wait for a copy queue (R48, R49, R271). -/

/-- A fence entry, as `CQFENCE 1` places it. -/
def fenceInQueue0 : CopyEntry := { State.reset.newEntry false (.global 0) (.global 0) 0 with fence := some (1, 0) }

/-- Copy queue 0 of a task in task mode holds 32 fence entries, and a cancellation has reached the task. -/
def cancelledFullQueue : State :=
  { State.reset with
    crews := [(0, { Crew.fresh with ctxs := [(0, { Ctx.fresh with
      record := 64, cancelled := true
      queues := (Vector.replicate 4 CopyQueue.fresh).set 0 { CopyQueue.fresh with entries := List.replicate 32 fenceInQueue0 } })] })] }

theorem cancelledFullQueue_entries : 32 ≤ (cancelledFullQueue.queueAt cancelledFullQueue.cur 0).entries.length := by decide +kernel

/-- What the issuing context does after an event. -/
def issuerAfter : Out → Option CState
  | .next t => some t.cx.st
  | _ => none

/-- The task is retired and its context is FREE (R49). -/
theorem cancelledFullQueue_after : issuerAfter (exec (.cqfence 1) cancelledFullQueue) = some .free := by decide +kernel

/-- Refutes O50: `CQFENCE` on a full queue does not stall a task that a cancellation has reached. The wait is a point of delivery of the
cancellation (`Res.finish`, R48, R49), so that the task is retired. The statement says `cancelled = false` where `COLL` and `COLLW` wait, and
leaves it out where `CPY` and `CQFENCE` do. -/
theorem not_copies : ¬Obligations.Copies := by
  unfold Obligations.Copies
  intro h
  obtain ⟨-, -, -, -, -, -, -, -, -, full, -⟩ := h cancelledFullQueue State.reset State.reset State.reset 0 0 0 1 0 0 0 0 [] [] 0
  have waits := full (by decide) cancelledFullQueue_entries fun j hj => absurd hj (Nat.not_lt_zero j)
  have after := cancelledFullQueue_after
  rw [waits] at after
  exact absurd (Option.some.inj after) (by rw [State.cx_upd]; decide)

end Sys2Proof.Machine

namespace Sys2Proof.Machine

/-! A tile table that lists a slot twice (R236, R240). -/

/-- A READY tile of the task of record 64. -/
def readyTile : Tile := { Tile.fresh with alloc := true, st := .ready, owner := 64 }

/-- The table of crew 0 lists slot 1 twice: READY, which is what the slot reads as, and DRAINING behind it. The task of record 64 owns slot 0
and holds its handle in every T register. -/
def slotListedTwice : State :=
  { State.reset with
    crews := [(0, { Crew.fresh with
      tiles := [(0, readyTile), (1, readyTile), (1, { readyTile with st := .draining })]
      ctxs := [(0, { Ctx.fresh with record := 64, t := Vector.replicate 16 (mkHandle 0 0 0) })] })] }

/-- The state of a tile slot of crew 0 after an event. -/
def slotStateAfter (n : Nat) : Out → Option TState
  | .next t => some (t.tileAt 0 n).st
  | _ => none

/-- Slot 1 is freed with slot 0. -/
theorem slotListedTwice_after : slotStateAfter 1 (exec (.trel 0) slotListedTwice) = some .empty := by decide +kernel

theorem slotListedTwice_names : slotListedTwice.Names (slotListedTwice.cx.getT 0) := State.names_iff.2 (by decide +kernel)

theorem slotListedTwice_isRead : slotListedTwice.isRead (ownerCrew 0 (slotListedTwice.cx.getT 0)) (hSlot (slotListedTwice.cx.getT 0)) = false := by
  decide +kernel

/-- Refutes O35: `TREL` frees the DRAINING entries of the table that nothing reads (`State.freeDrained`), and takes them from the table's list. The
statement is about every state, a table that lists a slot twice among them. There the second, DRAINING entry
frees a slot that reads as READY, and the slot changes although the statement says that it is left alone. -/
theorem not_tileSlots : ¬Obligations.TileSlots := by
  unfold Obligations.TileSlots
  intro h
  obtain ⟨-, -, unread, -⟩ := h slotListedTwice 0 0 0 0 0
  obtain ⟨t, ran, -, others, -⟩ := unread slotListedTwice_names (by decide +kernel) (by decide +kernel) slotListedTwice_isRead
  have kept : t.tileAt 0 1 = slotListedTwice.tileAt 0 1 := others 0 1 (by decide +kernel) (by decide +kernel)
  have after := slotListedTwice_after
  rw [ran] at after
  have freed : (t.tileAt 0 1).st = .empty := Option.some.inj after
  rw [kept] at freed
  exact absurd freed (by decide +kernel)

end Sys2Proof.Machine

namespace Sys2Proof.Machine

/-! A tile filled by a copy under a table that lists its slot twice (R236, R240, R268). -/

/-- A copy of the tile of slot 0 onto itself, one byte of which is left. -/
def lastBeat : CopyEntry := State.reset.newEntry false (.tile (mkHandle 0 0 0)) (.tile (mkHandle 0 0 0)) 1

/-- The table of crew 0 lists slot 0 twice: FILLING, which is what the slot reads as, and DRAINING behind it. A copy fills the slot. -/
def fillingListedTwice : State :=
  { State.reset with
    crews := [(0, { Crew.fresh with
      tiles := [(0, { readyTile with st := .filling }), (0, { readyTile with st := .draining })]
      ctxs := [(0, { Ctx.fresh with
        record := 64
        queues := (Vector.replicate 4 CopyQueue.fresh).set 0 { CopyQueue.fresh with entries := [lastBeat] } })] })] }

/-- The state in which the copy's launch acts. -/
def fillingListedTwiceActing : State :=
  { fillingListedTwice with actor := fillingListedTwice.ownerLaunch { crew := 0, n := 0 } }

theorem fillingListedTwice_beat : fillingListedTwiceActing.beat { crew := 0, n := 0 } 0 lastBeat =
    .ok (fillingListedTwiceActing, { lastBeat with done := 1 }) := rfl

/-- The copy fills the slot, and the end of the copy frees it. -/
theorem fillingListedTwice_after :
    slotStateAfter 0 (exec (.copyBeat { crew := 0, n := 0 } 0) fillingListedTwice) = some .empty := by decide +kernel

/-- A node, a write-out with its piece and a partial: the statement speaks of them elsewhere, the copy's clause does not. -/
def unusedNode : Node := lastBeat.followOn 0 0 0
def unusedPiece : Piece := { va := 0, pa := 0, data := 0, mask := 0, ex := false, hb := false, bank := none }
def unusedWriteOut : WriteOut := { ctx := { crew := 0, n := 0 }, record := 0, pc := 0, pieces := [], flags := 0 }
def unusedPartial : Partial := { fromPackage := none, crew := 0, round := 0, op := 0, bc := false, len := 0, data := 0 }

/-- Refutes O51: a copy that fills its tile frees at its end the DRAINING entries of the table that nothing reads (`State.finishCopy`,
`State.freeDrained`), and takes them from the table's list. The statement asks of the node table that it lists each entry once
(`risingFrom`), and asks nothing of the tile table. Where that lists the copy's slot a second time, DRAINING, the slot that the last beat
made READY is freed. -/
theorem not_engineSteps : ¬Obligations.EngineSteps := by
  unfold Obligations.EngineSteps
  intro h
  obtain ⟨-, -, -, -, -, -, -, -, beat, -⟩ := h fillingListedTwice fillingListedTwiceActing State.reset State.reset State.reset 0 0 0 0 0 0 0
    unusedNode unusedNode Tile.fresh { crew := 0, n := 0 } lastBeat { lastBeat with done := 1 } [] unusedWriteOut [] unusedPiece [] 0 0 0 0 0
    unusedPartial fun _ => 0
  obtain ⟨moved, -⟩ := beat ⟨rfl, rfl, by decide⟩ ⟨rfl, rfl, by decide⟩ ⟨rfl, rfl⟩
  obtain ⟨-, -, -, fills⟩ := moved fillingListedTwice_beat rfl
  obtain ⟨t, ran, ready, -⟩ := fills (mkHandle 0 0 0) (by decide) rfl rfl (by decide) (by decide +kernel)
  have after := fillingListedTwice_after
  rw [ran] at after
  have freed : (t.tileAt 0 0).st = .empty := Option.some.inj after
  exact absurd (freed.symm.trans ready) (by decide)

end Sys2Proof.Machine
